-- ==== Sys2Proof/Word.lean ====
section
/-!
DEFINITION. The word types of the block: bytes, and the sparse table every large store of the block is held as.
-/

namespace Sys2Proof

/-- A byte (R6). -/
abbrev Byte := BitVec 8

/-- A sparse table by number: keys strictly rising, no entry equal to what an unlisted key reads as. -/
abbrev Tab (α : Type) := List (Nat × α)

/-- Bytes by address; an unlisted address reads zero. -/
abbrev ByteMem := List Host.Cell

end Sys2Proof
end

