-- ==== Sys2Proof/Syntax/Operand.lean ====
section
/-!
DEFINITION. The operands of the commands: queue references, the command header, the fields of sequences, the descriptors
of core operations, and what agents outside the block report with a command.
-/

namespace Sys2Proof

/-- The queue a packet is fetched from: the function, the context tag (0 is the admin queue) and the SQ index (R229). -/
structure QRef where
  fn : Nat
  tag : BitVec 16
  idx : BitVec 3
  deriving DecidableEq, Repr

/-- The command header of R238. `rsvd` says that byte 7 or any other byte or bit of the packet that its row of R246
does not name is nonzero (R10). -/
structure Hdr where
  level : BitVec 4
  flags : BitVec 4
  tag : BitVec 16
  cid : BitVec 16
  cq : BitVec 8
  rsvd : Bool
  deriving DecidableEq, Repr

/-- The fields SEQ_OPEN sets and SEQ_UPDATE changes, in the order of R246. -/
structure SeqFields where
  control : BitVec 8
  view : BitVec 8
  advance : BitVec 16
  adapter : BitVec 32
  position : BitVec 32
  kvLength : BitVec 32
  kvCapacity : BitVec 32
  kvListPages : BitVec 32
  kvListVa : BitVec 64
  inputVa : BitVec 64
  inputTiles : BitVec 32
  budget : BitVec 32
  notifyFence : BitVec 16
  deriving DecidableEq, Repr

/-- A scratchpad address word (R109). -/
structure AddrWord where
  level : BitVec 2
  step : BitVec 14
  base : BitVec 14
  deriving DecidableEq, Repr

/-- MMA descriptor, type 0x01 (R109). -/
structure MmaDesc where
  wFmt : BitVec 4
  aFmt : BitVec 4
  transposed : Bool
  seatGathered : Bool
  rowsM1 : BitVec 6
  colsM1 : BitVec 6
  k : BitVec 32
  aAddr : AddrWord
  aStride : BitVec 16
  wStride : BitVec 16
  wAddr : AddrWord
  k064 : BitVec 16
  seatStride : BitVec 16
  deriving DecidableEq, Repr

/-- ROTATE descriptor, type 0x02 (R110). -/
structure RotateDesc where
  smooth : Bool
  srcBf16 : Bool
  dstBf16 : Bool
  direct : Bool
  blocksM1 : BitVec 4
  rows : BitVec 16
  width : BitVec 32
  blocks : BitVec 64
  src : AddrWord
  dst : AddrWord
  srcStride : BitVec 16
  dstStride : BitVec 16
  sigmaBase : BitVec 16
  qdesc : BitVec 16
  deriving DecidableEq, Repr

/-- QUANTISE descriptor, type 0x03 (R110). -/
structure QuantDesc where
  fmt : BitVec 4
  dynamic : Bool
  srcBf16 : Bool
  rows : BitVec 16
  width : BitVec 32
  src : AddrWord
  dst : AddrWord
  srcStride : BitVec 16
  dstStride : BitVec 16
  rowBase : BitVec 16
  staticEntry : BitVec 16
  deriving DecidableEq, Repr

/-- SCALE descriptor, type 0x04 (R110). -/
structure ScaleDesc where
  bias : Bool
  adapter : Bool
  bf16 : Bool
  rowsM1 : BitVec 6
  colsM1 : BitVec 6
  baseBuf : BitVec 4
  adapterBuf : BitVec 4
  wScaleBase : BitVec 16
  biasBase : BitVec 16
  aScaleBase : BitVec 16
  alphaBase : BitVec 16
  dstStride : BitVec 16
  dst : AddrWord
  deriving DecidableEq, Repr

/-- VEC descriptor, type 0x05 (R110). -/
structure VecDesc where
  func : BitVec 8
  count : BitVec 16
  kind0 : BitVec 2
  kind1 : BitVec 2
  kind2 : BitVec 2
  kindD : BitVec 2
  fmt0 : BitVec 4
  fmt1 : BitVec 4
  fmt2 : BitVec 4
  fmtD : BitVec 4
  src0 : BitVec 32
  src1 : BitVec 32
  src2 : BitVec 32
  dst : BitVec 32
  deriving DecidableEq, Repr

/-- Transfer descriptor, type 0x06, of LOAD, STORE and SCATTER (R110, R470). -/
structure XferDesc where
  cls : BitVec 3
  seatIndexed : Bool
  slot : BitVec 8
  lane : BitVec 4
  tiles : BitVec 16
  spacing : BitVec 16
  offset : BitVec 48
  memStep : BitVec 32
  spad : AddrWord
  tileStep : BitVec 16
  memLevel : BitVec 2
  seatFirst : BitVec 16
  deriving DecidableEq, Repr

/-- GATHER descriptor, type 0x07 (R470). -/
structure GatherDesc where
  cls : BitVec 3
  kind : BitVec 2
  lane : BitVec 4
  seatFirst : BitVec 16
  seatCount : BitVec 16
  tilesPerSeat : BitVec 16
  spacing : BitVec 16
  src : BitVec 32
  spad : AddrWord
  seatStride : BitVec 16
  deriving DecidableEq, Repr

/-- Local descriptor, type 0x08 (R470). -/
structure LocalDesc where
  buffer : BitVec 4
  firstRow : BitVec 6
  rowsM1 : BitVec 6
  rowEntries : Bool
  entry : BitVec 12
  entriesM1 : BitVec 6
  spad : AddrWord
  stride : BitVec 16
  deriving DecidableEq, Repr

/-- ATOMIC descriptor, type 0x09 (R470). -/
structure AtomicDesc where
  cls : BitVec 3
  op : BitVec 8
  slot : BitVec 8
  lane : BitVec 4
  offset : BitVec 64
  spad : AddrWord
  deriving DecidableEq, Repr

/-- What the memory array reported on the read of a tile (R317, R464): no error, single-bit errors corrected, a word that cannot be
corrected, several words of both kinds, or a far tile whose index entry was damaged into the all-zero entry. -/
inductive ReadErr where
  | clean
  | corrected (words : Nat)
  | uncorrectable
  | words (corrected uncorrectable : Nat)
  | lostEntry
  deriving DecidableEq, Repr

/-- What the SEC-DED of a core's memories reported in a tick (R88): words corrected, and, where a word held a double-bit
error, the slots whose operations read it (0 matrix to 4 move, 5 control); all of them for bundle memory. -/
structure CoreErr where
  corrected : Nat
  double : Option (List Nat)
  deriving DecidableEq, Repr

/-- What a core's memories reported in a tick of the round (R88). -/
structure TickErr where
  core : Nat
  tick : Nat
  err : CoreErr
  deriving DecidableEq, Repr

/-- What is told with a bundle: its core's errors in its tick, and errors of cores in ticks that nothing told (R88). -/
structure BundleErr where
  own : CoreErr
  others : List TickErr
  deriving DecidableEq, Repr

/-- What is told with the end of a transfer: what the memory reports of the tile it reads (R317), and errors of cores in ticks that
nothing told (R88). -/
structure XferErr where
  own : ReadErr
  others : List TickErr
  deriving DecidableEq, Repr

/-- What is told with the end of a round: the highest reading of each stack (R312), and errors of cores in ticks that nothing told
(R88). -/
structure RoundReport where
  temps : List Nat
  errs : List TickErr
  deriving DecidableEq, Repr

/-- A part named by GR_BOOT_STATUS.part (R403), by its kind code. -/
structure BuildPart where
  kind : BitVec 2
  index : BitVec 6
  deriving DecidableEq, Repr

/-- The failing data and check connections of a channel of a stack, by connection number (R310). -/
structure ChannelFail where
  stack : Nat
  channel : Nat
  connections : List Nat
  deriving DecidableEq, Repr

/-- What training and the Engine Attach Port report at CONFIG (R23, R310, R460): the declared parts that failed, the failing
connections of the stacks' channels, the populated engine quads and the descriptors read. -/
structure Training where
  failed : List BuildPart
  channels : List ChannelFail
  enginePresent : BitVec 64
  engines : List (List Byte)
  deriving DecidableEq, Repr

/-- The reasons of a fatal record (R413, kind 7). -/
inductive FatalReason where
  | dealerFirmware
  | grottoFirmware
  | internalMemory
  | dieLinkLost
  | farChannelLost
  deriving DecidableEq, Repr

/-- A fatal fault: its reason, and whether the host port still works (R424). -/
structure FatalCause where
  reason : FatalReason
  portWorks : Bool
  deriving DecidableEq, Repr

/-- What fires the Lantern trigger (R440). -/
inductive LtCause where
  | pinEdge
  | blockFault
  deriving DecidableEq, Repr

/-- The three mailboxes (R392). -/
inductive MboxSel where
  | dl
  | gr
  | rcv
  deriving DecidableEq, Repr

/-- The access a failed host-port completion belonged to (R304, R396, R405, R466): the read of the next entry of an admin or context
SQ, the write of the next record of an admin or context CQ, a fence-page access (of the command whose command field of R302 is given,
zero for none), a tile of the mover's command or of the staging of a step, a bus parameter of the manager command fetched with this
header and opcode or of the running BASE_LOAD, the image of the PART_SAVE fetched with this header, a ring entry, a dump, the read of
the buffer of a taken notice, a write of its reply, the image or chain a recovery request names. -/
inductive HostAccess where
  | adminSq (fn : Nat)
  | adminCq (fn : Nat)
  | contextSq (fn : Nat) (tag : BitVec 16) (sq : BitVec 3)
  | contextCq (fn : Nat) (tag : BitVec 16) (cq : BitVec 3)
  | fencePage (tag : BitVec 16) (address command : BitVec 64) (write : Bool)
  | moverCommand (fn : Nat) (tag cid : BitVec 16) (address : BitVec 64) (write : Bool)
  | staging (fn : Nat) (address : BitVec 64)
  | busParameter (h : Hdr) (opcode : BitVec 8)
  | saveImage (vf : Nat)
  | faultRing
  | acctRing
  | lanternDump
  | mailbox (fn : Nat) (mbox : MboxSel)
  | mailboxReply (fn : Nat) (mbox : MboxSel) (write : Nat)
  | bootImage
  deriving DecidableEq, Repr

/-- JTAG instructions: those IEEE 1149.1 makes mandatory, IDCODE, and every other by its code (R387). -/
inductive JtagInst where
  | bypass
  | samplePreload
  | extest
  | idcode
  | other (code : Nat)
  deriving DecidableEq, Repr

end Sys2Proof
end

