-- ==== Sys2Proof/Syntax.lean ====
section
/-!
DEFINITION. The commands of the block: one constructor of `Instr` for each row of spec/opcode_table.json, with the
operands the row's rule names. What an agent outside the block decides (a sampled pin level, the outcome of training)
is an operand of the row that samples it.
-/

namespace Sys2Proof

/-- One constructor for each row of the table. -/
inductive Instr where
  -- guest and admin opcodes (R246)
  | nop (q : QRef) (h : Hdr)
  | memMap (q : QRef) (h : Hdr) (va bytes : BitVec 64) (handle : BitVec 32) (tier attrs page access : BitVec 8)
      (objectOffset backing : BitVec 64)
  | memUnmap (q : QRef) (h : Hdr) (va bytes : BitVec 64)
  | memCopy (q : QRef) (h : Hdr) (srcVa dstVa bytes : BitVec 64)
  | memFill (q : QRef) (h : Hdr) (dstVa bytes pattern : BitVec 64)
  | memImport (q : QRef) (h : Hdr) (srcVa dstVa srcBytes : BitVec 64) (formats flags : BitVec 8)
  | memFree (q : QRef) (h : Hdr) (handle : BitVec 32)
  | planLoad (q : QRef) (h : Hdr) (va : BitVec 64) (length : BitVec 32)
  | planUnload (q : QRef) (h : Hdr) (handle : BitVec 32)
  | stepCmd (q : QRef) (h : Hdr) (plan : BitVec 32) (phase view : BitVec 8) (bindingVa : BitVec 64)
  | seqOpen (q : QRef) (h : Hdr) (f : SeqFields)
  | seqClose (q : QRef) (h : Hdr) (handle : BitVec 32)
  | seqUpdate (q : QRef) (h : Hdr) (f : SeqFields) (mask : BitVec 16) (handle : BitVec 32)
  | adapterBind (q : QRef) (h : Hdr) (va : BitVec 64) (tiles : BitVec 32) (flags : BitVec 8)
  | adapterRelease (q : QRef) (h : Hdr) (handle : BitVec 32)
  | fenceSignal (q : QRef) (h : Hdr) (fence : BitVec 16) (value : BitVec 64)
  | fenceWait (q : QRef) (h : Hdr) (fence : BitVec 16) (value : BitVec 64)
  | query (q : QRef) (h : Hdr) (kind : BitVec 8) (resultVa : BitVec 64)
  | queueCreate (q : QRef) (h : Hdr) (kind index level vector entriesLog2 : BitVec 8) (ring : BitVec 64)
  | queueDestroy (q : QRef) (h : Hdr) (kind index : BitVec 8)
  | ctxCreate (q : QRef) (h : Hdr) (fencePage : BitVec 64) (fenceCount : BitVec 32) (spill : BitVec 64)
      (spillTiles : BitVec 32)
  | ctxDestroy (q : QRef) (h : Hdr)
  | partCreate (q : QRef) (h : Hdr) (vf : BitVec 8) (descriptor : BitVec 64)
  | partDestroy (q : QRef) (h : Hdr) (vf : BitVec 8)
  | partFreeze (q : QRef) (h : Hdr) (vf : BitVec 8)
  | partSave (q : QRef) (h : Hdr) (vf : BitVec 8) (image capacity : BitVec 64)
  | partRestore (q : QRef) (h : Hdr) (vf : BitVec 8) (image bytes : BitVec 64)
  | partThaw (q : QRef) (h : Hdr) (vf : BitVec 8)
  | calendarSet (q : QRef) (h : Hdr) (firstQuad quads : BitVec 16) (table : BitVec 64)
  | baseLoad (q : QRef) (h : Hdr) (descriptor : BitVec 64)
  | baseRelease (q : QRef) (h : Hdr) (baseSet : BitVec 32)
  | debugUnlock (q : QRef) (h : Hdr)
  -- the front end
  | completionRecordWrite (fn : Nat)
  | cqEntryReserve (fn : Nat)
  | fnEnable (fn : Nat)
  | fnDisable (fn : Nat)
  | stoppingDone (fn : Nat)
  | perFunctionReset (fn : Nat) (flr : Bool)
  | perFunctionResetComplete (fn : Nat)
  | aqConfigWrite (fn : Nat) (offset width : Nat) (value : BitVec 64)
  | sqDoorbell (fn : Nat) (width : Nat) (value : BitVec 64)
  | cqDoorbell (fn : Nat) (width : Nat) (value : BitVec 64)
  | fenceDoorbell (fn : Nat) (width : Nat) (value : BitVec 64)
  -- registers of PF0 with behaviour of their own
  | ppsPinWrite (value : BitVec 32)
  | tbNowLatch
  | s2EntryRead (value : BitVec 32)
  | s2EntryWrite (value : BitVec 32)
  | faultRingEnable (value : BitVec 32)
  | acctRingEnable (value : BitVec 32)
  | lanternEnable (value : BitVec 32)
  | lanternArm (value : BitVec 32)
  | lanternDump (value : BitVec 64)
  | lanternTrigger (cause : LtCause)
  | lanternStop
  | registerWrite (fn : Nat) (offset width : Nat) (value : BitVec 64)
  -- mailboxes and bring-up
  | mailboxPost (fn : Nat) (mbox : MboxSel) (value : BitVec 64)
  | mailboxTake (fn : Nat) (mbox : MboxSel) (known : Bool)
  | echo (fn : Nat)
  | versions (fn : Nat)
  | rootKey
  | helper
  | loadGrotto
  | chain
  | licensee
  | config (t : Training)
  | loadDealer
  | start (dealerStarts : Bool)
  | timeBaseStart
  -- SPDM, TDISP and IDE_KM requests, decoded
  | getVersion (fn : Nat)
  | getCapabilities (fn : Nat)
  | negotiateAlgorithms (fn : Nat) (offered : Bool)
  | getDigests (fn : Nat)
  | getCertificate (fn : Nat) (offset length : BitVec 16)
  | challenge (fn : Nat) (nonce : BitVec 256)
  | getMeasurements (fn : Nat) (index : BitVec 8) (nonce : BitVec 256)
  | keyExchange (fn : Nat) (session : BitVec 16) (exchange : BitVec 768)
  | finish (fn : Nat) (mac : BitVec 384)
  | keyUpdate (fn : Nat)
  | endSession (fn : Nat)
  | setMigrationKey (fn : Nat) (vf : BitVec 8) (key : BitVec 256)
  | decommission (fn : Nat)
  | lockInterfaceRequest (vf : BitVec 8) (stream : BitVec 8)
  | startInterfaceRequest (vf : BitVec 8)
  | stopInterfaceRequest (vf : BitVec 8)
  | getDeviceInterfaceState (vf : BitVec 8)
  | getDeviceInterfaceReport (vf : BitVec 8)
  | ideKmQuery (fn : Nat)
  | keyProg (fn : Nat) (stream : BitVec 8) (keySet : Bool) (sub : BitVec 2) (transmit : Bool) (key : BitVec 256)
      (iv : BitVec 96) (accepted : Bool)
  | kSetGo (fn : Nat) (stream : BitVec 8) (keySet : Bool) (sub : BitVec 2) (transmit : Bool) (accepted : Bool)
      (ids : BitVec 32) (secure : BitVec 4)
  | kSetStop (fn : Nat) (stream : BitVec 8) (keySet : Bool) (sub : BitVec 2) (transmit : Bool) (accepted : Bool)
      (ids : BitVec 32) (secure : BitVec 4)
  | streamInsecure (index : BitVec 2)
  -- reset, time and pins
  | resetRelease
  | resetAssert
  | ppsEdgeCapture (tick : Nat)
  | stoppedTimeout
  | roundBoundary (presence cable : Bool) (report : RoundReport)
  | presenceGrant
  | presenceGrantExpiry
  | dbgCableRelease
  -- the Dealer and the cores
  | contextSwapIn (fn : Nat)
  | trickWindowStart
  | bundleIssue (core : Nat) (err : BundleErr)
  | mma (core : Nat) (d : MmaDesc) (buffer : BitVec 4) (clear : Bool)
  | rotate (core : Nat) (d : RotateDesc) (direct : QuantDesc)
  | quantise (core : Nat) (d : QuantDesc)
  | scale (core : Nat) (d : ScaleDesc)
  | vec (core : Nat) (d : VecDesc)
  | load (core : Nat) (d : XferDesc)
  | store (core : Nat) (d : XferDesc)
  | gather (core : Nat) (d : GatherDesc)
  | scatter (core : Nat) (d : XferDesc)
  | accExport (core : Nat) (d : LocalDesc)
  | accImport (core : Nat) (d : LocalDesc)
  | sregLoad (core : Nat) (d : LocalDesc)
  | atomic (core : Nat) (d : AtomicDesc)
  | clipSave (core : Nat) (d : LocalDesc)
  | scrub (core : Nat)
  | stateSave (core : Nat)
  | loop (core : Nat) (level : BitVec 2) (bodyM1 : BitVec 10) (countM1 : BitVec 12)
  | wait (core : Nat) (n : BitVec 24)
  | semSignal (core : Nat) (sem : BitVec 4) (amount : BitVec 12)
  | semWait (core : Nat) (sem : BitVec 4) (amount : BitVec 12)
  | trickEnd (core : Nat)
  | transferComplete (core : Nat) (err : XferErr)
  -- faults
  | recoveryRound (bad : List Nat)
  | fatalFault (cause : FatalCause)
  | engineFault (unit : Nat)
  | hostPortError (access : HostAccess)
  | drainCreditCheck
  | thermSample (alerts : BitVec 12) (pwr : BitVec 32) (valid : Bool)
  -- scheduling and housekeeping
  | placement (bad : List (Nat × Nat))
  | pinInstall (step : Nat)
  | saveTrick (step : Nat)
  | fillTrick (step : Nat) (errs : List (Nat × ReadErr))
  | commit (step : Nat)
  | planVerifyRound (fn : Nat) (errs : List (Nat × ReadErr))
  | moverSlot (slot : Nat) (errs : List (Nat × ReadErr))
  | objectZeroDone (vf : Nat) (index : BitVec 16)
  | invalidationRequest (data : BitVec 128)
  | invalidationComplete (id : Nat)
  | accountingClose
  | calendarSwitch
  | refreshRateChange
  | trimRoundEnd
  | unassignedOpcode (q : QRef) (h : Hdr) (opcode : BitVec 8)
  | jtagInstruction (inst : JtagInst)
  | areaZeroingEnd (vf : Nat)
  deriving DecidableEq, Repr

end Sys2Proof
end

