-- ==== Sys2Proof/Config.lean ====
section
/-!
DEFINITION. What the spec leaves open: values no rule states, and functions named by their standards and not described.
Each is a constant without a body, so that no proof can lean on what it is.
-/

namespace Sys2Proof.Config

open Sys2Proof

/-- A fresh free value: the n-th the block has used (log entry 9). -/
opaque freeValue : Nat → BitVec 64

/-- What the vector unit makes of an element packed in an invalid T byte, by the byte and the element's place in it:
R34 examines T bytes at the weight fetch and at the tile mover only (log entry 30). -/
opaque invalidTrit : BitVec 8 → Nat → BitVec 32

/-- What a lane of an absent VEC source gives, which no rule of R110 states (log entry 42). -/
opaque absentLane : Nat → BitVec 32

/-- Bytes of an attached engine's local store that an engine op may have written, by a count and the place in the tile (log
entry 29). -/
opaque engineByte : Nat → Nat → BitVec 8

/-- The page a fault record names where no rule says which: by kind and reason (log entry 43). -/
opaque faultPage : Nat → Nat → BitVec 40

/-- The priority class of the STEPs of a context SQ, by its index: R206 leaves it to the queue interface, which assigns
none (log entry 12). -/
opaque sqClass : Nat → BitVec 3

/-! ## Saved images (log entry 20) -/

/-- The bytes of a section of a saved image, whose layout belongs to the block (R357), by the section's number. -/
opaque sectionBytes {α : Type} (n : Nat) (x : α) : List Byte

/-- What the bytes of a section hold. -/
opaque sectionData {α : Type} (n : Nat) (bs : List Byte) : Option α

/-! ## Cryptography (log entry 7) -/

/-- SHA-384 (R361). -/
opaque sha384 : List Byte → BitVec 384

/-- HMAC-SHA-384 of a message under a secret (R364). -/
opaque hmac384 : List Byte → List Byte → BitVec 384

/-- The public key of a P-384 private key, as 97 bytes. -/
opaque publicKey : BitVec 384 → BitVec 776

/-- An ECDSA P-384 signature under a private key. -/
opaque sign : BitVec 384 → List Byte → BitVec 768

/-- Whether a signature under a public key verifies. -/
opaque verifies : List Byte → List Byte → BitVec 768 → Bool

/-- The tag of AES-256-GCM: key, initialisation vector, additional data, ciphertext. -/
opaque gcmTag : BitVec 256 → BitVec 96 → List Byte → List Byte → BitVec 128

/-- A data unit under AES-XTS-256: key, tweak, plaintext (R322). -/
opaque xts : BitVec 512 → BitVec 128 → List Byte → List Byte

/-- A byte of the AES-256-GCM keystream: key, initialisation vector, index. -/
opaque gcmStream : BitVec 256 → BitVec 96 → Nat → BitVec 8

/-- The n-th draw of the Grotto's random bit generator (R361, log entry 8). -/
opaque random : Nat → BitVec 512

/-- The export master secret of a session by the SPDM key schedule (R370). -/
opaque exportSecret : BitVec 384 → List Byte

/-- The secrets of an SPDM session by its key schedule: the exchange data and the Grotto's own half (R369). -/
opaque sessionSecret : BitVec 768 → BitVec 512 → BitVec 384

/-- The secrets of a session after KEY_UPDATE. -/
opaque updateSecret : BitVec 384 → BitVec 384

/-- Whether a FINISH message's HMAC fits the session's secrets. -/
opaque finishVerifies : BitVec 384 → BitVec 384 → Bool

/-- The exchange data of the Grotto's half of a key exchange. -/
opaque exchangeData : BitVec 512 → BitVec 768

/-! ## Memory -/

/-- The check bits that one bit of a 32-byte word and its six upper check bits sets (R309; log entry 112). -/
opaque hamming : Nat → BitVec 10

/-- What a word of a halted block reads as where R424 does not keep it readable, by function and offset (log entry 118). -/
opaque haltedRead : Nat → BitVec 32

/-- The far slot in which firmware issues a tile of a save or fill trick (R120, R183; log entry 97). -/
opaque spillSlot : Nat → Nat → Nat

/-! ## The Grotto (log entries 7 and 16) -/

/-- SHA-384 of the boot ROM, fixed at manufacture (R367). -/
opaque bootRomDigest : BitVec 384

/-- SHA-384 of the Bareora root key, held in the boot ROM (R404). -/
opaque rootKeyDigest : BitVec 384

/-- The UDS that a block's unclonable function and helper data give (R363). -/
opaque udsOf : List Byte → BitVec 256

/-- Whether the UDS that helper data give fits the check value they carry (R363). -/
opaque helperHolds : List Byte → Bool

/-- The public key a delivered certificate chain's leaf carries (R362, R366). -/
opaque chainLeaf : List Byte → List Byte

/-- The bytes of the Grotto's response, in the form of DSP0274, or of DSP0277 under a session's secrets (R400). -/
opaque replyBytes {α : Type} (secret : Option (BitVec 384)) (x : α) : List Byte

/-- The bytes of a certificate the Grotto signs: subject public key, measurements carried, signature (R364). -/
opaque certificate : BitVec 776 → List Byte → BitVec 768 → List Byte

end Sys2Proof.Config
end

