-- ==== Sys2Proof/Machine/State.lean ====
section
/-!
DEFINITION. The state of the block, as plain data: every register, table, buffer and mode the spec names, and the queue
of waiting commands; the reasons a step can stop; the state right after reset. INVENTORY.md lists each field with its rule.
-/

namespace Sys2Proof.Machine

open Sys2Proof

/-- A timestamp, epoch:round:tick (R12). -/
abbrev Stamp := BitVec 63

/-! ## Time -/

/-- TB_STATUS.pps_state (R142, R159). -/
inductive PpsState where
  | locked | slewing | holdover | stopped
  deriving DecidableEq, Repr

/-- The time base (R131, R159). `boundaryDone` says that the tick-0 duties of the current round have run; `moverSlots` counts
the mover slots of the round that have passed (R328), and `sampled` that the pins were sampled at its end (R153, R433);
`inWindow` is the trim tick of the edge that rule 2 of R141 ends the trim round at. -/
structure TimeBase where
  pps : PpsState
  started : Bool
  epoch : BitVec 32
  round : Nat
  tick : Nat
  boundaryDone : Bool
  moverSlots : Nat
  sampled : Bool
  earlySeen : Bool
  lateSeen : Bool
  inWindow : Option Nat
  lastTrim : BitVec 18
  ppsEdge : Stamp
  alertSeen : BitVec 12
  throttled : BitVec 12
  nextThrottled : BitVec 12
  ppsPin : Bool
  nowLatch : BitVec 32
  deriving DecidableEq, Repr

/-- Calendar tables of every quad: key quad × 1,000 + entry, value owner (R146); the owner of the most recent
round that had one, by quad (R150); and the quads whose cores this round's changeover window scrubs (R101, R133). -/
structure Calendar where
  active : Tab (BitVec 6)
  staged : Tab (BitVec 6)
  lastOwner : Tab (BitVec 6)
  scrubbing : List Nat
  deriving DecidableEq, Repr

/-! ## Build, bring-up and the Grotto -/

/-- The accepted configuration record (R21, R22); `raw` is its 160 bytes. -/
structure Build where
  dies : Nat
  coresPerDie : Nat
  memside : Bool
  galleryMib : Nat
  stackMask : BitVec 12
  farMask : BitVec 16
  farGib : Nat
  maxFunctions : Nat
  designPower : Nat
  standing : Nat
  licenseeId : BitVec 64
  raw : List Byte
  deriving DecidableEq, Repr

/-- An operation of an attached engine (R189). -/
structure EngineOp where
  occupancy : Nat
  latency : Nat
  energyFj : Nat
  deriving DecidableEq, Repr

/-- An attached engine's descriptor (R189). -/
structure Engine where
  engineType : Nat
  order : Nat
  units : Nat
  base : Nat
  localKib : Nat
  maxInFlight : Nat
  scrubTicks : Nat
  ops : List EngineOp
  raw : List Byte
  deriving DecidableEq, Repr

/-- A loaded firmware image: the copy the loader made, and where it starts (R401, R402). -/
structure BootImage where
  bytes : List Byte
  entry : Nat
  deriving DecidableEq, Repr

/-- Bring-up (R403 to R410). `released` is BLK_RESET_N high; `images` are Grotto SRAM's and Dealer instruction memory's, by target. -/
structure Boot where
  released : Bool
  error : BitVec 8
  part : BitVec 8
  stage : BitVec 4
  rootKey : Option (List Byte)
  licensee : Option (List Byte × BitVec 64)
  grottoVersion : Option (BitVec 32)
  dealerVersion : Option (BitVec 32)
  build : Option Build
  engines : List Engine
  dealerStarted : Bool
  zeroed : Bool
  starting : Bool
  images : Tab BootImage
  deriving DecidableEq, Repr

/-- The SPDM session of a secure mailbox (R369). -/
structure Session where
  id : BitVec 16
  secret : BitVec 384
  established : Bool
  updates : Nat
  deriving DecidableEq, Repr

/-- TDISP states (R373). -/
inductive TdispState where
  | unlocked | locked | run | error
  deriving DecidableEq, Repr

/-- A VF's TDISP state machine, its bound stream and the report fixed at the lock (R373, R375). -/
structure Tdisp where
  state : TdispState
  stream : BitVec 8
  report : List Byte
  deriving DecidableEq, Repr

/-- One programmed IDE key set of a sub-stream and direction (R378). -/
structure IdeKey where
  stream : BitVec 8
  keySet : Bool
  sub : BitVec 2
  transmit : Bool
  go : Bool
  deriving DecidableEq, Repr

/-- A measurement block: index and content bytes (R367). -/
structure Measurement where
  index : Nat
  content : List Byte
  deriving DecidableEq, Repr

/-- Capabilities of the responder that R368 states. -/
structure SpdmCaps where
  signedMeasurements : Bool
  freshMeasurements : Bool
  mutualAuth : Bool
  preShared : Bool
  heartbeat : Bool
  deriving DecidableEq, Repr

/-- The algorithms the responder negotiates (R368). -/
inductive SpdmAlg where
  | ecdsaP384
  | sha384
  | ecdheSecp384r1
  | aes256Gcm
  | spdmSchedule
  deriving DecidableEq, Repr

/-- What the Grotto answers to a request of its secure mailboxes (R368 to R378). -/
inductive GrottoReply where
  | version
  | capabilities (caps : SpdmCaps) (dataTransferSize maxMessage : Nat)
  | algorithms (chosen : List SpdmAlg)
  | digests (slot0 : BitVec 384)
  | certificate (bytes : List Byte) (remainder : Nat)
  | challengeAuth (signature : BitVec 768)
  | measurements (blocks : List Measurement) (signature : BitVec 768)
  | keyExchangeRsp (session : BitVec 16) (exchange : BitVec 768) (signature : BitVec 768)
  | finishRsp
  | keyUpdateAck
  | endSessionAck
  | vendor (status : BitVec 8)
  | tdispOk
  | tdispState (s : TdispState)
  | tdispReport (mmioFn mmioBytes : Nat) (bytes : List Byte)
  | tdispError
  | tdispAbsent
  | ideStreams (count : Nat)
  | ideOk
  | ideFail
  | unsupportedRequest
  | unexpectedRequest
  | decryptError
  deriving DecidableEq, Repr

/-- The key register of the mover's cipher engine for a partition: the command it serves, and its key (R361). -/
structure CipherKey where
  cmd : Nat
  key : BitVec 256
  deriving DecidableEq, Repr

/-- The Grotto (R361 to R379, R385 to R390). A key the Grotto does not hold is none. -/
structure Grotto where
  uds : Option (BitVec 256)
  cdi1 : Option (BitVec 384)
  cdi2 : Option (BitVec 384)
  deviceIdPrivate : Option (BitVec 384)
  deviceIdPublic : Option (List Byte)
  aliasKey : Option (BitVec 384)
  attestKey : Option (BitVec 384)
  aliasCert : List Byte
  attestCert : List Byte
  chain : Option (List Byte)
  m2 : Option (BitVec 384)
  m3 : Option (BitVec 384)
  m4 : Option (BitVec 384)
  m5 : Option (BitVec 384)
  debugState : BitVec 8
  unlocking : Bool
  blockFarKey : Option (BitVec 512)
  farKeys : Tab (BitVec 512)
  sessionKeys : Tab (BitVec 256)
  migrationKeys : Tab (BitVec 256)
  lastNonce : Tab (BitVec 96)
  cipherKeys : Tab CipherKey
  sessions : Tab Session
  negotiated : Tab Bool
  tdisp : Tab Tdisp
  ide : List IdeKey
  streamIds : BitVec 32
  streamSecure : BitVec 4
  presenceRun : Nat
  releasedRun : Nat
  grant : Bool
  presence : Bool
  cable : Bool
  draws : Nat
  reply : Option GrottoReply
  deriving DecidableEq, Repr

/-! ## Functions and queues -/

/-- Function states (R224). -/
inductive FnState where
  | absent | ready | running | stopping | resetting | frozen | halted
  deriving DecidableEq, Repr

/-- A submission ring: base, log2 of its entries, level, head and tail (R228). -/
structure Sq where
  base : BitVec 64
  log2 : Nat
  level : BitVec 4
  head : Nat
  tail : Nat
  deriving DecidableEq, Repr

/-- A completion ring (R228, R230, R231, R237). -/
structure Cq where
  base : BitVec 64
  log2 : Nat
  vector : Nat
  head : Nat
  tail : Nat
  phase : Bool
  armed : Bool
  reserved : Nat
  deriving DecidableEq, Repr

/-- The notice a receiver is handling, with the bytes it read (R396). -/
structure Taken where
  buffer : Nat
  bytes : Nat
  sender : Nat
  protocol : Nat
  request : Nat
  requestBytes : Nat
  message : List Byte
  deriving DecidableEq, Repr

/-- A mailbox (R393). `replyLost` is the write of step 4 that meets a host-port error: 0 the payload, 1
reply_bytes, 2 status (R396). -/
structure Mbox where
  notice : BitVec 64
  full : Bool
  collision : Bool
  accessError : Bool
  replyLost : Option Nat
  taken : Option Taken
  deriving DecidableEq, Repr

/-- One PCIe function's registers, admin queue and mailboxes (R222 to R237, R392). `mailAt` is the tick in which vector 0 was last sent
for a mailbox cause (R398). -/
structure Fn where
  state : FnState
  aqHostError : Bool
  aqError : Bool
  enable : Bool
  intCause : BitVec 11
  intMask : BitVec 11
  aqLevel : BitVec 4
  aqCqLog2 : BitVec 4
  aqSqLog2 : BitVec 4
  aqSqBase : BitVec 64
  aqCqBase : BitVec 64
  sqHead : Nat
  sqTail : Nat
  cqHead : Nat
  cqTail : Nat
  cqPhase : Bool
  cqArmed : Bool
  cqReserved : Nat
  dbError : BitVec 64
  cap : List Byte
  lastFetch : Option Stamp
  lastRecord : Option Stamp
  lastSwap : Option Nat
  lastVerify : Option Nat
  loadEnded : Option Nat
  dl : Mbox
  gr : Mbox
  rcv : Mbox
  mailAt : Option Stamp
  deriving DecidableEq, Repr

/-! ## Contexts, objects and partitions -/

/-- What the accounting unit counts for a context in an epoch (R430, R432, R437). -/
structure Counters where
  unitTicks : Nat
  plannedNj : Nat
  hostBytes : Nat
  farBytes : Nat
  stackBytes : Nat
  galleryBytes : Nat
  committed : Nat
  lost : Nat
  deriving DecidableEq, Repr

/-- The figures closed for QUERY (R275, R435): in a context, `closing` are those of the trim round in progress. -/
structure Closed where
  epoch : BitVec 32
  unitTicks : Nat
  chargedNj : Nat
  deriving DecidableEq, Repr

/-- One mapping of a range of an object in a context (R262, R263); its leaves are R278's. -/
structure Mapping where
  va : Nat
  bytes : Nat
  pageLog : Nat
  object : Nat
  objectOffset : Nat
  writable : Bool
  contig : Bool
  deriving DecidableEq, Repr

/-- States of a plan in its context's table (R173). -/
inductive PlanState where
  | isSealed | dying
  deriving DecidableEq, Repr

/-- An entry of the plan table (R170). -/
structure Plan where
  gen : BitVec 24
  state : PlanState
  image : ByteMem
  length : Nat
  hash : BitVec 384
  deriving DecidableEq, Repr

/-- One seat of a deal list (R214); a dummy seat has `valid` false and zeros. -/
structure Seat where
  sequence : BitVec 32
  tag : BitVec 16
  valid : Bool
  adapterWritable : Bool
  adapterSlot : BitVec 10
  position : BitVec 32
  kvLength : BitVec 32
  kvListPages : BitVec 32
  kvListVa : BitVec 64
  inputVa : BitVec 64
  adapterReadVa : BitVec 64
  adapterWriteVa : BitVec 64
  adapterTiles : BitVec 32
  deriving DecidableEq, Repr

/-- A deal list: which of the partition's 64 it is, when it was dealt, its seats and the seats' KV pages as the walk
read them (R200, R214, R215). -/
structure Deal where
  list : Nat
  dealtAt : Stamp
  seats : List Seat
  kvPages : List (List (BitVec 64))
  deriving DecidableEq, Repr

/-- Stages of a held deal (R206). -/
inductive HeldStage where
  | forwardAdmitted | forwardDone | backwardAdmitted | backwardDone | optimiserAdmitted
  deriving DecidableEq, Repr

/-- A context's held deal (R206). -/
structure HeldDeal where
  stage : HeldStage
  plan : BitVec 32
  view : BitVec 8
  deal : Deal
  deriving DecidableEq, Repr

/-- Context states; a FREE tag has no entry (R254). -/
inductive CtxState where
  | live | lost | destroying
  deriving DecidableEq, Repr

/-- A table of a context's stage-1 tree (R277): its level, 3 for the root, the VA bits above those it is indexed by, and its IPA. -/
structure TableNode where
  level : Nat
  index : Nat
  ipa : Nat
  deriving DecidableEq, Repr

/-- A context (R252). `wantsSince` is the doorbell that asked for its swap-in, `swapRound` the round of its last one (R134, R217). -/
structure Ctx where
  fn : Nat
  state : CtxState
  sqs : Tab Sq
  cqs : Tab Cq
  fencePage : BitVec 64
  fenceCount : Nat
  spill : BitVec 64
  spillTiles : Nat
  plans : Tab Plan
  held : Option HeldDeal
  lostStatus : BitVec 16
  lostAt : Stamp
  resident : Bool
  wantsSwapIn : Bool
  lastDoorbell : Option Stamp
  wantsSince : Option Stamp
  swapRound : Option Nat
  lastFetch : Option Stamp
  mappings : List Mapping
  tables : List TableNode
  counters : Counters
  closing : Option Closed
  closed : Option Closed
  deriving DecidableEq, Repr

/-- A contiguous piece of an object: bytes from `off` lie at IPA `ipa`. -/
structure Extent where
  off : Nat
  ipa : Nat
  len : Nat
  deriving DecidableEq, Repr

/-- Object states (R267): a DYING object, which keeps the serial number of its MEM_FREE, passes through unmapping and zeroing
(R266). -/
inductive ObjState where
  | live | dying (cmd : Nat) | unmapping (inval : Nat) | zeroing
  deriving DecidableEq, Repr

/-- A memory object (R260, R261, R262). -/
structure Obj where
  gen : BitVec 10
  state : ObjState
  tier : Nat
  attrs : BitVec 8
  pageLog : Nat
  bytes : Nat
  extents : List Extent
  backing : Nat
  creator : BitVec 16
  deriving DecidableEq, Repr

/-- A system-area entry (R339). -/
structure Area where
  tier : Nat
  offsetTiles : Nat
  tiles : Nat
  deriving DecidableEq, Repr

/-- A partition descriptor (R338); `raw` is its 256 bytes. -/
structure PartDesc where
  isSealed : Bool
  pooling : Bool
  galleryCache : Bool
  diagnostic : Bool
  quads : List Nat
  stackFirst : Nat
  stackDies : Nat
  stackGranule : Nat
  stackGib : Nat
  galleryFirst : Nat
  galleryDies : Nat
  galleryOffset : Nat
  galleryMib : Nat
  farFirst : Nat
  farChannels : Nat
  farGranule : Nat
  farGib : Nat
  farShare : List Nat
  moverMask : BitVec 16
  tagFirst : Nat
  tagCount : Nat
  seqBase : Nat
  seqCount : Nat
  adapterBase : Nat
  adapterCount : Nat
  residentContexts : Nat
  l2Entries : Nat
  hostPins : Nat
  maxContexts : Nat
  baseSet : BitVec 32
  areas : List Area
  raw : List Byte
  deriving DecidableEq, Repr

/-- The two words of a stage-2 range entry (R282). -/
structure RangeEntry where
  w0 : BitVec 64
  w1 : BitVec 64
  deriving DecidableEq, Repr

/-- A range of bytes, by IPA. -/
structure IpaRange where
  ipa : Nat
  len : Nat
  deriving DecidableEq, Repr

/-- How a partition is being taken down: by the command of that id, a PART_DESTROY or a DEBUG_UNLOCK, and whether its calendar
entries have been cleared (R355), or by a STOP scrub that waits for its contexts' work and that the Grotto still has to answer,
unless a reset of PF0 has taken the request away (R376, R397). -/
inductive Ending where
  | destroy (cmd : Nat) (cleared : Bool)
  | scrub (answer : Bool)
  deriving DecidableEq, Repr

/-- A partition (R338 to R345) and what the block keeps for it. `zeroing` holds areas freed and not yet zero (R381);
`faults` and `restrained` are R421's; `totals` holds counters of contexts the retired table had no room for (R435). -/
structure Part where
  desc : PartDesc
  stage2 : Tab RangeEntry
  objects : Tab Obj
  objectGens : Tab (BitVec 10)
  planGens : Tab (BitVec 24)
  zeroing : List IpaRange
  faults : Nat
  restrained : Bool
  totals : Counters
  ending : Option Ending
  deriving DecidableEq, Repr

/-! ## The Dealer -/

/-- Sequence states (R197). -/
inductive SeqState where
  | free | isOpen | dealt | held | closing
  deriving DecidableEq, Repr

/-- What SEQ_UPDATEs of a seated entry set from its next deal on (R199). -/
structure SeqLater where
  control : Option (BitVec 8)
  view : Option (BitVec 8)
  budget : Option (BitVec 32)
  notifyFence : Option (BitVec 16)
  deriving DecidableEq, Repr

/-- A sequence entry (R197). -/
structure Seq where
  gen : BitVec 18
  tag : BitVec 16
  state : SeqState
  f : SeqFields
  later : Option SeqLater
  served : BitVec 46
  commits : BitVec 64
  deriving DecidableEq, Repr

/-- An adapter slot (R203, R205); a free slot has `bound` false. -/
structure Adapter where
  bound : Bool
  dying : Bool
  gen : BitVec 22
  tag : BitVec 16
  va : BitVec 64
  tiles : Nat
  writable : Bool
  half : Bool
  object : Nat
  deriving DecidableEq, Repr

/-- A tile a mover job reads or writes, as it was resolved: its VA, output address, whether it is host-bound, whether its
stored check is kept and its stream coded, and the address of its index entry in a host object that has an index (R295,
R325). -/
structure TilePlace where
  va : Nat
  out : Nat
  host : Bool
  checksum : Bool
  compressed : Bool
  entry : Option Nat
  deriving DecidableEq, Repr

/-- One tile of mover work: a tile copied; bytes put into a tile; a tile read into the job's buffer; a tile copied to
the staging area and read back from it; the authentication of an import (R333); converted bytes put into a tile. -/
inductive MoverOp where
  | copy (src dst : TilePlace)
  | put (dst : TilePlace) (off : Nat) (data : List Byte)
  | read (src : TilePlace)
  | stage (src : TilePlace) (pa : Nat)
  | readStaged (pa : Nat)
  | auth
  | conv (dst : TilePlace) (off start len : Nat)
  deriving DecidableEq, Repr

/-- What a MEM_IMPORT converts: formats, where its header and payload lie in the buffer, the elements, and whether it is
encrypted (R332 to R334). -/
structure ImportJob where
  srcFmt : Nat
  dstFmt : Nat
  start : Nat
  payload : Nat
  count : Nat
  encrypted : Bool
  deriving DecidableEq, Repr

/-- A resolved command of R295 in the mover: what is left to do, the bytes read, the detail it completes with, its
import, and the staging tiles it holds. -/
structure MoverJob where
  ops : List MoverOp
  buf : List Byte
  detail : Nat
  imp : Option ImportJob
  staging : List Nat
  deriving DecidableEq, Repr

/-- The stages of a PLAN_LOAD in its function's verification stream (R172); `ending` has its outcome and waits for the next
changeover window, a success to be sealed then. -/
inductive PlanLoadStage where
  | queued
  | copying (rounds : Nat)
  | planChecks
  | segments (done : Nat)
  | ending (status : BitVec 16) (detail : BitVec 32) (sealing : Bool)
  deriving DecidableEq, Repr

/-- Where a fetched, unfinished command stands. `held` waits for a CQ entry, with what its checks at fetch gave (R230, R242),
`waiting` for an invalidation (R297) or, in a partition that was frozen, for its thaw (R360); `saving` is a PART_SAVE with the bytes
it has still to write (R357); `destroying` is a PART_DESTROY whose partition has not yet ended, `unlocking` a DEBUG_UNLOCK in its
stage 1, or (`zeroing`) in its stage 2 (R386). -/
inductive CmdStage where
  | held (fail : Option (BitVec 16 × BitVec 32))
  | done (status : BitVec 16) (detail : BitVec 32)
  | fenceWait (address : Nat) (value : Nat)
  | step (id : Nat)
  | waiting
  | mover (job : MoverJob)
  | planLoad (va length : Nat) (places : List TilePlace) (image : ByteMem) (hash : BitVec 384) (stage : PlanLoadStage)
  | planUnload (index : Nat)
  | seqClose (index : Nat)
  | adapterRelease (index : Nat)
  | memFree (vf index : Nat)
  | invalidation (id : Nat)
  | ctxDestroy (tag : BitVec 16) (inval : Option Nat)
  | freezing (vf : Nat)
  | saving (vf : Nat) (address : Nat) (left : List Byte) (detail : Nat)
  | destroying
  | unlocking (zeroing : Bool)
  | baseLoad (index : Nat) (source : Nat) (moved : Nat)
  deriving DecidableEq, Repr

/-- A fetched, unfinished command: its queue, header fields, CQ, stage, the objects it references by index, its packet,
its fetch tick, the tick in which its ranges were resolved (R297), and the tick after which its record may be written (R329; R229 to
R231, R240, R264). -/
structure Cmd where
  id : Nat
  q : QRef
  cq : Nat
  cid : BitVec 16
  tag : BitVec 16
  opcode : BitVec 8
  ordered : Bool
  noIrq : Bool
  suppressed : Bool
  refs : List Nat
  packet : Instr
  fetchedAt : Stamp
  resolvedAt : Stamp
  after : Option Stamp
  stage : CmdStage
  deriving DecidableEq, Repr

/-- A resolved operand slot of a step: kind, access, peer and its binding (R166, R168); `host` marks an OBJECT slot
staged by R330, `staged` the physical addresses of its staged tiles. -/
structure BoundSlot where
  kind : Nat
  readable : Bool
  writable : Bool
  peer : Nat
  extent : Nat
  va : Nat
  stride : Nat
  host : Bool
  staged : List Nat
  deriving DecidableEq, Repr

/-- One entry a pin set needs on a die, 16 standing for the host pin table: tag, first VA of the run, page size, run
length, output address, writable (R291). -/
structure PinReq where
  die : Nat
  tag : BitVec 16
  va : Nat
  pageLog : Nat
  count : Nat
  out : Nat
  writable : Bool
  deriving DecidableEq, Repr

/-- Stages of a STEP. `setAside` waits for the held deal, R207 or restraint; `noList` waits for a deal list (R215);
`walked` has resolved its pin set; `staging` copies host tiles (R330); `admitted` may be placed; `ended` has run its
last trick; `finished` waits for its record. -/
inductive StepStage where
  | setAside
  | noList
  | walking
  | walked
  | staging
  | admitted
  | ended
  | finished
  deriving DecidableEq, Repr

/-- An admitted or pending STEP (R206 to R218). `cls` is its priority class; `unit` the base core of the unit it last
ran on or holds state on; `next` the index in its deck of the next trick; `rewalk` marks an admitted step of a restored partition,
which walks again (R359). -/
structure Step where
  id : Nat
  cmd : Nat
  fn : Nat
  tag : BitVec 16
  cid : BitVec 16
  cq : Nat
  plan : BitVec 32
  phase : Nat
  view : BitVec 8
  bindingVa : BitVec 64
  cls : Nat
  stage : StepStage
  deal : Option Deal
  slots : List BoundSlot
  pins : List PinReq
  refs : List Nat
  stageOps : List MoverOp
  next : Nat
  unit : Option Nat
  holdsState : Bool
  spilled : Bool
  needsFill : Bool
  sems : List Nat
  pinnedAt : Option Stamp
  admittedAt : Option Stamp
  lastRan : Option Stamp
  aborted : Bool
  lost : Bool
  rewalk : Bool
  deriving DecidableEq, Repr

/-- What a unit runs in a round. -/
inductive RunKind where
  | trick | save | fill
  deriving DecidableEq, Repr

/-- A semaphore operation of the running trick (R124): tick, core, semaphore, amount, signal or wait. -/
structure SemOp where
  tick : Nat
  core : Nat
  sem : Nat
  amount : Nat
  signal : Bool
  deriving DecidableEq, Repr

/-- A unit loaded for the next round or running in this one: order, base core, step, trick (R16, R19, R216). `sems`
are the semaphores as the trick began, `moved` the cores whose part of a save or fill STATE_SAVE has moved. -/
structure UnitRun where
  order : Nat
  base : Nat
  step : Nat
  tag : BitVec 16
  trick : Nat
  kind : RunKind
  sems : List Nat
  semOps : List SemOp
  moved : List Nat
  deriving DecidableEq, Repr

/-- Base-set states (R349). -/
inductive BaseState where
  | loading | ready | failed | reloading
  deriving DecidableEq, Repr

/-- A region of a base image: first tile, count, format code (R346). -/
structure BaseRegion where
  first : Nat
  count : Nat
  fmt : BitVec 8
  deriving DecidableEq, Repr

/-- A base-weight set (R346 to R354): replicas by die and the golden image's first granule by far channel, as
physical addresses. -/
structure BaseSet where
  gen : BitVec 30
  state : BaseState
  dieMask : BitVec 16
  tiles : Nat
  digest : BitVec 384
  regions : List BaseRegion
  replicas : Tab Nat
  golden : Tab Nat
  deriving DecidableEq, Repr

/-- The Dealer (R193 to R218) and the front end's list of fetched commands. -/
structure Dealer where
  seqs : Tab Seq
  adapters : Tab Adapter
  cmds : List Cmd
  steps : List Step
  loaded : List UnitRun
  running : List UnitRun
  skipped : List UnitRun
  bases : Tab BaseSet
  baseGens : Tab (BitVec 30)
  nextCmd : Nat
  nextStep : Nat
  deriving DecidableEq, Repr

/-! ## Cores -/

/-- State of an accumulator buffer (R76, R181). -/
inductive BufState where
  | notCleared | integer (f : Nat) | fp32
  deriving DecidableEq, Repr

/-- A seat tag entry (R89). -/
structure SeatTag where
  tag : BitVec 16
  valid : Bool
  slot : BitVec 10
  deriving DecidableEq, Repr

/-- A first-level translation entry (R97). -/
structure L1Entry where
  tag : BitVec 16
  vpn : Nat
  pageLog : Nat
  count : Nat
  out : Nat
  deriving DecidableEq, Repr

/-- A core's segment in a half of bundle memory (R68, R163): descriptors of 32 bytes, bundles of 128 bits, the empty
bundles of R186, its planned energy, its step and its trick. -/
structure Segment where
  descs : List (BitVec 256)
  bundles : List (BitVec 128)
  lead : Nat
  energyNj : Nat
  step : Nat
  trick : Nat
  deriving DecidableEq, Repr

/-- A running loop: level, first bundle of its body, body length, trip count, iterations done (R106). -/
structure LoopFrame where
  level : Nat
  start : Nat
  len : Nat
  count : Nat
  iter : Nat
  deriving DecidableEq, Repr

/-- The sequencer (R66, R67): running or ended, the tick of its next bundle, position in the stream, empty bundles still to
issue, loops. -/
structure Sequencer where
  running : Bool
  next : Nat
  pos : Nat
  emptyLeft : Nat
  loops : List LoopFrame
  deriving DecidableEq, Repr

/-- What a tile or atomic of the DMA does: its class's load or store, the words of a seat's information, a tile atomic by its
op, CAS64. -/
inductive XferKind where
  | load
  | store
  | seatInfo (words : List (BitVec 32))
  | atomicTile (op : Nat)
  | cas
  deriving DecidableEq, Repr

/-- What a transfer reaches: nothing (a dummy seat), a context VA, or a tile of the base image, in a die's replica or in the
golden image. -/
inductive XferTo where
  | dummy
  | va (a : Nat)
  | base (die : Option Nat) (tile : Nat)
  deriving DecidableEq, Repr

/-- A fault that a transfer's lookups found (R123): kind, reason, address of its record. -/
structure XferFault where
  kind : Nat
  reason : Nat
  address : Nat
  deriving DecidableEq, Repr

/-- What a load took at its memory tick: its bytes, whether their check held, and the cache line that served it (R119, R319). -/
structure Seen where
  bytes : List Byte
  ok : Bool
  line : Option Nat
  deriving DecidableEq, Repr

/-- A tile or atomic in flight (R96, R117, R126): its serial number in its core, issue tick, memory tick, and `lastTick`, the tick of
its TRANSFER_COMPLETE (its last tick with an effect, an atomic's the one in which its target is read), what it reaches, the tag it is
translated under and who pays for it, its scratchpad line, the bytes a store or atomic has read of it. Once its lookups are done
(`issued`) it has a physical address or a fault; `seen` is what a load took at its memory tick;
`told` says that the memory has reported on an atomic's target. `info` is the slot, tile offset and seat its trace record gives
(R442). -/
structure Xfer where
  id : Nat
  kind : XferKind
  cls : Nat
  issue : Nat
  memTick : Nat
  lastTick : Nat
  dst : XferTo
  tag : BitVec 16
  payer : BitVec 16
  line : Nat
  data : List Byte
  issued : Bool
  pa : Nat
  fault : Option XferFault
  seen : Option Seen
  told : Bool
  info : Nat × Nat × Nat
  deriving DecidableEq, Repr

/-- A compute or local operation with its descriptor (R70 to R85). -/
inductive CoreOp where
  | mma (d : MmaDesc) (buf : Nat) (clear : Bool)
  | rotate (d : RotateDesc) (q : QuantDesc)
  | quantise (d : QuantDesc)
  | scale (d : ScaleDesc)
  | vec (d : VecDesc)
  | accExport (d : LocalDesc)
  | accImport (d : LocalDesc)
  | sregLoad (d : LocalDesc)
  | clipSave (d : LocalDesc)
  deriving DecidableEq, Repr

/-- An operation in work (R99, R113 to R115): its serial number in its core, the lines it has read, numbered in the order of its
schedule, and the results it has made, by part. -/
structure Job where
  id : Nat
  op : CoreOp
  latch : Tab (List Byte)
  res : Tab (List Nat)
  deriving DecidableEq, Repr

/-- What an operation does in a tick. Of a job: it reads line `line` as its line `key`, of which it uses the bytes of `mask`; it makes
part of its results; it writes n bytes of its result line `key`; it writes registers; it ends. Of a transfer: lines 8q to 8q + 7 are
taken from the scratchpad, memory is read or written, part q of an atomic applies, lines 8q to 8q + 7 land; a CAS64's old value
returns. -/
inductive Act where
  | fetch (job key line mask : Nat)
  | make (job part : Nat)
  | put (job key line n : Nat)
  | set (job part : Nat)
  | drop (job : Nat)
  | take (xfer q : Nat)
  | read (xfer : Nat)
  | write (xfer : Nat)
  | apply (xfer q : Nat)
  | land (xfer q : Nat)
  | back (line value : Nat)
  deriving DecidableEq, Repr

/-- Work of a core in a tick: `late` for a write, which reads of the tick do not see (R99). -/
structure Work where
  tick : Nat
  late : Bool
  act : Act
  deriving DecidableEq, Repr

/-- Diagnostic figures of a core's last completed round (R439). -/
structure Diag where
  plannedNj : Nat
  tag : BitVec 16
  owner : BitVec 6
  ran : Bool
  skipped : Bool
  deriving DecidableEq, Repr

/-- A Galxia core, or the block's part of an engine position (R65, R190). Accumulators: key buffer × 4,096 +
row × 64 + column. `lineTags` names, for each line that a load of the current trick wrote, the tag of the last such load (R34). `active`
and `spare` are the halves of its bundle memory (R68). `jobs` are its operations in work, and `work` what they and its transfers have
still to do, by tick. `engineRan` says that an engine op has issued in this round, after which the local store's bytes are the engine's
own. -/
structure Core where
  spad : ByteMem
  acc : Tab (BitVec 48)
  bufs : Tab BufState
  rotBuf : Tab (BitVec 32)
  clip : Tab (BitVec 32)
  sregChannel : Tab (BitVec 32)
  sregRow : Tab (BitVec 32)
  seats : Tab SeatTag
  l1 : List L1Entry
  l1Next : Nat
  lineTags : Tab (BitVec 16)
  active : Option Segment
  spare : Option Segment
  seq : Sequencer
  inflight : List Xfer
  nextXfer : Nat
  jobs : List Job
  nextJob : Nat
  work : List Work
  engineRan : Bool
  eccCount : Nat
  diag : Diag
  deriving DecidableEq, Repr

/-! ## Translation and memory -/

/-- A second-level or host pin entry (R287, R289). -/
structure L2Entry where
  vf : Nat
  req : PinReq
  pins : Nat
  deriving DecidableEq, Repr

/-- What an invalidation covers (R296). -/
inductive Scope where
  | va (tag : BitVec 16) (lo hi : Nat)
  | vas (l : List (BitVec 16 × Nat × Nat))
  | ctx (tag : BitVec 16)
  | part (vf : Nat)
  | ipa (vf lo hi : Nat)
  | bus (fn lo hi : Nat)
  | whole (vf : Nat)
  deriving DecidableEq, Repr

/-- Where an invalidation came from (R296). -/
inductive InvSource where
  | unmap (cmd : Nat)
  | objectFree (vf index : Nat)
  | ctxDestroy (tag : BitVec 16)
  | stage2
  | partDestroy (vf : Nat)
  | port (request : BitVec 16)
  deriving DecidableEq, Repr

/-- An outstanding invalidation (R296 to R300): receipt time, the unfinished commands, STEPs among them, of its touching work,
the round count since epoch 0 of the last touching work to end. -/
structure Inval where
  id : Nat
  source : InvSource
  scope : Scope
  receipt : Stamp
  abort : Bool
  cmds : List Nat
  m : Nat
  deriving DecidableEq, Repr

/-- A base entry of a die's second-level buffer (R287, R352, R353): the set by index, the die whose replica it leads to, or none for
the golden image, the 262,144 tiles it covers by number, and the output of a replica's first. -/
structure BaseEntry where
  die : Nat
  index : Nat
  source : Option Nat
  part : Nat
  out : Nat
  deriving DecidableEq, Repr

/-- XL_ registers and the stage-2 write in progress (R285, R286). -/
structure Xlat where
  l2 : List L2Entry
  base : List BaseEntry
  selVf : BitVec 6
  selEntry : BitVec 4
  w0 : BitVec 64
  w1 : BitVec 64
  result : BitVec 2
  busy : Bool
  pendingWrite : Option (Nat × Nat × RangeEntry)
  invals : List Inval
  nextInv : Nat
  deriving DecidableEq, Repr

/-- A tile's metadata: stored check, and for far tiles the index entry's sectors and codec flag (R315, R321);
`damaged` counts its words that cannot be corrected (R317). -/
structure TileMeta where
  check : BitVec 32
  sectors : Nat
  compressed : Bool
  damaged : Nat
  deriving DecidableEq, Repr

/-- A line of the Gallery cache (R319): the stack tile it holds, whether it was filled with a tile delivered as failing, and its own
words that cannot be corrected (R317). -/
structure CacheLine where
  tile : Nat
  failing : Bool
  damaged : Nat
  deriving DecidableEq, Repr

/-- A stack's status registers (R335). -/
structure StackStatus where
  hot : Bool
  epochMax : Nat
  last : Nat
  sparesMax : BitVec 4
  deriving DecidableEq, Repr

/-- Error counters of a stack or a Gallery slice (R335). -/
structure Ecc where
  corrected : BitVec 32
  uncorrectable : BitVec 32
  deriving DecidableEq, Repr

/-- The memories the block reaches (R305), by physical address; tile metadata by physical tile number; the Gallery
cache's lines by Gallery tile number (R319); host memory by function and bus address (R269, R276); MS_ registers; the connections a
channel of a stack has on its spares, in order, by stack and channel (R310); the far transfers of the round counted by frame,
partition and channel (R323). -/
structure Mem where
  bytes : ByteMem
  tiles : Tab TileMeta
  cache : Tab CacheLine
  host : ByteMem
  forceX4 : Bool
  rate : BitVec 24
  farTrained : BitVec 16
  stackRegs : Tab StackStatus
  repairMap : Tab (List Nat)
  ecc : Tab Ecc
  gecc : Tab Ecc
  farUsed : Tab Nat
  deriving DecidableEq, Repr

/-! ## Faults, accounting, trace -/

/-- A ring of the AC_ block (R414, R438). -/
structure AcRing where
  base : BitVec 64
  size : BitVec 5
  enable : Bool
  tail : BitVec 16
  head : BitVec 16
  dropped : BitVec 16
  overflow : Bool
  deriving DecidableEq, Repr

/-- A retired context's counters (R435). -/
structure Retired where
  vf : Nat
  tag : BitVec 16
  counters : Counters
  deriving DecidableEq, Repr

/-- The accounting unit and the fault ring (R414, R433 to R439). `closedAt` is the epoch of the last close. -/
structure Acct where
  fault : AcRing
  faultBlock : BitVec 32
  ring : AcRing
  useSamples : Bool
  diagSel : BitVec 10
  sampleSum : Nat
  samples : Nat
  sampleMissing : Bool
  useWasZero : Bool
  retired : List Retired
  destroyedParts : List (Nat × Bool × Counters)
  closedAt : Option (BitVec 32)
  deriving DecidableEq, Repr

/-- What a fault record says (R302, R413); `engines` and `agents` are masks. -/
structure FaultRec where
  kind : Nat
  reason : Nat
  status : BitVec 16
  tag : Nat
  vf : Nat
  stage : Nat
  write : Bool
  address : Nat
  command : Nat
  agents : Nat
  engines : Nat
  deriving DecidableEq, Repr

/-- Block-fault recovery (R417): the time of the fault of this round, whether this round is a recovery round, whether its work is done,
whether its scrub has run (R419), base tiles to repair by physical address with their set (R422), whether the block is HALTED (R424).
`recent` are the records of the tick `recentAt` in R303's order, the first `recentKept` of which stand in the ring from entry
`recentFirst` on. -/
structure Recovery where
  faultTick : Option Nat
  recovering : Bool
  ended : Bool
  scrubbed : Bool
  repairs : List (Nat × Nat)
  halted : Bool
  recentAt : Option Stamp
  recent : List FaultRec
  recentFirst : Nat
  recentKept : Nat
  deriving DecidableEq, Repr

/-- The records of the tick Lantern last recorded in (R442): the tick's stamp, the place of its first record, whether events were
dropped before it, and its records by core, each without its stamp. -/
structure LtTick where
  stamp : Nat
  first : Nat
  gap : Bool
  recs : List (Nat × List Byte)
  deriving DecidableEq, Repr

/-- Lantern (R440 to R443). `held` is the buffer that holds records, by first physical address and tiles, and `vfs` the
partitions whose events are in it (R444). -/
structure Lantern where
  die : BitVec 4
  offsetMib : BitVec 8
  sizeMib : BitVec 8
  postCount : BitVec 16
  trigger : BitVec 2
  enable : Bool
  result : BitVec 2
  writeIndex : BitVec 23
  dumping : Bool
  wrapped : Bool
  triggered : Bool
  stopped : Bool
  active : Bool
  left : Option Nat
  inTick : LtTick
  droppedBefore : Bool
  held : Nat × Nat
  vfs : List Nat
  dumpAddress : BitVec 64
  dumped : Nat
  deriving DecidableEq, Repr

/-- The JTAG port (R387, R463). -/
structure Jtag where
  inst : JtagInst
  debugOpen : Bool
  deriving DecidableEq, Repr

/-- The levels last sampled at the pins (R461). -/
structure Pins where
  therm : BitVec 12
  pwr : BitVec 32
  pwrValid : Bool
  presence : Bool
  cable : Bool
  temps : List Nat
  deriving DecidableEq, Repr

/-- The types of a request the block sends on the host port, MSI-X apart (R449). -/
inductive HostReqKind where
  | read
  | write
  | cas
  deriving DecidableEq, Repr

/-- A memory request on the host port: its function, TEE-originator indication, host bus address, length in bytes and payload
(R377, R448, R449). -/
structure HostReq where
  kind : HostReqKind
  fn : Nat
  tee : Bool
  address : Nat
  bytes : Nat
  payload : List Byte
  deriving DecidableEq, Repr

/-- A message the block offers on a port: a host-port memory request (R448), MSI-X (R237), an invalidation response (R453), a key-port
command (R454), an engine's scrub, round start, word, and the local-store lines it reads and writes (R459), JTAG_TDO's register (R463). -/
inductive PortOut where
  | request (r : HostReq)
  | msix (fn vector : Nat)
  | invResponse (request : BitVec 16) (result : BitVec 2)
  | key (cmd : BitVec 32) (key : BitVec 256) (iv : BitVec 96)
  | engineScrub (base : Nat)
  | engineRound (base : Nat)
  | engineWord (position : Nat) (word : BitVec 80)
  | engineRead (position line lines : Nat)
  | engineWrite (position line : Nat) (data : List Byte)
  | tdo (value : BitVec 32)
  deriving DecidableEq, Repr

/-- The block without its command queue. `freeCtr` names fresh free values (Config). -/
structure Block where
  tb : TimeBase
  cal : Calendar
  boot : Boot
  grotto : Grotto
  fns : Tab Fn
  ctxs : Tab Ctx
  parts : Tab Part
  dealer : Dealer
  cores : Tab Core
  xlat : Xlat
  mem : Mem
  acct : Acct
  recov : Recovery
  lantern : Lantern
  jtag : Jtag
  pins : Pins
  out : List PortOut
  freeCtr : Nat
  deriving DecidableEq, Repr

/-- The state of the machine: the block and the queue of waiting commands, first in, first out. -/
structure State where
  blk : Block
  pending : List Instr
  deriving DecidableEq, Repr

/-- Why a step may stop with a fault. No command of this spec stops so: its errors are statuses, fault records and
states of the block. The one constructor is raised by nothing. Safe. -/
inductive Fault where
  | unreachable
  deriving DecidableEq, Repr

/-- Why a command has no meaning. -/
inductive Refusal where
  /-- Raised by exec's arms for a command without a meaning. Safe. -/
  | notModelled (mnemonic : String)
  /-- Raised by JTAG_INSTRUCTION for a debug instruction while debug is open: R463 leaves it to the debug supplement.
  Safe. -/
  | debugInstruction
  deriving DecidableEq, Repr

/-! ## Reset -/

def TimeBase.reset : TimeBase :=
  ⟨.stopped, false, 0, 0, 0, true, 0, false, false, false, none, 0, 0, 0, 0, 0, true, 0⟩

def Mbox.reset : Mbox := ⟨0, false, false, false, none, none⟩

def Fn.reset : Fn :=
  { state := .absent, aqHostError := false, aqError := false, enable := false, intCause := 0, intMask := 0,
    aqLevel := 1, aqCqLog2 := 4, aqSqLog2 := 4, aqSqBase := 0, aqCqBase := 0, sqHead := 0, sqTail := 0, cqHead := 0,
    cqTail := 0, cqPhase := true, cqArmed := false, cqReserved := 0, dbError := 0, cap := [], lastFetch := none,
    lastRecord := none, lastSwap := none, lastVerify := none, loadEnded := none, dl := Mbox.reset, gr := Mbox.reset, rcv := Mbox.reset,
    mailAt := none }

def Counters.zero : Counters := ⟨0, 0, 0, 0, 0, 0, 0, 0⟩

def Boot.reset : Boot :=
  ⟨false, 0, 0, 0, none, none, none, none, none, [], false, false, false, []⟩

def Grotto.reset : Grotto :=
  { uds := none, cdi1 := none, cdi2 := none, deviceIdPrivate := none, deviceIdPublic := none, aliasKey := none,
    attestKey := none, aliasCert := [], attestCert := [], chain := none, m2 := none, m3 := none, m4 := none,
    m5 := none, debugState := 0, unlocking := false, blockFarKey := none, farKeys := [], sessionKeys := [],
    migrationKeys := [], lastNonce := [], cipherKeys := [], sessions := [], negotiated := [], tdisp := [], ide := [],
    streamIds := 0, streamSecure := 0, presenceRun := 0, releasedRun := 0, grant := false, presence := false,
    cable := false, draws := 0, reply := none }

def Dealer.reset : Dealer := ⟨[], [], [], [], [], [], [], [], [], 0, 0⟩

def Sequencer.idle : Sequencer := ⟨false, 0, 0, 0, []⟩

def Core.reset : Core :=
  { spad := [], acc := [], bufs := [], rotBuf := [], clip := [], sregChannel := [], sregRow := [], seats := [], l1 := [],
    l1Next := 0, lineTags := [], active := none, spare := none, seq := Sequencer.idle, inflight := [],
    nextXfer := 0, jobs := [], nextJob := 0, work := [], engineRan := false, eccCount := 0, diag := ⟨0, 0, 0, false, false⟩ }

def Xlat.reset : Xlat := ⟨[], [], 0, 0, 0, 0, 0, false, none, [], 0⟩

def Mem.reset : Mem := ⟨[], [], [], [], false, 0xAAAAAA, 0, [], [], [], [], []⟩

def AcRing.reset (size : BitVec 5) : AcRing := ⟨0, size, false, 0, 0, 0, false⟩

def Acct.reset : Acct :=
  ⟨AcRing.reset 4, 0, AcRing.reset 0xE, true, 0, 0, 0, false, false, [], [], none⟩

def Recovery.reset : Recovery := ⟨none, false, false, false, [], false, none, [], 0, 0⟩

def Lantern.reset : Lantern :=
  ⟨0, 0, 0, 0, 0, false, 0, 0, false, false, false, false, false, none, ⟨0, 0, false, []⟩, false, (0, 0), [], 0, 0⟩

/-- The block before BLK_RESET_N is released: every register at its reset value (R11, R446). -/
def Block.reset : Block :=
  { tb := TimeBase.reset, cal := ⟨[], [], [], []⟩, boot := Boot.reset, grotto := Grotto.reset, fns := [], ctxs := [],
    parts := [], dealer := Dealer.reset, cores := [], xlat := Xlat.reset, mem := Mem.reset, acct := Acct.reset,
    recov := Recovery.reset, lantern := Lantern.reset, jtag := ⟨.idcode, false⟩, pins := ⟨0, 0, false, false, false, []⟩,
    out := [], freeCtr := 0 }

/-- The machine right after reset: no command waits. -/
def State.reset : State := ⟨Block.reset, []⟩

end Sys2Proof.Machine
end

