-- ==== Sys2Proof/Machine/Ops.lean ====
section
/-!
DEFINITION. The operations over plain data that every meaning shares: sparse tables, byte memories, little-endian
fields, CRC-32C, time stamps, and how a meaning acts on the block without touching the queue of waiting commands.
-/

namespace Sys2Proof.Machine

open Sys2Proof

/-! ## Sparse tables -/

/-- The entry of a table at a key, if it is listed. -/
def tabGet {α : Type} : Tab α → Nat → Option α
  | [], _ => none
  | (k', v) :: t, k => if k' = k then some v else tabGet t k

/-- The entry of a table at a key, or what an unlisted key reads as. -/
def tabGetD {α : Type} (t : Tab α) (k : Nat) (d : α) : α := (tabGet t k).getD d

/-- The table with an entry at a key, its keys still rising. -/
def tabSet {α : Type} : Tab α → Nat → α → Tab α
  | [], k, v => [(k, v)]
  | (k', v') :: t, k, v =>
    if k < k' then (k, v) :: (k', v') :: t
    else if k = k' then (k, v) :: t
    else (k', v') :: tabSet t k v

/-- The table without a key. -/
def tabDel {α : Type} (t : Tab α) (k : Nat) : Tab α := t.filter (fun e => e.1 != k)

/-- The table with a value at a key, unlisted when it is what an unlisted key reads as. -/
def tabSetD {α : Type} [DecidableEq α] (t : Tab α) (k : Nat) (v d : α) : Tab α :=
  if v = d then tabDel t k else tabSet t k v

/-- A listed entry changed, an unlisted one left alone. -/
def tabMod {α : Type} (t : Tab α) (k : Nat) (f : α → α) : Tab α :=
  t.map (fun e => if e.1 = k then (e.1, f e.2) else e)

/-- Every entry changed. -/
def tabMap {α β : Type} (t : Tab α) (f : Nat → α → β) : Tab β := t.map (fun e => (e.1, f e.1 e.2))

/-- The table without the keys of a range. -/
def tabClear {α : Type} (t : Tab α) (lo n : Nat) : Tab α := t.filter (fun e => !(lo ≤ e.1 && e.1 < lo + n))

/-- Whether a table's keys rise strictly. -/
def tabRising {α : Type} : Tab α → Bool
  | [] => true
  | [_] => true
  | (a, _) :: (b, w) :: t => decide (a < b) && tabRising ((b, w) :: t)

/-! ## Byte memories -/

/-- A byte of a memory: an unlisted address reads zero. -/
def memRead (m : ByteMem) (a : Nat) : Byte := tabGetD m a 0

/-- A byte written, in canonical form. -/
def memWrite (m : ByteMem) (a : Nat) (b : Byte) : ByteMem := tabSetD m a b 0

/-- Consecutive bytes of a memory. -/
def memReadN (m : ByteMem) (a : Nat) : Nat → List Byte
  | 0 => []
  | n + 1 => memRead m a :: memReadN m (a + 1) n

/-- Consecutive bytes written, the lowest address first. -/
def memWriteN (m : ByteMem) (a : Nat) : List Byte → ByteMem
  | [] => m
  | b :: bs => memWriteN (memWrite m a b) (a + 1) bs

/-- A range of bytes zeroed. -/
def memZero (m : ByteMem) (a n : Nat) : ByteMem := tabClear m a n

/-- Canonical form of a byte memory: addresses strictly rising and no listed zero. -/
abbrev Memory.wf (m : ByteMem) : Prop := tabRising m = true ∧ m.all (fun c => c.2 != 0) = true

/-! ## Fields -/

/-- Bits lo to lo + n - 1 of a number (R7). -/
def bits (v lo n : Nat) : Nat := v / 2 ^ lo % 2 ^ n

/-- One bit of a number. -/
def bit (v i : Nat) : Bool := v / 2 ^ i % 2 == 1

/-- The number a little-endian field holds (R6). -/
def le : List Byte → Nat
  | [] => 0
  | b :: bs => b.toNat + 256 * le bs

/-- The bytes of a little-endian field (R6). -/
def leBytes : Nat → Nat → List Byte
  | 0, _ => []
  | n + 1, v => BitVec.ofNat 8 v :: leBytes n (v / 256)

/-- A little-endian field inside a structure. -/
def leAt (bs : List Byte) (off n : Nat) : Nat := le ((bs.drop off).take n)

/-- A field of a memory. -/
def memReadLE (m : ByteMem) (a n : Nat) : Nat := le (memReadN m a n)

/-- A field of a memory written. -/
def memWriteLE (m : ByteMem) (a n v : Nat) : ByteMem := memWriteN m a (leBytes n v)

/-- Zero bytes. -/
def zeros (n : Nat) : List Byte := List.replicate n 0

/-- A list of bytes cut or padded with zeros to a length. -/
def padTo (n : Nat) (bs : List Byte) : List Byte := bs.take n ++ zeros (n - bs.length)

/-- Whether every byte is zero. -/
def allZero (bs : List Byte) : Bool := bs.all (fun b => b == 0)

/-- A quotient rounded up. -/
def ceilDiv (a b : Nat) : Nat := (a + b - 1) / b

/-- The numbers from a first one. -/
def rangeFrom (first n : Nat) : List Nat := (List.range n).map (fun i => first + i)

/-- Set bits of a mask, lowest first. -/
def maskBits (n mask : Nat) : List Nat := (List.range n).filter (fun i => bit mask i)

/-- Number of set bits among the low n. -/
def popcount (n mask : Nat) : Nat := (maskBits n mask).length

/-- The sum of a list. -/
def sum (l : List Nat) : Nat := l.foldl (· + ·) 0

/-- Two ranges of numbers overlap. -/
def overlap (a n c k : Nat) : Bool := decide (a < c + k) && decide (c < a + n)

/-- Puts an element before the first one whose key is not smaller. -/
def insertFirst {α : Type} (f : α → Nat) (x : α) : List α → List α
  | [] => [x]
  | y :: ys => if f x ≤ f y then x :: y :: ys else y :: insertFirst f x ys

/-- A list ordered by a key, equal keys in their old order. -/
def sortBy {α : Type} (f : α → Nat) : List α → List α
  | [] => []
  | x :: xs => insertFirst f x (sortBy f xs)

/-- Two lists ordered by a key merged, the first list's elements before the second's of the same key. -/
def mergeBy {α : Type} (f : α → Nat) : List α → List α → List α
  | [], ys => ys
  | x :: xs, ys => ys.takeWhile (fun y => decide (f y < f x)) ++ x :: mergeBy f xs (ys.dropWhile (fun y => decide (f y < f x)))

/-- A list of up to 2^n elements ordered by a key, equal keys in their old order. -/
def mergeSort {α : Type} (f : α → Nat) : Nat → List α → List α
  | 0, l => l
  | n + 1, l =>
    if l.length ≤ 1 then l
    else mergeBy f (mergeSort f n (l.take (l.length / 2))) (mergeSort f n (l.drop (l.length / 2)))

/-- A long list ordered by a key. -/
def orderBy {α : Type} (f : α → Nat) (l : List α) : List α := mergeSort f 64 l

/-- The first number below n that a predicate holds of. -/
def firstBelow (n : Nat) (p : Nat → Bool) : Option Nat := (List.range n).find? p

/-- The lowest number from k on that is no key of a table. -/
def lowestFree {α : Type} : Tab α → Nat → Nat
  | [], k => k
  | (i, _) :: t, k => if i = k then lowestFree t (k + 1) else k

/-! ## CRC-32C -/

/-- One bit of CRC-32C, reflected (R315). -/
def crcBit (c : Nat) : Nat := if c % 2 = 1 then (c / 2) ^^^ 0x82F63B78 else c / 2

/-- One byte of CRC-32C. -/
def crcByte (c : Nat) (b : Byte) : Nat :=
  crcBit (crcBit (crcBit (crcBit (crcBit (crcBit (crcBit (crcBit (c ^^^ b.toNat))))))))

/-- CRC-32C of bytes: initial value and final inversion of all ones. -/
def crc32c (bs : List Byte) : BitVec 32 := BitVec.ofNat 32 (bs.foldl crcByte 0xFFFFFFFF ^^^ 0xFFFFFFFF)

/-! ## Acting on the block -/

/-- A command's effect on the block; the queue of waiting commands is left alone. -/
def onBlock (f : Block → Block) (s : State) : Host.Outcome State Fault Refusal := .next { s with blk := f s.blk }

end Sys2Proof.Machine
end

