-- ==== Sys2Proof/Machine/Flags.lean ====
section
/-!
DEFINITION. Time stamps and moves of the clock, status codes, interrupt causes and messages, function states, and the
accessors of functions, contexts, partitions and cores.
-/

namespace Sys2Proof.Machine

open Sys2Proof

/-! ## Time (R12, R13, R133, R136) -/

/-- The trim round (R136). -/
def trimRound : Nat := 9999

/-- Ticks of an ordinary round. -/
def roundTicks : Nat := 125000

/-- A timestamp from its fields (R12). -/
def mkStamp (epoch : BitVec 32) (round tick : Nat) : Stamp :=
  BitVec.ofNat 63 (epoch.toNat * 2 ^ 31 + round * 2 ^ 17 + tick)

/-- The timestamp of a time of the time base, late trim ticks by R13. -/
def stampAt (tb : TimeBase) (tick : Nat) : Stamp :=
  if tb.round = trimRound ∧ 131072 ≤ tick then mkStamp tb.epoch 10000 (tick - 131072)
  else mkStamp tb.epoch tb.round tick

/-- The current timestamp. -/
def now (b : Block) : Stamp := stampAt b.tb b.tb.tick

/-- Rounds since epoch 0. -/
def roundCount (tb : TimeBase) : Nat := tb.epoch.toNat * 10000 + tb.round

/-- Whether rounds run: the time base is not STOPPED (R143). -/
def ticking (b : Block) : Bool := b.tb.pps != .stopped

/-- Whether the block acts: BLK_RESET_N is released and no fatal fault has halted it (R424, R429). -/
def alive (b : Block) : Bool := b.boot.released && !b.recov.halted

/-- The length of the trim round by what has been captured so far (R141). -/
def trimLen (tb : TimeBase) : Nat :=
  if tb.earlySeen then 62500
  else
    match tb.inWindow with
    | some c => c
    | none => if tb.pps = .locked ∨ tb.lateSeen = true then 187500 else 125000

/-- The last tick of the current round. -/
def lastTick (tb : TimeBase) : Nat := if tb.round = trimRound then trimLen tb - 1 else 124999

/-- The clock moved forward to a tick of the current round; a tick already past is not returned to (log entry 4). -/
def toTick (b : Block) (t : Nat) : Block := { b with tb := { b.tb with tick := max b.tb.tick t } }

/-- The next tick, not before the current one, that belongs to function f, and is not the one of `last` (R229, R231). -/
def slotTick (tb : TimeBase) (f : Nat) (last : Option Stamp) : Nat :=
  let t := tb.tick + (f + 64 - tb.tick % 64) % 64
  if last = some (stampAt tb t) then t + 64 else t

/-! ## Build -/

/-- A build of nothing, standing for no accepted record. -/
def Build.none : Build := ⟨0, 0, false, 0, 0, 0, 0, 0, 0, 0, 0, []⟩

/-- The accepted build (R5). -/
def bld (b : Block) : Build := b.boot.build.getD Build.none

/-- Whether a global core index names a core or an engine position of the build (R17, R188). -/
def coreExists (b : Block) (i : Nat) : Bool :=
  if i < 768 then decide (i / 64 < (bld b).dies) && decide (i % 64 < (bld b).coresPerDie)
  else b.boot.engines.any (fun e => decide (e.base ≤ i) && decide (i < e.base + e.units * 4 ^ e.order))

/-- Number of Galxia cores and engine positions (R27, R188). -/
def buildCores (b : Block) : Nat :=
  (bld b).dies * (bld b).coresPerDie + sum (b.boot.engines.map (fun e => e.units * 4 ^ e.order))

/-- Every core and engine position of the build, ascending. -/
def allCores (b : Block) : List Nat := (List.range 1024).filter (fun i => coreExists b i)

/-! ## Status codes (R239) -/

def stOk : BitVec 16 := 0x0000
def stInvalidOpcode : BitVec 16 := 0x0001
def stInvalidField : BitVec 16 := 0x0002
def stLevelUnsupported : BitVec 16 := 0x0003
def stNotPermitted : BitVec 16 := 0x0004
def stNoResource : BitVec 16 := 0x0005
def stResourceConflict : BitVec 16 := 0x0006
def stBusy : BitVec 16 := 0x0007
def stContextLost : BitVec 16 := 0x0010
def stStepLost : BitVec 16 := 0x0011
def stAborted : BitVec 16 := 0x0012
def stObjectGone : BitVec 16 := 0x0013
def stPlanRejected : BitVec 16 := 0x0020
def stStepTooWide : BitVec 16 := 0x0021
def stTranslationFault : BitVec 16 := 0x0030
def stChecksum : BitVec 16 := 0x0031
def stFenceRegress : BitVec 16 := 0x0040
def stBaseUnavailable : BitVec 16 := 0x0050

/-! ## Accessors -/

/-- A function; one that was never made reads as its reset. -/
def fnAt (b : Block) (f : Nat) : Fn := tabGetD b.fns f Fn.reset

def setFn (b : Block) (f : Nat) (x : Fn) : Block := { b with fns := tabSetD b.fns f x Fn.reset }

def modFn (b : Block) (f : Nat) (g : Fn → Fn) : Block := setFn b f (g (fnAt b f))

def ctxAt (b : Block) (tag : Nat) : Option Ctx := tabGet b.ctxs tag

def setCtx (b : Block) (tag : Nat) (c : Ctx) : Block := { b with ctxs := tabSet b.ctxs tag c }

def modCtx (b : Block) (tag : Nat) (g : Ctx → Ctx) : Block := { b with ctxs := tabMod b.ctxs tag g }

def partAt (b : Block) (vf : Nat) : Option Part := tabGet b.parts vf

def modPart (b : Block) (vf : Nat) (g : Part → Part) : Block := { b with parts := tabMod b.parts vf g }

/-- A core; one that nothing has changed reads as its reset. -/
def coreAt (b : Block) (i : Nat) : Core := tabGetD b.cores i Core.reset

def setCore (b : Block) (i : Nat) (c : Core) : Block := { b with cores := tabSetD b.cores i c Core.reset }

def modCore (b : Block) (i : Nat) (g : Core → Core) : Block := setCore b i (g (coreAt b i))

def modDealer (b : Block) (g : Dealer → Dealer) : Block := { b with dealer := g b.dealer }

def modMem (b : Block) (g : Mem → Mem) : Block := { b with mem := g b.mem }

/-- The context tags of a function, ascending. -/
def ctxsOf (b : Block) (fn : Nat) : List Nat := (b.ctxs.filter (fun e => e.2.fn == fn)).map (fun e => e.1)

/-- A context of a function that a doorbell or command may name (R234): LIVE or LOST. -/
def liveCtx (b : Block) (fn tag : Nat) : Option Ctx :=
  match ctxAt b tag with
  | some c => if c.fn = fn ∧ c.state ≠ .destroying then some c else none
  | none => none

/-- The partition that holds a context. -/
def ctxVf (b : Block) (tag : Nat) : Nat :=
  match ctxAt b tag with
  | some c => c.fn
  | none => 0

/-! ## Messages and causes (R226, R237) -/

/-- A message offered on a port. -/
def offer (b : Block) (m : PortOut) : Block := { b with out := b.out ++ [m] }

/-- An MSI-X vector of a function, none once its reset has begun (R347). -/
def msix (b : Block) (fn vector : Nat) : Block :=
  if (fnAt b fn).state = .resetting then b else offer b (.msix fn vector)

def cDoorbell : Nat := 0
def cContextLost : Nat := 1
def cMboxNs : Nat := 2
def cMboxS : Nat := 3
def cCollision : Nat := 4
def cResetDone : Nat := 5
def cStateChange : Nat := 6
def cAccounting : Nat := 8
def cFaultRecord : Nat := 9
def cBaseFailed : Nat := 10

/-- A cause bit set: vector 0 is sent when it goes from 0 to 1 while its mask bit is 1 (R226). -/
def setCause (b : Block) (fn bitNo : Nat) : Block :=
  let x := fnAt b fn
  let b1 := setFn b fn { x with intCause := x.intCause ||| BitVec.ofNat 11 (2 ^ bitNo) }
  if x.intCause.getLsbD bitNo = false ∧ x.intMask.getLsbD bitNo = true then msix b1 fn 0 else b1

/-- A function's state set, with the state_change cause when it changes (R226). -/
def setFnState (b : Block) (fn : Nat) (st : FnState) : Block :=
  if (fnAt b fn).state = st then b
  else setCause (modFn b fn (fun x => { x with state := st })) fn cStateChange

/-- Admin ring positions set to 0 and the admin CQ phase to 1 (R225). -/
def aqReset (x : Fn) : Fn :=
  { x with sqHead := 0, sqTail := 0, cqHead := 0, cqTail := 0, cqPhase := true, cqReserved := 0 }

/-- A fresh free value (log entry 9). -/
def nextFree (b : Block) : Block := { b with freeCtr := b.freeCtr + 1 }

end Sys2Proof.Machine
end

