-- ==== Sys2Proof/Machine/Memory.lean ====
section
/-!
DEFINITION. The physical map (R305), tiles with their stored checks and far index entries (R315, R321), the codec (R324),
the Gallery cache (R319), zeroing, and host memory.
-/

namespace Sys2Proof.Machine

open Sys2Proof

/-! ## The physical map (R305) -/

/-- A populated region: a stack, a Gallery slice or a far channel, by number. -/
inductive Region where
  | stack (k : Nat)
  | gallery (d : Nat)
  | far (c : Nat)
  deriving DecidableEq, Repr

def gib : Nat := 2 ^ 30
def mib : Nat := 2 ^ 20
def stackBase (k : Nat) : Nat := k * 2 ^ 36
def galleryBase (d : Nat) : Nat := 0x100000000000 + d * 2 ^ 28
def farBase (c : Nat) : Nat := 0x200000000000 + c * 2 ^ 36

def stackHere (b : Block) (k : Nat) : Bool := decide (k < 12) && (bld b).stackMask.getLsbD k
def farHere (b : Block) (c : Nat) : Bool := decide (c < 16) && (bld b).farMask.getLsbD c
def galleryHere (b : Block) (d : Nat) : Bool := (bld b).memside && decide (d < (bld b).dies)

/-- The far channels of the build, ascending. -/
def farChannels (b : Block) : List Nat := (List.range 16).filter (fun c => farHere b c)

/-- The populated region of a physical address, if it lies in one. -/
def regionOf (b : Block) (pa : Nat) : Option Region :=
  if pa < 12 * 2 ^ 36 then
    if stackHere b (pa / 2 ^ 36) then some (.stack (pa / 2 ^ 36)) else none
  else if pa < 0x100000000000 then none
  else if pa < 0x100000000000 + 12 * 2 ^ 28 then
    let d := (pa - 0x100000000000) / 2 ^ 28
    if galleryHere b d && decide ((pa - galleryBase d) < (bld b).galleryMib * mib) then some (.gallery d) else none
  else if pa < 0x200000000000 then none
  else
    let c := (pa - 0x200000000000) / 2 ^ 36
    if farHere b c && decide (pa - farBase c < (bld b).farGib * gib) then some (.far c) else none

/-! ## The codec (R324) -/

/-- Plane p of a tile: byte p of each 32-bit word. -/
def planeOf (p : Nat) : List Byte → List Byte
  | a :: b :: c :: d :: t => (if p = 0 then a else if p = 1 then b else if p = 2 then c else d) :: planeOf p t
  | _ => []

/-- The 16 blocks of 256 bytes of a tile. -/
def codecBlocks (t : List Byte) : List (List Byte) :=
  (List.range 4).flatMap (fun p =>
    let pl := planeOf p t
    (List.range 4).map (fun i => (pl.drop (256 * i)).take 256))

/-- A byte of the sparse mask: bit j is 1 where byte j is nonzero. -/
def maskByte (bs : List Byte) : Byte :=
  BitVec.ofNat 8 (sum ((List.range 8).map (fun j => if bs.getD j 0 = 0 then 0 else 2 ^ j)))

/-- A block in the mode that gives the fewest bytes, ties to the lower mode. -/
def codeBlock (bs : List Byte) : List Byte :=
  let raw := 257
  let const := if bs.all (fun x => x == bs.headD 0) then 2 else 1000
  let nz := bs.filter (fun x => x != 0)
  let sparse := 33 + nz.length
  if raw ≤ const ∧ raw ≤ sparse then 0 :: bs
  else if const ≤ sparse then [1, bs.headD 0]
  else 2 :: (List.range 32).map (fun i => maskByte ((bs.drop (8 * i)).take 8)) ++ nz

/-- The stream of a tile before padding. -/
def codeTile (t : List Byte) : List Byte := (codecBlocks t).flatMap codeBlock

/-- Sectors of a tile under the codec, and whether it is stored compressed. -/
def codedSectors (t : List Byte) : Nat × Bool :=
  let n := ceilDiv (codeTile t).length 256
  if 16 ≤ n then (16, false) else (n, true)

/-- Bytes restored from a sparse block. -/
def unsparse : List Byte → List Bool → Option (List Byte × List Byte)
  | rest, [] => some ([], rest)
  | rest, false :: m => (unsparse rest m).map (fun r => (0 :: r.1, r.2))
  | [], true :: _ => none
  | b :: rest, true :: m => (unsparse rest m).map (fun r => (b :: r.1, r.2))

/-- One block decoded and the rest of the stream; none where the stream is invalid. -/
def decodeBlock (s : List Byte) : Option (List Byte × List Byte) :=
  match s with
  | [] => none
  | m :: t =>
    if m = 0 then (if t.length < 256 then none else some (t.take 256, t.drop 256))
    else if m = 1 then
      match t with
      | [] => none
      | v :: u => some (List.replicate 256 v, u)
    else if m = 2 then
      if t.length < 32 then none
      else unsparse (t.drop 32) ((t.take 32).flatMap (fun x => (List.range 8).map (fun j => x.getLsbD j)))
    else none

/-- n blocks decoded; what is left must be zero. -/
def decodeBlocks : Nat → List Byte → Option (List (List Byte))
  | 0, s => if allZero s then some [] else none
  | n + 1, s =>
    match decodeBlock s with
    | none => none
    | some (blk, rest) => (decodeBlocks n rest).map (fun r => blk :: r)

/-- A tile from its four planes. -/
def fromPlanes : List Byte → List Byte → List Byte → List Byte → List Byte
  | a :: s, b :: t, c :: u, d :: v => a :: b :: c :: d :: fromPlanes s t u v
  | _, _, _, _ => []

/-- A codec stream decoded; none where it is invalid. -/
def decodeTile (s : List Byte) : Option (List Byte) :=
  (decodeBlocks 16 s).map (fun bl =>
    let pl := fun p => ((bl.drop (4 * p)).take 4).flatten
    fromPlanes (pl 0) (pl 1) (pl 2) (pl 3))

/-! ## Tiles -/

def tileZeroMeta : TileMeta := ⟨0, 0, false, 0⟩

/-- The stored check of a tile (R315). -/
def storedCheck (t : List Byte) : BitVec 32 := crc32c t ^^^ crc32c (zeros 4096)

def tileMeta (b : Block) (pa : Nat) : TileMeta := tabGetD b.mem.tiles (pa / 4096) tileZeroMeta

def tileBytes (b : Block) (pa : Nat) : List Byte := memReadN b.mem.bytes pa 4096

def setTileMeta (m : Mem) (tile : Nat) (tm : TileMeta) : Mem :=
  { m with tiles := tabSetD m.tiles tile tm tileZeroMeta }

/-- The index entry a far tile takes; other tiles keep their check alone (R321, R324). -/
def newMeta (r : Option Region) (compress : Bool) (t : List Byte) : TileMeta :=
  match r with
  | some (.far _) =>
    let cs := if compress then codedSectors t else (16, false)
    ⟨storedCheck t, cs.1, cs.2, 0⟩
  | _ => ⟨storedCheck t, 0, false, 0⟩

/-! ## The Gallery cache (R318, R319) -/

/-- The partition whose stack carve-out holds a physical address, with its Gallery in cache mode (R318). -/
def cachePart (b : Block) (pa : Nat) : Option Part :=
  (b.parts.find? (fun e =>
    let d := e.2.desc
    d.galleryCache && decide (pa < 12 * 2 ^ 36) && decide (d.stackFirst ≤ pa / 2 ^ 36) &&
    decide (pa / 2 ^ 36 < d.stackFirst + d.stackDies) && decide (d.stackGranule * gib ≤ pa % 2 ^ 36) &&
    decide (pa % 2 ^ 36 < (d.stackGranule + d.stackGib) * gib) && decide (d.galleryFirst ≤ pa / 2 ^ 36) &&
    decide (pa / 2 ^ 36 < d.galleryFirst + d.galleryDies) && d.galleryMib != 0)).map (fun e => e.2)

/-- The Gallery tile that is the line of a stack tile, where its partition caches the stack. -/
def cacheKey (b : Block) (pa : Nat) : Option Nat :=
  (cachePart b pa).map (fun p =>
    (galleryBase (pa / 2 ^ 36) + p.desc.galleryOffset * mib) / 4096 + pa % 2 ^ 36 / 4096 % (p.desc.galleryMib * 256))

/-- The line that holds a stack tile, if one does: a read of the tile is served from it. -/
def cacheHit (b : Block) (pa : Nat) : Option (Nat × CacheLine) :=
  match cacheKey b pa with
  | none => none
  | some k =>
    match tabGet b.mem.cache k with
    | some l => if l.tile = pa / 4096 then some (k, l) else none
    | none => none

/-- The line of a stack tile filled with it. -/
def cachePut (b : Block) (pa : Nat) (failing : Bool) : Block :=
  match cacheKey b pa with
  | none => b
  | some k => modMem b (fun m => { m with cache := tabSet m.cache k ⟨pa / 4096, failing, 0⟩ })

/-- A read fills the line from the stack where it does not hold the tile. -/
def cacheFill (b : Block) (pa : Nat) : Block :=
  if (cacheHit b pa).isSome then b else cachePut b pa ((tileMeta b pa).damaged != 0)

/-- A write of a stack tile fills its line. -/
def cacheWrite (b : Block) (pa : Nat) : Block := cachePut b pa false

/-! ## Checks (R316, R317) -/

/-- Whether a read of a tile is delivered as failing: a word cannot be corrected, in the array that serves it. -/
def deliversBad (b : Block) (pa : Nat) : Bool :=
  match cacheHit b pa with
  | some e => e.2.failing || e.2.damaged != 0
  | none => (tileMeta b pa).damaged != 0

/-- The stored check as a read delivers it: the complement of the correct one where a word cannot be corrected. -/
def tileCheck (b : Block) (pa : Nat) : BitVec 32 :=
  if deliversBad b pa then ~~~ storedCheck (tileBytes b (pa / 4096 * 4096)) else (tileMeta b pa).check

/-- Whether a tile passes its check at a consumer. -/
def tileOk (b : Block) (pa : Nat) : Bool := tileCheck b pa == storedCheck (tileBytes b (pa / 4096 * 4096))

/-- What a read's stored check differs by from the correct one; zero where the tile passes. -/
def checkError (b : Block) (pa : Nat) : BitVec 32 := tileCheck b pa ^^^ storedCheck (tileBytes b (pa / 4096 * 4096))

/-- A tile written with a check that differs from the correct one by `err`: the DMA, the mover and the atomic units write a right
check, an agent that passes a check through keeps a failing tile failing (R95, R316, R319). -/
def writeTileErr (b : Block) (pa : Nat) (compress : Bool) (t : List Byte) (err : BitVec 32) : Block :=
  let tm := newMeta (regionOf b pa) compress t
  cacheWrite (modMem b (fun m =>
    setTileMeta { m with bytes := memWriteN m.bytes pa t } (pa / 4096) { tm with check := tm.check ^^^ err })) pa

/-- A tile written with its check. -/
def writeTile (b : Block) (pa : Nat) (compress : Bool) (t : List Byte) : Block := writeTileErr b pa compress t 0

/-- A range of physical memory zeroed with its checks and index entries; cache lines of the range are dropped (R266,
R311, R319). -/
def zeroPhys (b : Block) (pa n : Nat) : Block :=
  modMem b (fun m => { m with bytes := memZero m.bytes pa n, tiles := tabClear m.tiles (pa / 4096) (n / 4096)
                              cache := m.cache.filter (fun e => !(pa / 4096 ≤ e.2.tile && e.2.tile < (pa + n) / 4096)) })

/-- One tile of a range written by the block's own work: a tile written in part keeps what its check was wrong by, and its words
that cannot be corrected (R315 to R317). -/
def writePart (b : Block) (pa : Nat) (bs : List Byte) : Block :=
  let tile := pa / 4096 * 4096
  let old := tileMeta b pa
  let err := if bs.length = 4096 then 0 else old.check ^^^ storedCheck (tileBytes b tile)
  let b1 := modMem b (fun m => { m with bytes := memWriteN m.bytes pa bs })
  let tm := newMeta (regionOf b tile) false (tileBytes b1 tile)
  cacheWrite (modMem b1 (fun m => setTileMeta m (tile / 4096)
    { tm with check := tm.check ^^^ err, damaged := if bs.length = 4096 then 0 else old.damaged })) tile

/-- Bytes of a physical range written as the block's own work writes them. -/
def writePhys (b : Block) (pa : Nat) (bs : List Byte) : Block :=
  (rangeFrom (pa / 4096) (ceilDiv (pa % 4096 + bs.length) 4096)).foldl (fun c t =>
    let lo := max pa (4096 * t)
    writePart c lo ((bs.drop (lo - pa)).take (4096 * t + 4096 - lo))) b

/-! ## Check bits (R309) -/

/-- The SEC-DED bits of 262 bits under a linear extended Hamming code; the column of each bit is not stated (log entry 112). -/
def secded (x : BitVec 262) : BitVec 10 :=
  (List.range 262).foldl (fun s i => if x.getLsbD i then s ^^^ Config.hamming i else s) 0

/-- The check bits of the 32-byte word at an address of a stack or the Gallery. -/
def checkBits (b : Block) (pa : Nat) : BitVec 16 :=
  let w := pa % 4096 / 32
  let nibble := BitVec.ofNat 4 (if w < 8 then bits (tileMeta b pa).check.toNat (4 * w) 4 else 0)
  let data := BitVec.ofNat 256 (memReadLE b.mem.bytes (pa / 32 * 32) 32)
  (0#2 ++ nibble) ++ secded ((0#2 ++ nibble) ++ data)

/-! ## Errors of the arrays (R317, R464) -/

/-- A count that stops at all ones (R335). -/
def satAdd (x : BitVec 32) (n : Nat) : BitVec 32 := BitVec.ofNat 32 (min 0xFFFFFFFF (x.toNat + n))

def eccAdd (t : Tab Ecc) (k corrected uncorrectable : Nat) : Tab Ecc :=
  let e := tabGetD t k ⟨0, 0⟩
  tabSetD t k ⟨satAdd e.corrected corrected, satAdd e.uncorrectable uncorrectable⟩ ⟨0, 0⟩

/-- Errors counted at the array a physical address lies in; far memory counts none (R317, R464). -/
def countEcc (b : Block) (pa corrected uncorrectable : Nat) : Block :=
  match regionOf b pa with
  | some (.stack k) => modMem b (fun m => { m with ecc := eccAdd m.ecc k corrected uncorrectable })
  | some (.gallery d) => modMem b (fun m => { m with gecc := eccAdd m.gecc d corrected uncorrectable })
  | _ => b

/-- Words corrected and not, of a read in which the array reports errors. -/
def errWords : ReadErr → Nat × Nat
  | .clean => (0, 0)
  | .corrected n => (n, 0)
  | .uncorrectable => (0, 1)
  | .words c u => (c, u)
  | .lostEntry => (0, 0)

/-- Whether a read in which the array reports errors fails its tile. -/
def errFails (e : ReadErr) : Bool := (errWords e).2 != 0

/-- A far tile whose index entry is damaged into the all-zero entry reads as zeros with a matching check (R464). -/
def loseEntry (b : Block) (pa : Nat) : Block :=
  match regionOf b pa with
  | some (.far _) => zeroPhys b (pa / 4096 * 4096) 4096
  | _ => b

/-- A stack, Gallery or far tile read in its own array. -/
def noteArray (b : Block) (pa c u : Nat) : Block :=
  let d := (tileMeta b pa).damaged
  let b1 := if c + u + d = 0 then b else countEcc b pa c (u + d)
  if u = 0 then b1
  else modMem b1 (fun m => setTileMeta m (pa / 4096) { tabGetD m.tiles (pa / 4096) tileZeroMeta with damaged := d + u })

/-- A stack tile served from its cache line: the errors are the Gallery's. -/
def noteLine (b : Block) (key : Nat) (l : CacheLine) (c u : Nat) : Block :=
  let b1 := if c + u + l.damaged = 0 then b else countEcc b (4096 * key) c (u + l.damaged)
  if u = 0 then b1 else modMem b1 (fun m => { m with cache := tabSet m.cache key { l with damaged := l.damaged + u } })

/-- What the array reported on the read of a tile that a cache line served, or that its own array did: words that cannot be corrected
stay so until the tile is written anew, and are counted at each read; a line filled by that read holds a failing tile (R317, R319). -/
def noteServed (b : Block) (pa : Nat) (line : Option Nat) (err : ReadErr) : Block :=
  let e := errWords err
  match err, line with
  | .lostEntry, _ => loseEntry b pa
  | _, some key =>
    match tabGet b.mem.cache key with
    | some l => if l.tile = pa / 4096 then noteLine b key l e.1 e.2 else countEcc b (4096 * key) e.1 e.2
    | none => countEcc b (4096 * key) e.1 e.2
  | _, none =>
    let b1 := noteArray b pa e.1 e.2
    match cacheHit b1 pa with
    | some (key, l) => if e.2 = 0 then b1 else modMem b1 (fun m => { m with cache := tabSet m.cache key { l with failing := true } })
    | none => b1

/-- The read of a tile with what the array reported: from its cache line, or from its own array into the line. -/
def noteRead (b : Block) (pa : Nat) (err : ReadErr) : Block :=
  match cacheHit b pa with
  | some e => noteServed b pa (some e.1) err
  | none => cacheFill (noteServed b pa none err) pa

/-- What is told of the tile at an address: no error where nothing is. -/
def errAt (errs : List (Nat × ReadErr)) (pa : Nat) : ReadErr :=
  ((errs.find? (fun e => decide (e.1 / 4096 = pa / 4096))).map (fun e => e.2)).getD .clean

/-! ## Host memory (log entry 5) -/

/-- A host bus address in a function's own DMA space, as host memory is keyed: every access carries its function's requester
identity (R269, R276). -/
def hostAt (fn a : Nat) : Nat := fn * 2 ^ 64 + a

/-- The bus address of a key of host memory. -/
def busOf (k : Nat) : Nat := k % 2 ^ 64

/-- Whether the requests of a function carry the TEE-originator indication: it is a VF in RUN (R377). -/
def teeOf (b : Block) (fn : Nat) : Bool :=
  match tabGet b.grotto.tdisp fn with
  | some t => t.state == .run
  | none => false

/-- A memory request put on the host port, in transactions of at most 4,096 bytes (R449). -/
def hostRequest (kind : HostReqKind) (k n : Nat) (payload : List Byte) (b : Block) : Block :=
  let part := fun i => PortOut.request
    ⟨kind, k / 2 ^ 64, teeOf b (k / 2 ^ 64), busOf k + 4096 * i, min 4096 (n - 4096 * i), (payload.drop (4096 * i)).take 4096⟩
  { b with out := b.out ++ (List.range (ceilDiv n 4096)).map part }

/-- The header of a request under a tag (R449). -/
def hostHeader (r : HostReq) (tag : BitVec 12) : BitVec 128 :=
  let kind := match r.kind with
    | .read => 0
    | .write => 1
    | .cas => 2
  BitVec.ofNat 128 (kind * 2 ^ 124 + r.fn % 64 * 2 ^ 118 + (if r.tee then 2 ^ 117 else 0) + tag.toNat * 2 ^ 101 +
    (r.bytes - 1) % 4096 * 2 ^ 89 + r.address % 2 ^ 64)

/-- The flits of a transaction: its header goes with its first 128 bytes of payload, a flit goes for each further 128 (R448). -/
def hostFlits (r : HostReq) (tag : BitVec 12) : List (Option (BitVec 128) × BitVec 1024) :=
  (List.range (max 1 (ceilDiv r.payload.length 128))).map (fun i =>
    (if i = 0 then some (hostHeader r tag) else none, BitVec.ofNat 1024 (le ((r.payload.drop (128 * i)).take 128))))

def hostRead (b : Block) (k n : Nat) : List Byte := memReadN b.mem.host k n

def hostLE (b : Block) (k n : Nat) : Nat := memReadLE b.mem.host k n

/-- A read of host memory put on the host port. -/
def hostAsk (k n : Nat) (b : Block) : Block := hostRequest .read k n [] b

/-- A 64-bit word of host memory compared and swapped as one atomic update: the request carries the old value and the new one (R269,
R449). -/
def hostSwap (b : Block) (k old new : Nat) : Block :=
  hostRequest .cas k 16 (leBytes 8 old ++ leBytes 8 new) (modMem b (fun m => { m with host := memWriteLE m.host k 8 new }))

/-- Bytes written to host memory. -/
def hostWrite (b : Block) (k : Nat) (bs : List Byte) : Block :=
  hostRequest .write k bs.length bs (modMem b (fun m => { m with host := memWriteN m.host k bs }))

/-- What a failed write leaves: of each byte its old value or the one the request carried, which the host decides (R450). -/
def mixBytes (n : Nat) : List Byte → List Byte → List Byte
  | o :: os, w :: ws => (if (Config.freeValue n).getLsbD 0 then w else o) :: mixBytes (n + 1) os ws
  | _, _ => []

/-- A write to host memory that ends in a host-port error (R450). -/
def failWrite (k : Nat) (bs : List Byte) (b : Block) : Block :=
  let mixed := mixBytes b.freeCtr (hostRead b k bs.length) bs
  let b1 := hostRequest .write k bs.length bs (modMem b (fun m => { m with host := memWriteN m.host k mixed }))
  { b1 with freeCtr := b.freeCtr + bs.length }

/-- Free bytes, from the free value of an index on (log entry 9). -/
def unknownBytes (k n : Nat) : List Byte := (List.range n).map (fun i => (Config.freeValue (k + i)).setWidth 8)

/-- A write already told of turns out to have failed: what it left of the bytes before it is free (R450; log entry 125). -/
def blurBytes (k n : Nat) (b : Block) : Block :=
  let mixed := mixBytes b.freeCtr (unknownBytes (b.freeCtr + n) n) (hostRead b k n)
  { modMem b (fun m => { m with host := memWriteN m.host k mixed }) with freeCtr := b.freeCtr + 2 * n }

end Sys2Proof.Machine
end

