-- ==== Sys2Proof/Machine/Lantern.lean ====
section
/-!
DEFINITION. Who owns a quad in a round (R147, R148), and the trace records of Lantern (R440, R442, R443).
-/

namespace Sys2Proof.Machine

open Sys2Proof

/-! ## Owners -/

/-- The owner of a quad in a round by a table; the trim round has none (R147, R148). -/
def ownerIn (t : Tab (BitVec 6)) (round quad : Nat) : Nat :=
  if round = trimRound then 0 else (tabGetD t (quad * 1000 + round % 1000) 0).toNat

/-- The owner of a quad in a round of this epoch. -/
def quadOwner (b : Block) (round quad : Nat) : Nat := ownerIn b.cal.active round quad

/-! ## Lantern's buffer -/

/-- First physical address and tiles of Lantern's buffer (R440). -/
def ltBase (l : Lantern) : Nat := galleryBase l.die.toNat + l.offsetMib.toNat * mib

def ltTiles (l : Lantern) : Nat := l.sizeMib.toNat * 256

/-- Trace records that fit in the buffer. -/
def ltRecords (l : Lantern) : Nat := l.sizeMib.toNat * 32768

def modLantern (b : Block) (g : Lantern → Lantern) : Block := { b with lantern := g b.lantern }

/-! ## Records (R442) -/

/-- Events of a trace record. -/
def evStart : Nat := 1
def evEnd : Nat := 2
def evIssue : Nat := 3
def evSem : Nat := 4
def evFault : Nat := 5
def evOwner : Nat := 6

/-- A trace record after its stamp. -/
def traceBody (event core : Nat) (tag : BitVec 16) (vf : Nat) (detail : List Byte) : List Byte :=
  leBytes 2 event ++ leBytes 2 core ++ leBytes 2 tag.toNat ++ leBytes 1 vf ++ zeros 1 ++ padTo 16 detail

/-- The stamp of a trace record, with the bit that says events were dropped just before it. -/
def traceStamp (stamp : Nat) (gap : Bool) : List Byte := leBytes 8 (stamp + (if gap then 2 ^ 63 else 0))

/-- Whether Lantern records the events of a partition's cores: it is active and the partition is diagnostic (R384, R442). -/
def ltTraces (b : Block) (vf : Nat) : Bool :=
  b.lantern.active &&
    match partAt b vf with
    | some p => p.desc.diagnostic
    | none => false

/-- A record put among those of its tick, in ascending core order. -/
def recInsert (e : Nat × List Byte) : List (Nat × List Byte) → List (Nat × List Byte)
  | [] => [e]
  | x :: l => if x.1 ≤ e.1 then x :: recInsert e l else e :: x :: l

/-- The records of a tick at a stamp so far: those kept, or none of a new tick. -/
def ltTickAt (l : Lantern) (stamp : Nat) : LtTick :=
  if l.inTick.stamp = stamp then l.inTick else ⟨stamp, l.writeIndex.toNat, l.droppedBefore, []⟩

/-- How many records a tick may still gain: 64 in all, and no more than the count left after the trigger (R442, R443). -/
def ltRoom (l : Lantern) (k : LtTick) : Nat :=
  let free := 64 - k.recs.length
  match l.left with
  | some n => if l.triggered then min free n else free
  | none => free

/-- The records of a tick written in order from its first place. -/
def ltWrite (b : Block) (k : LtTick) : Block :=
  ((List.range k.recs.length).zip k.recs).foldl (fun c e =>
    writePhys c (ltBase c.lantern + 32 * ((k.first + e.1) % ltRecords c.lantern))
      (traceStamp k.stamp (k.gap && e.1 == 0) ++ e.2.2)) b

/-- One event of a core at a tick of the current round. The records of a tick stand in ascending core order; events beyond 64 are
dropped, and the record that follows them says so. -/
def ltEvent (t event core : Nat) (tag : BitVec 16) (detail : List Byte) (b : Block) : Block :=
  let vf := quadOwner b b.tb.round (core / 4)
  if !ltTraces b vf then b
  else
    let l := b.lantern
    let k := ltTickAt l (stampAt b.tb t).toNat
    let all := recInsert (core, traceBody event core tag vf detail) k.recs
    let kept := all.take (k.recs.length + ltRoom l k)
    let new := kept.length - k.recs.length
    if kept.isEmpty then b
    else
      modLantern (ltWrite b { k with recs := kept }) (fun x => { x with
        writeIndex := BitVec.ofNat 23 ((k.first + kept.length) % ltRecords l)
        wrapped := x.wrapped || decide (ltRecords l ≤ k.first + kept.length)
        left := if x.triggered then x.left.map (fun n => n - new) else x.left
        inTick := { k with recs := kept }
        droppedBefore := decide (64 < all.length)
        vfs := if x.vfs.contains vf then x.vfs else x.vfs ++ [vf] })

/-- The records kept from an earlier recording zeroed (R444; log entry 51). -/
def ltWipe (b : Block) : Block :=
  modLantern (if b.lantern.held.2 = 0 then b else zeroPhys b b.lantern.held.1 (4096 * b.lantern.held.2))
    (fun x => { x with held := (0, 0), vfs := [] })

/-- Lantern switched off and its buffer zeroed; a dump in progress stops (R444). -/
def ltClear (b : Block) : Block :=
  modLantern (ltWipe b) (fun x => { x with enable := false, active := false, dumping := false, left := none })

/-- The buffer as LT_BUF places it: whether it lies in the Gallery of the build (R441). -/
def ltPlaced (b : Block) : Bool :=
  let l := b.lantern
  l.sizeMib != 0 && galleryHere b l.die.toNat && decide (l.offsetMib.toNat + l.sizeMib.toNat ≤ (bld b).galleryMib)

/-- Whether the buffer meets a partition's Gallery carve-out (R441). -/
def ltMeetsPart (b : Block) : Bool :=
  let l := b.lantern
  b.parts.any (fun e =>
    let d := e.2.desc
    decide (d.galleryFirst ≤ l.die.toNat) && decide (l.die.toNat < d.galleryFirst + d.galleryDies) &&
    overlap d.galleryOffset d.galleryMib l.offsetMib.toNat l.sizeMib.toNat)

end Sys2Proof.Machine
end

