-- ==== Sys2Proof/Machine/Faults.lean ====
section
/-!
DEFINITION. Commands in progress and how they end, the seats of deals, contexts that become LOST (R255), the fault ring
(R413 to R415), and what a block fault does in its tick (R417, R421).
-/

namespace Sys2Proof.Machine

open Sys2Proof

/-! ## Commands in progress -/

def setCmd (b : Block) (id : Nat) (st : CmdStage) : Block :=
  modDealer b (fun d => { d with cmds := d.cmds.map (fun c => if c.id = id then { c with stage := st } else c) })

def cmdById (b : Block) (id : Nat) : Option Cmd := b.dealer.cmds.find? (fun c => c.id == id)

/-- A command ends: its record waits for a completion tick of its function (R231). -/
def finish (b : Block) (id : Nat) (st : BitVec 16) (detail : BitVec 32) : Block := setCmd b id (.done st detail)

/-- Whether a command has ended and waits for its record only. -/
def isDone (c : Cmd) : Bool :=
  match c.stage with
  | .done _ _ => true
  | _ => false

/-- Whether a command still waits for its CQ entry (R230). -/
def isHeld (c : Cmd) : Bool :=
  match c.stage with
  | .held _ => true
  | _ => false

/-- Every command of a stage ends with a status. -/
def finishAll (b : Block) (p : Cmd → Bool) (st : BitVec 16) (detail : BitVec 32) : Block :=
  modDealer b (fun d => { d with cmds := d.cmds.map (fun c => if p c then { c with stage := .done st detail } else c) })

/-- Whether a command is a PLAN_LOAD that has yet to end. -/
def isLoad (c : Cmd) : Bool :=
  match c.stage with
  | .planLoad .. => true
  | .waiting => c.opcode == 0x20
  | _ => false

/-- The streams of the PLAN_LOADs that end with the commands of a set start none before the next round boundary (R172). -/
def noteLoads (b : Block) (p : Cmd → Bool) : Block :=
  { b with fns := tabMap b.fns (fun fn f =>
      if b.dealer.cmds.any (fun c => c.q.fn == fn && isLoad c && p c) then { f with loadEnded := some (roundCount b.tb) } else f) }

/-- Whether a command is work of the tile mover that has not ended. -/
def inMover (c : Cmd) : Bool :=
  match c.stage with
  | .mover _ => true
  | .saving _ _ _ _ => true
  | _ => false

/-- The key registers of the mover's cipher engine erased where the command they serve has ended (R361). -/
def eraseKeys (b : Block) : Block :=
  let keys := b.grotto.cipherKeys.filter (fun e => b.dealer.cmds.any (fun c => c.id == e.2.cmd && inMover c))
  { b with grotto := { b.grotto with cipherKeys := keys } }

/-! ## Sequence entries and seats (R197, R198) -/

def SeqFields.zero : SeqFields := ⟨0, 0, 0, 0, 0, 0, 0, 0, 0, 0, 0, 0, 0⟩

/-- An entry that holds no sequence, its generation kept. -/
def freeSeq (gen : BitVec 18) : Seq := ⟨gen, 0, .free, SeqFields.zero, none, 0, 0⟩

/-- The fields an entry has from its next deal on (R199). -/
def nextFields (q : Seq) : SeqFields :=
  match q.later with
  | none => q.f
  | some l =>
    { q.f with control := l.control.getD q.f.control, view := l.view.getD q.f.view, budget := l.budget.getD q.f.budget
               notifyFence := l.notifyFence.getD q.f.notifyFence }

/-- An entry that leaves its deal and is OPEN again. -/
def reopen (q : Seq) : Seq := { q with state := .isOpen, f := nextFields q, later := none }

def seqAt (b : Block) (i : Nat) : Seq := tabGetD b.dealer.seqs i (freeSeq 0)

def setSeq (b : Block) (i : Nat) (q : Seq) : Block :=
  modDealer b (fun d => { d with seqs := tabSetD d.seqs i q (freeSeq 0) })

/-- An entry is freed; a SEQ_CLOSE that waits for it completes (R198). -/
def seqFree (b : Block) (i : Nat) : Block :=
  finishAll (setSeq b i (freeSeq (seqAt b i).gen)) (fun c => c.stage == .seqClose i) stOk 0

/-- A seated entry leaves its deal: back to OPEN, or freed from CLOSING (R198). -/
def seatLeave (b : Block) (s : Seat) : Block :=
  let i := s.sequence.toNat % 2 ^ 14
  let q := seqAt b i
  if s.valid && q.gen.toNat == s.sequence.toNat / 2 ^ 14 then
    match q.state with
    | .dealt => setSeq b i (reopen q)
    | .held => setSeq b i (reopen q)
    | .closing => seqFree b i
    | _ => b
  else b

/-- The seats of a lost or aborted deal leave it unadvanced (R219). -/
def dropDeal (b : Block) (d : Deal) : Block := d.seats.foldl seatLeave b

/-! ## Steps -/

def stepById (b : Block) (id : Nat) : Option Step := b.dealer.steps.find? (fun s => s.id == id)

def modStep (b : Block) (id : Nat) (g : Step → Step) : Block :=
  modDealer b (fun d => { d with steps := d.steps.map (fun s => if s.id = id then g s else s) })

/-- A context's held deal released, its sequences leaving it (R219). -/
def releaseHeld (b : Block) (tag : Nat) : Block :=
  match ctxAt b tag with
  | none => b
  | some c =>
    match c.held with
    | none => b
    | some h => dropDeal (setCtx b tag { c with held := none }) h.deal

/-- What a step that ends without a commit gives back: its deal, or the held deal it belongs to (R219). -/
def stepGiveBack (b : Block) (s : Step) : Block :=
  match s.deal with
  | none => b
  | some d => if s.phase = 0 then dropDeal b d else releaseHeld b s.tag.toNat

/-- A pin counted off a buffer entry; an entry is held only while its pin count is above zero (R287, R294). -/
def unpin (l2 : List L2Entry) (vf : Nat) (r : PinReq) : List L2Entry :=
  (l2.map (fun e => if e.vf = vf ∧ e.req = r then { e with pins := e.pins - 1 } else e)).filter (fun e => e.pins != 0)

/-- A step's pins released (R294). -/
def releasePins (b : Block) (s : Step) : Block :=
  { b with xlat := { b.xlat with l2 := s.pins.foldl (fun l r => unpin l s.fn r) b.xlat.l2 } }

/-- A step whose pins are installed: admitted, or staged. -/
def stepPinned (s : Step) : Bool :=
  match s.stage with
  | .staging => true
  | .admitted => true
  | .ended => true
  | .finished => true
  | _ => false

/-- A step whose admission is complete and whose completion has not begun. -/
def stepInFlight (s : Step) : Bool :=
  match s.stage with
  | .admitted => true
  | .ended => true
  | _ => false

/-- Whether a block fault of this tick loses a step: its admission completed before (R416, R417). -/
def faultLoses (b : Block) (s : Step) : Bool :=
  stepInFlight s &&
    match s.admittedAt with
    | some t => decide (t.toNat < (now b).toNat)
    | none => false

/-- A step ends without a commit: its seats leave their deal at once; a step that holds pins keeps them until its record is written
(R219, R294). -/
def endStep (b : Block) (s : Step) (st : BitVec 16) (detail : BitVec 32) : Block :=
  let b1 := stepGiveBack b s
  let b2 := if stepPinned s then modStep b1 s.id (fun x => { x with stage := .finished })
    else modDealer b1 (fun d => { d with steps := d.steps.filter (fun x => x.id != s.id) })
  finish b2 s.cmd st detail

/-! ## A context becomes LOST (R255, R256) -/

/-- Detail of ST_CONTEXT_LOST (R256). -/
def lostDetail (c : Ctx) : BitVec 32 := c.lostStatus.setWidth 32

/-- The STEPs of a context that are not in flight end with ST_CONTEXT_LOST; those in flight run or are lost as R417 and
R220 give. -/
def dropPendingSteps (b : Block) (tag : Nat) (detail : BitVec 32) : Block :=
  (b.dealer.steps.filter (fun s => s.tag.toNat == tag && !stepInFlight s && s.stage != .finished)).foldl
    (fun c s => endStep c s stContextLost detail) b

/-- A fault attributed to a context makes it LOST; a further one changes nothing (R254, R255). Every command fetched from it whose
record is not written ends so, but for its STEPs and for those that wait for a CQ entry, which end so when they have one. -/
def loseCtx (b : Block) (tag : Nat) (st : BitVec 16) : Block :=
  match ctxAt b tag with
  | none => b
  | some c =>
    if c.state = .live then
      let b1 := setCtx b tag { c with state := .lost, lostStatus := st, lostAt := now b }
      let b2 := dropPendingSteps b1 tag (st.setWidth 32)
      let lost := fun (x : Cmd) => x.q.tag.toNat == tag && !isHeld x && x.opcode != 0x22
      let b3 := finishAll (noteLoads b2 lost) lost stContextLost (st.setWidth 32)
      setCause (eraseKeys b3) c.fn cContextLost
    else b

/-! ## The fault ring (R302, R413 to R415) -/

/-- The 192 bytes of a record. -/
def faultBytes (r : FaultRec) (stamp : Stamp) : List Byte :=
  leBytes 2 0x0100 ++ leBytes 1 r.kind ++ leBytes 1 r.reason ++ leBytes 2 r.status.toNat ++ leBytes 2 r.tag ++
  leBytes 1 r.vf ++ leBytes 1 r.stage ++ leBytes 1 (if r.write then 1 else 0) ++ zeros 5 ++ leBytes 8 stamp.toNat ++
  leBytes 8 r.address ++ leBytes 8 r.command ++ leBytes 8 r.agents ++ zeros 16 ++ leBytes 128 r.engines

/-- The command field of a record and of a deal list: command id, then completion-queue index (log entry 32). -/
def commandField (cid : BitVec 16) (cq : Nat) : Nat := cid.toNat + 2 ^ 16 * cq

/-- Entries of a ring of the AC_ block. -/
def ringEntries (r : AcRing) : Nat := 2 ^ r.size.toNat

/-- Whether a ring takes another record (R415, R438). -/
def ringOpen (r : AcRing) : Bool :=
  r.enable && decide ((r.tail.toNat + 1) % ringEntries r ≠ r.head.toNat)

/-- A ring whose tail has moved past a record. -/
def ringPush (r : AcRing) : AcRing := { r with tail := BitVec.ofNat 16 ((r.tail.toNat + 1) % ringEntries r) }

/-- A ring that has dropped a record (R415, R438). -/
def ringDrop (r : AcRing) : AcRing :=
  { r with dropped := if r.dropped = 0xFFFF then r.dropped else r.dropped + 1, overflow := true }

def setFaultRing (b : Block) (r : AcRing) : Block := { b with acct := { b.acct with fault := r } }

/-- Whether two faults make one record (R303). -/
def sameFault (r s : FaultRec) : Bool :=
  r.kind == s.kind && r.reason == s.reason && r.tag == s.tag && r.address == s.address

/-- A record with another fault's engines, agents and access in it. -/
def mergeFault (r s : FaultRec) : FaultRec :=
  { r with write := r.write || s.write, agents := r.agents ||| s.agents, engines := r.engines ||| s.engines }

/-- The place of a record among those of its tick: the lowest engine it holds, records of agents alone last (R303). -/
def faultKey (r : FaultRec) : Nat := (maskBits 1024 r.engines).headD 1024

/-- The records of the current tick so far, in order. -/
def recentFaults (b : Block) : List FaultRec := if b.recov.recentAt = some (now b) then b.recov.recent else []

/-- The bytes of a record written to an entry of the fault ring. -/
def putFault (b : Block) (i : Nat) (r : FaultRec) : Block :=
  hostWrite b (b.acct.fault.base.toNat + 256 * i) (faultBytes r (now b) ++ zeros 64)

/-- The records of a tick in their order, those the ring took written to its entries. -/
def putRecent (b : Block) (l : List FaultRec) (first kept : Nat) : Block :=
  let sorted := orderBy faultKey l
  let b1 := { b with recov := { b.recov with recentAt := some (now b), recent := sorted, recentFirst := first, recentKept := kept } }
  ((List.range kept).zip sorted).foldl (fun c e => putFault c ((first + e.1) % ringEntries b.acct.fault) e.2) b1

/-- A record written to the fault ring, or dropped (R415). A fault of this tick with the reason, tag and page of an earlier one
joins its record; the records of a tick stand in the order of R303. -/
def faultRecord (b : Block) (r : FaultRec) : Block :=
  let l := recentFaults b
  let ring := b.acct.fault
  let first := if l.isEmpty then ring.tail.toNat else b.recov.recentFirst
  let kept := if l.isEmpty then 0 else b.recov.recentKept
  if l.any (fun e => sameFault e r) then putRecent b (l.map (fun e => if sameFault e r then mergeFault e r else e)) first kept
  else if ringOpen ring then setCause (putRecent (setFaultRing b (ringPush ring)) (l ++ [r]) first (kept + 1)) 0 cFaultRecord
  else putRecent (setFaultRing b (ringDrop ring)) (l ++ [r]) first kept

/-! ## Block faults (R412, R417, R421) -/

/-- The held deal of a backward or optimiser STEP that does not run at the stage the STEP found it in. -/
def restoreHeld (b : Block) (s : Step) : Block :=
  modCtx b s.tag.toNat (fun c => { c with held := c.held.map (fun h =>
    { h with stage := if s.phase = 2 then .forwardDone else .backwardDone }) })

/-- A walk in progress is abandoned: the seats of a serve or forward deal return to OPEN, a later phase leaves the held deal as
it found it, and the STEP stays pending (R356, R421). -/
def abandonWalk (b : Block) (s : Step) : Block :=
  let b1 := if s.phase ≤ 1 then stepGiveBack b s else restoreHeld b s
  modStep b1 s.id (fun x => { x with stage := .setAside, deal := none, pins := [] })

/-- The walks in progress of a partition abandoned; an admitted step that walks again keeps its deal. -/
def abandonWalks (b : Block) (vf : Nat) : Block :=
  (b.dealer.steps.filter (fun s => s.fn == vf && !s.rewalk && (s.stage == .walking || s.stage == .walked))).foldl abandonWalk b

/-- The block fault is counted against the partition of its context, which is restrained at the fourth (R421). -/
def countFault (b : Block) (vf : Nat) : Block :=
  match partAt b vf with
  | none => b
  | some p =>
    let n := p.faults + 1
    let b1 := modPart b vf (fun q => { q with faults := n, restrained := q.restrained || decide (4 ≤ n) })
    if 4 ≤ n then abandonWalks b1 vf else b1

/-- A block fault in its tick: counted, recorded, its context LOST, its partition charged, the steps in flight marked for
loss, the next placement cancelled (R416, R417, R421). -/
def blockFault (b0 : Block) (r : FaultRec) : Block :=
  let b := (maskBits 1024 r.engines).foldl (fun c i =>
    ltEvent c.tb.tick evFault i (BitVec.ofNat 16 r.tag) (leBytes 1 r.kind ++ leBytes 1 r.reason) c) b0
  let b1 := { b with acct := { b.acct with faultBlock := satAdd b.acct.faultBlock 1 } }
  let b2 := faultRecord b1 r
  let b3 := if r.tag = 0 then b2 else loseCtx b2 r.tag r.status
  let b4 := if r.tag = 0 then b3 else countFault b3 r.vf
  let b5 := modDealer b4 (fun d => { d with loaded := []
                                            steps := d.steps.map (fun s =>
                                              if faultLoses b4 s then { s with lost := true } else s) })
  { b5 with recov := { b5.recov with faultTick := some (b5.recov.faultTick.getD b5.tb.tick) } }

/-- A block fault of a context of a core's trick (R412, R413). -/
def coreFault (b : Block) (core kind reason : Nat) (st : BitVec 16) (tag address command : Nat) (write : Bool)
    (stage : Nat) : Block :=
  blockFault b ⟨kind, reason, st, tag, ctxVf b tag, stage, write, address, command, 0, 2 ^ core⟩

/-- Agents of R302. -/
def agMover : Nat := 1
def agWalker : Nat := 2
def agFrontEnd : Nat := 4
def agDealer : Nat := 8

end Sys2Proof.Machine
end

