-- ==== Sys2Proof/Machine/Queue.lean ====
section
/-!
DEFINITION. Rings (R228), the fetch of packets (R229, R230), the checks of R242, completion records (R231, R237), and the
doorbell error register (R234).
-/

namespace Sys2Proof.Machine

open Sys2Proof

/-! ## Rings -/

/-- The SQ of a queue reference: the admin SQ, or an SQ of a context of the function (R227, R252). -/
def sqOf (b : Block) (q : QRef) : Option Sq :=
  if q.tag = 0 then
    let x := fnAt b q.fn
    if q.idx = 0 then some ⟨x.aqSqBase, x.aqSqLog2.toNat, x.aqLevel, x.sqHead, x.sqTail⟩ else none
  else
    match ctxAt b q.tag.toNat with
    | some c => if c.fn = q.fn then tabGet c.sqs q.idx.toNat else none
    | none => none

/-- A CQ of the queue's owner by index; the admin queue has CQ 0 alone. -/
def cqOf (b : Block) (q : QRef) (i : Nat) : Option Cq :=
  if q.tag = 0 then
    let x := fnAt b q.fn
    if i = 0 then some ⟨x.aqCqBase, x.aqCqLog2.toNat, 0, x.cqHead, x.cqTail, x.cqPhase, x.cqArmed, x.cqReserved⟩ else none
  else
    match ctxAt b q.tag.toNat with
    | some c => if c.fn = q.fn then tabGet c.cqs i else none
    | none => none

/-- Positions and flags of a CQ stored; its base, size and vector are fixed at its creation. -/
def setCq (b : Block) (q : QRef) (i : Nat) (c : Cq) : Block :=
  if q.tag = 0 then
    modFn b q.fn (fun x => { x with cqHead := c.head, cqTail := c.tail, cqPhase := c.phase, cqArmed := c.armed, cqReserved := c.reserved })
  else modCtx b q.tag.toNat (fun x => { x with cqs := tabMod x.cqs i (fun _ => c) })

def setSqTail (b : Block) (q : QRef) (t : Nat) : Block :=
  if q.tag = 0 then modFn b q.fn (fun x => { x with sqTail := t })
  else modCtx b q.tag.toNat (fun x => { x with sqs := tabMod x.sqs q.idx.toNat (fun s => { s with tail := t }) })

def setSqHead (b : Block) (q : QRef) (h : Nat) : Block :=
  if q.tag = 0 then modFn b q.fn (fun x => { x with sqHead := h })
  else modCtx b q.tag.toNat (fun x => { x with sqs := tabMod x.sqs q.idx.toNat (fun s => { s with head := h }) })

/-- Records written and not released. -/
def cqUnreleased (c : Cq) : Nat := (c.tail + 2 ^ c.log2 - c.head) % 2 ^ c.log2

/-- Free entries of a CQ (R230). -/
def cqFree (c : Cq) : Nat := 2 ^ c.log2 - 1 - cqUnreleased c - c.reserved

/-! ## Fetch (R229) -/

/-- A fetched command that makes its SQ ineligible: any one on the admin SQ (R250), else a held one, an unsatisfied
FENCE_WAIT, or an unfinished ordered one (R229, R230). A command is unfinished until its record is written. -/
def blocksSq (c : Cmd) : Bool :=
  c.q.tag == 0 || c.ordered ||
    match c.stage with
    | .held _ => true
    | .fenceWait _ _ => true
    | _ => false

/-- Whether no swap-in of a context is under way: one of this round's changeover window counts from tick 2,048 (R134). -/
def swapDone (b : Block) (c : Ctx) : Bool := c.swapRound != some (roundCount b.tb) || decide (2048 ≤ b.tb.tick)

/-- Whether a resident context's slot may be used. -/
def ctxReady (b : Block) (c : Ctx) : Bool := c.resident && swapDone b c

/-- Whether a queue's context may be fetched from: resident, and not DESTROYING (R229, R258). -/
def fetchCtx (b : Block) (q : QRef) : Bool :=
  if q.tag = 0 then true
  else
    match ctxAt b q.tag.toNat with
    | some c => ctxReady b c && c.state != .destroying
    | none => false

/-- Whether a PART_DESTROY, or a STOP scrub, has stopped the fetch of a function (R355; log entry 53). -/
def destroying (b : Block) (fn : Nat) : Bool :=
  match partAt b fn with
  | some p => p.ending.isSome
  | none => false

/-- Whether an SQ is eligible (R229). -/
def eligible (b : Block) (q : QRef) : Bool :=
  match sqOf b q with
  | none => false
  | some s => s.head != s.tail && (fnAt b q.fn).state == .running && !destroying b q.fn && fetchCtx b q &&
      !(b.dealer.cmds.any (fun c => c.q == q && blocksSq c))

/-- The order in which eligible context SQs are taken: lowest index, then the context whose last fetch is oldest, one
never fetched from being older than all, then the lower tag (R229). -/
def fetchRank (b : Block) (q : QRef) : Nat :=
  let last := match ctxAt b q.tag.toNat with
    | some c => match c.lastFetch with
      | some t => t.toNat + 1
      | none => 0
    | none => 0
  (q.idx.toNat * 2 ^ 64 + last) * 2 ^ 16 + q.tag.toNat

/-- The eligible context SQs of a function. -/
def ctxQueues (b : Block) (fn : Nat) : List QRef :=
  ((ctxsOf b fn).flatMap (fun t => (List.range 8).map (fun i => (⟨fn, BitVec.ofNat 16 t, BitVec.ofNat 3 i⟩ : QRef)))).filter
    (fun q => eligible b q)

/-- The SQ the front end takes a packet from next (R229). -/
def pickSq (b : Block) (fn : Nat) : Option QRef :=
  if eligible b ⟨fn, 0, 0⟩ then some ⟨fn, 0, 0⟩
  else (sortBy (fetchRank b) (ctxQueues b fn)).head?

/-- The tick of the function's next fetch. -/
def fetchTick (b : Block) (fn : Nat) : Nat := slotTick b.tb fn (fnAt b fn).lastFetch

/-- Whether a packet can be fetched from a queue now: it is the front end's pick, and a fetch tick of its function is left
in the round (R229). -/
def canFetch (b : Block) (q : QRef) : Bool :=
  alive b && ticking b && decide (q.fn < 64) && pickSq b q.fn == some q && decide (fetchTick b q.fn ≤ lastTick b.tb)

/-- An entry is fetched, by a read of its 64 bytes: the clock stands at the fetch tick and the head has passed the entry. -/
def takeEntry (b : Block) (q : QRef) : Block :=
  let b1 := toTick b (fetchTick b q.fn)
  let t := now b1
  let b2 := modFn b1 q.fn (fun x => { x with lastFetch := some t })
  let b3 := if q.tag = 0 then b2 else modCtx b2 q.tag.toNat (fun c => { c with lastFetch := some t })
  match sqOf b3 q with
  | some s => setSqHead (hostAsk (hostAt q.fn (s.base.toNat + 64 * s.head)) 64 b3) q ((s.head + 1) % 2 ^ s.log2)
  | none => b3

/-! ## The checks at fetch (R238 to R246) -/

/-- Queue classes of R241. -/
inductive QueueClass where
  | a
  | m
  | c
  deriving DecidableEq, Repr

def queueClass (q : QRef) : QueueClass := if q.tag ≠ 0 then .c else if q.fn = 0 then .m else .a

/-- Opcodes of context SQs (R246). -/
def guestOps : List Nat :=
  [0x01, 0x10, 0x11, 0x12, 0x13, 0x14, 0x15, 0x20, 0x21, 0x22, 0x30, 0x31, 0x32, 0x38, 0x39, 0x40, 0x41, 0x50]

/-- Opcodes of the admin queue of a VF (R246). -/
def adminOps : List Nat := [0x01, 0x60, 0x61, 0x70, 0x71]

/-- Opcodes of the admin queue of PF0 (R246). -/
def managerOps : List Nat := [0x01, 0x80, 0x81, 0x82, 0x83, 0x84, 0x85, 0x88, 0x90, 0x91, 0x98]

/-- Whether an opcode is assigned at level 1: the block defines no vendor diagnostic (R244; log entry 24). -/
def assigned (op : BitVec 8) : Bool :=
  guestOps.contains op.toNat || adminOps.contains op.toNat || managerOps.contains op.toNat

/-- Whether an opcode runs on a queue (R241). -/
def permitted (q : QRef) (op : BitVec 8) : Bool :=
  match queueClass q with
  | .c => guestOps.contains op.toNat
  | .a => adminOps.contains op.toNat
  | .m => managerOps.contains op.toNat

/-- The admin commands whose tag names their target context (R240). -/
def targeted (op : BitVec 8) : Bool := op == 0x60 || op == 0x61 || op == 0x71

/-- Whether the header's tag is what R240 asks. -/
def tagAllowed (q : QRef) (h : Hdr) (op : BitVec 8) : Bool :=
  if q.tag ≠ 0 then h.tag == q.tag else if targeted op then h.tag != 0 else h.tag == 0

/-- The LOST context of check 5, if there is one: the SQ's own, or the one an admin header names. -/
def lostCtx (b : Block) (q : QRef) (h : Hdr) : Option Ctx :=
  match ctxAt b (if q.tag ≠ 0 then q.tag else h.tag).toNat with
  | some c => if c.fn = q.fn ∧ c.state = .lost then some c else none
  | none => none

/-- The CQ a command's record goes to, and whether its header named it wrongly (R242). -/
def recordCq (b : Block) (q : QRef) (h : Hdr) : Nat × Bool :=
  match cqOf b q h.cq.toNat with
  | some _ => (h.cq.toNat, false)
  | none => (0, true)

/-- The first check of R242 that fails, checks 1 to 6, with its status and detail. -/
def packetStatus (b : Block) (q : QRef) (h : Hdr) (op : BitVec 8) : Option (BitVec 16 × BitVec 32) :=
  let level := match sqOf b q with
    | some s => s.level.toNat
    | none => 0
  if (recordCq b q h).2 then some (stInvalidField, 0)
  else if h.level = 0 ∨ level < h.level.toNat then some (stLevelUnsupported, 0)
  else if !assigned op then some (stInvalidOpcode, 0)
  else if !permitted q op || !tagAllowed q h op then some (stNotPermitted, 0)
  else
    match (if op = 0x71 then none else lostCtx b q h) with
    | some c => some (stContextLost, lostDetail c)
    | none => if bit h.flags.toNat 2 || bit h.flags.toNat 3 || h.rsvd then some (stInvalidField, 0) else none

/-- Whether a queue's context is being destroyed: a command still held ends aborted (R258). -/
def queueDying (b : Block) (q : QRef) : Bool :=
  q.tag != 0 &&
    match ctxAt b q.tag.toNat with
    | some c => c.state == .destroying
    | none => true

/-- A command whose CQ entry is reserved: the checks of R242, then its own work. -/
def runChecked (q : QRef) (h : Hdr) (op : BitVec 8) (id : Nat) (own : Nat → Block → Block) (b : Block) : Block :=
  match packetStatus b q h op with
  | some (st, detail) => finish b id st detail
  | none => if queueDying b q then finish b id stAborted 0 else own id b

/-- A held command that has its CQ entry: its context may have become LOST since its fetch, else what its checks at fetch gave
stands (R230, R242, R255). -/
def runHeld (q : QRef) (h : Hdr) (op : BitVec 8) (fail : Option (BitVec 16 × BitVec 32)) (id : Nat) (own : Nat → Block → Block)
    (b : Block) : Block :=
  match (if op = 0x71 then none else lostCtx b q h), fail with
  | some c, _ => finish b id stContextLost (lostDetail c)
  | none, some (st, detail) => finish b id st detail
  | none, none => if queueDying b q then finish b id stAborted 0 else own id b

/-- One more entry of a CQ reserved (R230). -/
def reserveCq (b : Block) (q : QRef) (i : Nat) : Block :=
  match cqOf b q i with
  | some c => setCq b q i { c with reserved := c.reserved + 1 }
  | none => b

/-- Whether a CQ has a free entry. -/
def cqHasRoom (b : Block) (q : QRef) (i : Nat) : Bool :=
  match cqOf b q i with
  | some c => decide (0 < cqFree c)
  | none => false

/-- A fetched command added to the list; `st` is where it stands. -/
def addCmd (b : Block) (i : Instr) (q : QRef) (h : Hdr) (op : BitVec 8) (st : CmdStage) : Block :=
  modDealer b (fun d => { d with
    cmds := d.cmds ++ [{
      id := d.nextCmd, q := q, cq := (recordCq b q h).1, cid := h.cid, tag := h.tag, opcode := op, ordered := bit h.flags.toNat 0
      noIrq := bit h.flags.toNat 1, suppressed := false, refs := [], packet := i, fetchedAt := now b, resolvedAt := now b, after := none
      stage := st }]
    nextCmd := d.nextCmd + 1 })

/-- A packet is fetched: the entry passes, a CQ entry is reserved or the command held (R230), the checks of R242 run, and
then the command's own work `own`. A packet the front end would not fetch now changes nothing (log entry 3). -/
def fetchPacket (i : Instr) (q : QRef) (h : Hdr) (op : BitVec 8) (own : Nat → Block → Block) (b : Block) : Block :=
  if canFetch b q then
    let b1 := takeEntry b q
    let cq := (recordCq b1 q h).1
    let id := b1.dealer.nextCmd
    if cqHasRoom b1 q cq then
      runChecked q h op id own (addCmd (reserveCq b1 q cq) i q h op (.done stOk 0))
    else addCmd b1 i q h op (.held (packetStatus b1 q h op))
  else b

/-! ## Completion records (R231, R237) -/

/-- The 32 bytes of a completion record. -/
def recordBytes (c : Cmd) (st : BitVec 16) (detail : BitVec 32) (stamp : Stamp) (phase : Bool) (sqHead : Nat) : List Byte :=
  leBytes 2 c.cid.toNat ++ leBytes 2 st.toNat ++ leBytes 4 detail.toNat ++
  leBytes 8 (stamp.toNat + (if phase then 2 ^ 63 else 0)) ++ leBytes 2 c.tag.toNat ++
  leBytes 1 (if c.q.tag = 0 then 0xFF else c.q.idx.toNat) ++ zeros 1 ++ leBytes 2 sqHead ++ zeros 10

/-- A CQ whose tail has moved past a record: its reservation ends, and its phase inverts at the wrap. -/
def cqPush (c : Cq) : Cq :=
  let t := (c.tail + 1) % 2 ^ c.log2
  { c with tail := t, phase := if t = 0 then !c.phase else c.phase, reserved := c.reserved - 1 }

/-- The CQ's vector sent when it is armed, and its flag cleared (R237). -/
def cqInterrupt (b : Block) (q : QRef) (i : Nat) (c : Cq) : Block :=
  if c.armed then msix (setCq b q i { c with armed := false }) q.fn c.vector else setCq b q i c

/-- A record as it is written to an entry of its CQ. -/
def recordAt (b : Block) (c : Cmd) (cq : Cq) (st : BitVec 16) (detail : BitVec 32) : List Byte :=
  recordBytes c st detail (now b) cq.phase (match sqOf b c.q with
    | some s => s.head
    | none => 0)

/-- Where the next record of a CQ goes. -/
def recordKey (fn : Nat) (cq : Cq) : Nat := hostAt fn (cq.base.toNat + 32 * cq.tail)

/-- A record written to its CQ. -/
def writeRecord (b : Block) (c : Cmd) (st : BitVec 16) (detail : BitVec 32) : Block :=
  match cqOf b c.q c.cq with
  | none => b
  | some cq =>
    let b1 := hostWrite b (recordKey c.q.fn cq) (recordAt b c cq st detail)
    if c.noIrq then setCq b1 c.q c.cq (cqPush cq) else cqInterrupt b1 c.q c.cq (cqPush cq)

/-- A command leaves the list. -/
def dropCmd (b : Block) (id : Nat) : Block :=
  modDealer b (fun d => { d with cmds := d.cmds.filter (fun c => c.id != id) })

/-- The tick of the function's next completion record. -/
def recordTick (b : Block) (fn : Nat) : Nat := slotTick b.tb fn (fnAt b fn).lastRecord

/-- The tick of a command's record: a command of the mover is recorded after the slot in which its last tile moved (R329). -/
def cmdRecordTick (b : Block) (fn : Nat) (c : Cmd) : Nat :=
  if c.after = some (now b) then slotTick { b.tb with tick := b.tb.tick + 1 } fn (fnAt b fn).lastRecord else recordTick b fn

/-! ## Doorbells (R233 to R237) -/

/-- A dropped doorbell: the first capture is kept, and each one sets the cause (R234). -/
def doorbellError (b : Block) (fn reg reason : Nat) (value : BitVec 64) : Block :=
  let v := if reason = 4 then 0 else value.toNat % 2 ^ 48
  let b1 := if (fnAt b fn).dbError.getLsbD 63 then b
    else modFn b fn (fun x => { x with dbError := BitVec.ofNat 64 (2 ^ 63 + reg * 2 ^ 60 + reason * 2 ^ 56 + v) })
  setCause b1 fn cDoorbell

/-- Whether a function takes doorbells at all: not ABSENT (R468), in reset (R347) or HALTED (R424). -/
def takesDoorbells (b : Block) (fn : Nat) : Bool :=
  alive b && decide (fn < 64) &&
    match (fnAt b fn).state with
    | .absent => false
    | .resetting => false
    | .halted => false
    | _ => true

def dbTag (v : BitVec 64) : BitVec 16 := v.extractLsb' 32 16
def dbQueue (v : BitVec 64) : BitVec 3 := v.extractLsb' 24 3
def dbIndex (v : BitVec 64) : Nat := (v.extractLsb' 0 12).toNat

/-- Why a ring doorbell is dropped, if it is (R234): 1 tag, 2 queue, 3 index, 4 width or alignment. -/
def ringReason (b : Block) (fn width : Nat) (v : BitVec 64) (log2 : Option Nat) : Option Nat :=
  if width ≠ 64 then some 4
  else if dbTag v ≠ 0 ∧ liveCtx b fn (dbTag v).toNat = none then some 1
  else
    match log2 with
    | none => some 2
    | some n => if 2 ^ n ≤ dbIndex v then some 3 else none

end Sys2Proof.Machine
end

