-- ==== Sys2Proof/Machine/Mailbox.lean ====
section
/-!
DEFINITION. Mailboxes: which are present and which receivers run (R392, R393, R399), posts (R394), the message header (R395), and
how a receiver answers (R396).
-/

namespace Sys2Proof.Machine

open Sys2Proof

/-! ## Status codes (R395) -/

def mbOk : Nat := 0x0000
def mbUnknown : Nat := 0x0001
def mbInvalidField : Nat := 0x0002
def mbNotPermitted : Nat := 0x0003
def mbBadSignature : Nat := 0x0004
def mbOutOfOrder : Nat := 0x0005
def mbAlreadyAccepted : Nat := 0x0006
def mbStopped : Nat := 0x0007
def mbHostAccess : Nat := 0x0008

/-! ## The three mailboxes of a function -/

def mboxOf (x : Fn) : MboxSel → Mbox
  | .dl => x.dl
  | .gr => x.gr
  | .rcv => x.rcv

def mboxAt (b : Block) (fn : Nat) (m : MboxSel) : Mbox := mboxOf (fnAt b fn) m

def modMbox (b : Block) (fn : Nat) (m : MboxSel) (g : Mbox → Mbox) : Block :=
  modFn b fn (fun x =>
    match m with
    | .dl => { x with dl := g x.dl }
    | .gr => { x with gr := g x.gr }
    | .rcv => { x with rcv := g x.rcv })

/-- Whether a VF's secure mailbox is present (R369). -/
def grPresent (b : Block) (vf : Nat) : Bool :=
  match tabGet b.grotto.tdisp vf with
  | some t => t.state != .unlocked
  | none => false

/-- Whether a function has a mailbox whose registers respond (R392, R408, R468). -/
def mboxPresent (b : Block) (fn : Nat) : MboxSel → Bool
  | .dl => decide (fn < 64) && (fnAt b fn).state != .absent
  | .gr => decide (fn < 64) && (fnAt b fn).state != .absent && (fn == 0 || grPresent b fn)
  | .rcv => fn == 0

/-- STATUS.ready: whether a receiver runs (R399, R405); those of a halted block are stopped, though DL_MBOX's bit stands until
BLK_RESET_N (R397, R399). -/
def mboxReady (b : Block) : MboxSel → Bool
  | .dl => b.boot.dealerStarted
  | .gr => b.boot.grottoVersion.isSome && !b.recov.halted
  | .rcv => b.boot.released && !b.recov.halted

/-- A mailbox cause set: in one tick vector 0 is sent once for them (R398). -/
def mailCause (b : Block) (fn bitNo : Nat) : Block :=
  let x := fnAt b fn
  if x.intCause.getLsbD bitNo || !x.intMask.getLsbD bitNo then setCause b fn bitNo
  else if ticking b && x.mailAt == some (now b) then
    modFn b fn (fun y => { y with intCause := y.intCause ||| BitVec.ofNat 11 (2 ^ bitNo) })
  else setCause (modFn b fn (fun y => { y with mailAt := some (now b) })) fn bitNo

/-! ## MAILBOX_POST -/

/-- A 64-bit write to NOTICE (R394). -/
def mailboxPost (fn : Nat) (m : MboxSel) (v : BitVec 64) (b : Block) : Block :=
  if alive b && mboxPresent b fn m then
    if (mboxAt b fn m).full then mailCause (modMbox b fn m (fun x => { x with notice := v, collision := true })) fn cCollision
    else modMbox b fn m (fun x => { x with notice := v, full := true })
  else b

/-- MAILBOX_POST. -/
def execMailboxPost (fn : Nat) (mbox : MboxSel) (value : BitVec 64) (s : State) : Host.Outcome State Fault Refusal :=
  onBlock (mailboxPost fn mbox value) s

/-! ## Answers (R396) -/

/-- The cause that says a mailbox has become empty (R392). -/
def emptyCause : MboxSel → Nat
  | .dl => cMboxNs
  | .gr => cMboxS
  | .rcv => cMboxS

/-- Step 5: whatever notice is held is cleared. -/
def clearNotice (b : Block) (fn : Nat) (m : MboxSel) : Block :=
  mailCause (modMbox b fn m (fun x => { x with notice := 0, full := false, replyLost := none, taken := none })) fn (emptyCause m)

/-- A host-port error on the read of step 2 or a write of step 4: access_error, then step 5. -/
def accessFails (b : Block) (fn : Nat) (m : MboxSel) : Block :=
  clearNotice (modMbox b fn m (fun x => { x with accessError := true })) fn m

/-- The writes of step 4: the reply payload, reply_bytes, and status. -/
def replyWrites (t : Taken) (status : Nat) (payload : List Byte) : List (Nat × List Byte) :=
  [(t.buffer + 16, payload), (t.buffer + 12, leBytes 4 payload.length), (t.buffer + 4, leBytes 2 status)]

/-- Writes to host memory, in order. -/
def hostWrites (b : Block) (l : List (Nat × List Byte)) : Block := l.foldl (fun c w => hostWrite c w.1 w.2) b

/-- Steps 4 and 5. Where a write of step 4 meets an error, those before it stand and those after it are not made. -/
def mbReply (b : Block) (fn : Nat) (m : MboxSel) (status : Nat) (payload : List Byte) : Block :=
  match (mboxAt b fn m).taken with
  | none => b
  | some t =>
    let ws := replyWrites t status payload
    match (mboxAt b fn m).replyLost with
    | none => clearNotice (hostWrites b ws) fn m
    | some k => accessFails (((ws.drop k).take 1).foldl (fun c w => failWrite w.1 w.2 c) (hostWrites b (ws.take k))) fn m

/-- The request payload of a taken message. -/
def mbPayload (t : Taken) : List Byte := (t.message.drop 16).take t.requestBytes

/-! ## Taking a notice -/

/-- The notice of a mailbox with the bytes its receiver reads: steps 1 and 2 of R396. -/
def takenOf (b : Block) (fn : Nat) (notice : BitVec 64) : Taken :=
  let buffer := hostAt fn (bits notice.toNat 12 52 * 4096)
  let n := 64 * (bits notice.toNat 6 6 + 1)
  let msg := hostRead b buffer n
  { buffer := buffer, bytes := n, sender := bits notice.toNat 0 6, protocol := leAt msg 0 1, request := leAt msg 2 2
    requestBytes := leAt msg 8 4, message := msg }

/-- Protocols that match a mailbox (R399, R400, R405). -/
def protocols : MboxSel → List Nat
  | .dl => [4]
  | .gr => [1, 2]
  | .rcv => [3]

/-- Whether the header of a message is as R395 asks. -/
def headerOk (m : MboxSel) (t : Taken) : Bool :=
  (protocols m).contains t.protocol && leAt t.message 1 1 == 1 && leAt t.message 6 2 == 0 &&
  decide (t.requestBytes ≤ 4080) && decide (16 + t.requestBytes ≤ t.bytes) && (m != .gr || t.request == 0)

/-- Request codes a mailbox answers, those of vendor diagnostics apart (R399, R405). -/
def codeKnown (m : MboxSel) (t : Taken) : Bool :=
  match m with
  | .dl => t.request == 1 || t.request == 2
  | .gr => true
  | .rcv => decide (1 ≤ t.request) && decide (t.request ≤ 8)

/-- Whether a message of the non-secure mailbox asks for a vendor diagnostic (R399). -/
def vendorRequest (m : MboxSel) (t : Taken) : Bool := m == .dl && decide (0xF000 ≤ t.request)

/-- A notice that a receiver takes. -/
def takes (b : Block) (fn : Nat) (m : MboxSel) : Bool :=
  alive b && mboxPresent b fn m && mboxReady b m && (mboxAt b fn m).full && (mboxAt b fn m).taken == none

/-- The session identity that a secured message begins with: its low half, which the requester chose (R400; log entry 124). -/
def sessionOf (t : Taken) : BitVec 16 := BitVec.ofNat 16 (leAt t.message 16 2)

/-- The session of a mailbox that a secured message is of. -/
def itsSession (b : Block) (fn : Nat) (t : Taken) : Option Session :=
  if t.protocol = 2 then (tabGet b.grotto.sessions fn).filter (fun s => s.id == sessionOf t) else none

/-- What the Grotto answers by itself to a message of the form it reads: `known` says that the message holds a request of R368. -/
def grAnswer (b : Block) (fn : Nat) (t : Taken) (known : Bool) : Option GrottoReply :=
  if t.protocol = 2 ∧ (itsSession b fn t).isNone then some .unexpectedRequest
  else if known then none
  else some .unsupportedRequest

/-- A response of the Grotto, held decoded, its bytes in the message's buffer. -/
def grReply (b : Block) (fn : Nat) (r : GrottoReply) : Block :=
  match (mboxAt b fn .gr).taken with
  | none => b
  | some t =>
    mbReply { b with grotto := { b.grotto with reply := some r } } fn .gr mbOk
      ((Config.replyBytes ((itsSession b fn t).map (fun s => s.secret)) r).take 4080)

/-- The answer to a vendor diagnostic on PF0, whose status and payload the spec leaves out: they are free values (R399; log entry
24). -/
def vendorAnswer (b : Block) (fn : Nat) : Block :=
  let n := (Config.freeValue (b.freeCtr + 1)).toNat % 4081
  mbReply { b with freeCtr := b.freeCtr + 2 + n } fn .dl ((Config.freeValue b.freeCtr).setWidth 16).toNat (unknownBytes (b.freeCtr + 2) n)

/-- The answer to a code of protocol 3 that the table of R405 does not name: after bring-up it is out of order like every other
(R409). -/
def unknownCode (b : Block) (m : MboxSel) : Nat := if m = .rcv ∧ b.boot.stage = 8 then mbOutOfOrder else mbUnknown

/-- Steps 1 to 3 of R396, as far as the header alone decides; a good request waits for the row that acts on it. -/
def mailboxTake (fn : Nat) (m : MboxSel) (known : Bool) (b : Block) : Block :=
  if takes b fn m then
    let t := takenOf b fn (mboxAt b fn m).notice
    let b1 := modMbox (hostAsk t.buffer t.bytes b) fn m (fun x => { x with taken := some t })
    if !headerOk m t then mbReply b1 fn m mbInvalidField []
    else if m = .rcv ∧ b.boot.stage = 0xF then mbReply b1 fn m mbStopped []
    else if vendorRequest m t then (if fn = 0 then vendorAnswer b1 fn else mbReply b1 fn m mbNotPermitted [])
    else if !codeKnown m t then mbReply b1 fn m (unknownCode b m) []
    else if m = .gr then
      match grAnswer b1 fn t known with
      | some r => grReply b1 fn r
      | none => b1
    else b1
  else b

/-- MAILBOX_TAKE. -/
def execMailboxTake (fn : Nat) (mbox : MboxSel) (known : Bool) (s : State) : Host.Outcome State Fault Refusal :=
  onBlock (mailboxTake fn mbox known) s

/-! ## Requests of the Dealer (R399) -/

/-- The taken request of a code in a function's non-secure mailbox. -/
def dlTaken (b : Block) (fn code : Nat) : Option Taken :=
  match (mboxAt b fn .dl).taken with
  | some t => if alive b && t.request == code then some t else none
  | none => none

/-- ECHO: the same bytes. -/
def echo (fn : Nat) (b : Block) : Block :=
  match dlTaken b fn 1 with
  | some t => mbReply b fn .dl mbOk (mbPayload t)
  | none => b

/-- ECHO. -/
def execEcho (fn : Nat) (s : State) : Host.Outcome State Fault Refusal := onBlock (echo fn) s

/-- The reply of VERSIONS. -/
def versionBytes (b : Block) : List Byte :=
  leBytes 4 (b.boot.grottoVersion.getD 0).toNat ++ leBytes 4 (b.boot.dealerVersion.getD 0).toNat ++ leBytes 2 0x0104 ++
  leBytes 2 0x0102

/-- VERSIONS: it has no request payload. -/
def versions (fn : Nat) (b : Block) : Block :=
  match dlTaken b fn 2 with
  | some t => if t.requestBytes = 0 then mbReply b fn .dl mbOk (versionBytes b) else mbReply b fn .dl mbInvalidField []
  | none => b

/-- VERSIONS. -/
def execVersions (fn : Nat) (s : State) : Host.Outcome State Fault Refusal := onBlock (versions fn) s

end Sys2Proof.Machine
end

