-- ==== Sys2Proof/Machine/Fences.lean ====
section
/-!
DEFINITION. Fences (R268 to R272): signals, waits and the fence doorbell.
-/

namespace Sys2Proof.Machine

open Sys2Proof

/-- The largest fence value, at which a record is saturated (R268). -/
def fenceMax : Nat := 2 ^ 63 - 1

/-- The value of a fence record, bit 63 apart (R268). -/
def fenceValue (b : Block) (a : Nat) : Nat := hostLE b a 8 % 2 ^ 63

/-- The address of a context's fence record, in its function's own DMA space (R268, R269). -/
def fenceAddr (c : Ctx) (i : Nat) : Nat := hostAt c.fn (c.fencePage.toNat + 8 * i)

/-- What a signal of n makes of a record, and whether it is refused (R270). -/
def signalWord (old n : Nat) : Nat × Bool :=
  let v := old % 2 ^ 63
  if v = fenceMax ∨ n < v then (2 ^ 63 + v, true) else (old / 2 ^ 63 * 2 ^ 63 + n, false)

/-- Every FENCE_WAIT of a function on a record evaluated: those the value satisfies end (R248, R271, R272). Those of a FROZEN function
stay pending (R356). -/
def evalWaits (b : Block) (fn a : Nat) : Block :=
  let v := fenceValue b a
  if (fnAt b fn).state = .frozen then b
  else modDealer b (fun d => { d with cmds := d.cmds.map (fun c =>
                                match c.stage with
                                | .fenceWait a' w => if c.q.fn = fn ∧ a' = a ∧ w ≤ v then { c with stage := .done stOk (BitVec.ofNat 32 v) } else c
                                | _ => c) })

/-- A signal applied to a record; the function's waits on it are evaluated (R270, R272). -/
def signalAt (b : Block) (fn a n : Nat) : Block × Bool :=
  let r := signalWord (hostLE b a 8) n
  (evalWaits (hostSwap b a (hostLE b a 8) r.1) fn a, r.2)

/-- A fence parameter is in range: record below the context's count, value below 2^63 (R246). -/
def fenceParams (c : Ctx) (fence : BitVec 16) (value : BitVec 64) : Bool :=
  decide (fence.toNat < c.fenceCount) && decide (value.toNat < 2 ^ 63)

/-- FENCE_SIGNAL (R270). -/
def doFenceSignal (q : QRef) (fence : BitVec 16) (value : BitVec 64) (id : Nat) (b : Block) : Block :=
  match ctxAt b q.tag.toNat with
  | none => finish b id stInvalidField 0
  | some c =>
    if fenceParams c fence value then
      let r := signalAt b q.fn (fenceAddr c fence.toNat) value.toNat
      finish r.1 id (if r.2 then stFenceRegress else stOk) 0
    else finish b id stInvalidField 0

/-- FENCE_SIGNAL. -/
def execFenceSignal (q : QRef) (h : Hdr) (fence : BitVec 16) (value : BitVec 64) (s : State) :
    Host.Outcome State Fault Refusal :=
  onBlock (fetchPacket (.fenceSignal q h fence value) q h 0x40 (doFenceSignal q fence value)) s

/-- FENCE_WAIT (R248): it waits for its record, which is evaluated at once. -/
def doFenceWait (q : QRef) (fence : BitVec 16) (value : BitVec 64) (id : Nat) (b : Block) : Block :=
  match ctxAt b q.tag.toNat with
  | none => finish b id stInvalidField 0
  | some c =>
    if fenceParams c fence value then
      let a := fenceAddr c fence.toNat
      evalWaits (hostAsk a 8 (setCmd b id (.fenceWait a value.toNat))) q.fn a
    else finish b id stInvalidField 0

/-- FENCE_WAIT. -/
def execFenceWait (q : QRef) (h : Hdr) (fence : BitVec 16) (value : BitVec 64) (s : State) :
    Host.Outcome State Fault Refusal :=
  onBlock (fetchPacket (.fenceWait q h fence value) q h 0x41 (doFenceWait q fence value)) s

/-- FE_DB_FENCE (R234, R236): the record is read and the function's waits on it evaluated; the fence page of a LOST context
is not read (R255). -/
def fenceDoorbell (fn width : Nat) (v : BitVec 64) (b : Block) : Block :=
  if takesDoorbells b fn then
    if width ≠ 64 then doorbellError b fn 2 4 v
    else
      match liveCtx b fn (dbTag v).toNat with
      | none => doorbellError b fn 2 1 v
      | some c =>
        let i := (v.extractLsb' 0 16).toNat
        if c.fenceCount ≤ i then doorbellError b fn 2 3 v
        else if c.state = .lost then b
        else evalWaits (hostAsk (fenceAddr c i) 8 b) fn (fenceAddr c i)
  else b

/-- FENCE_DOORBELL: a write to FE_DB_FENCE. `width` is 64 for an aligned 64-bit write (log entry 33). -/
def execFenceDoorbell (fn width : Nat) (value : BitVec 64) (s : State) : Host.Outcome State Fault Refusal :=
  onBlock (fenceDoorbell fn width value) s

end Sys2Proof.Machine
end

