-- ==== Sys2Proof/Machine/Space.lean ====
section
/-!
DEFINITION. The partition intermediate address space: carve-outs (R340), system areas (R339), what is taken of them, the
allocation of memory objects (R262, R308), and the room of the stage-1 table area (R262, R277).
-/

namespace Sys2Proof.Machine

open Sys2Proof

/-! ## Carve-outs -/

def tierHost : Nat := 0
def tierFar : Nat := 1
def tierStack : Nat := 2
def tierGallery : Nat := 3

/-- First IPA of a tier's carve-out (R340). -/
def carveBase (tier : Nat) : Nat :=
  if tier = tierStack then 0 else if tier = tierGallery then 0x080000000000 else 0x040000000000

/-- Bytes of a tier's carve-out on each die or channel. -/
def carvePiece (d : PartDesc) (tier : Nat) : Nat :=
  if tier = tierStack then d.stackGib * gib else if tier = tierGallery then d.galleryMib * mib else d.farGib * gib

/-- Dies or channels of a tier's carve-out. A Gallery in cache mode holds no address of the partition (R318, R340). -/
def carvePieces (d : PartDesc) (tier : Nat) : Nat :=
  if tier = tierStack then d.stackDies
  else if tier = tierGallery then (if d.galleryCache then 0 else d.galleryDies)
  else if tier = tierFar then d.farChannels
  else 0

/-- Bytes of a tier's carve-out. -/
def carveSize (d : PartDesc) (tier : Nat) : Nat := carvePieces d tier * carvePiece d tier

/-- The tier whose carve-out holds a range wholly, if one does. -/
def tierOf (d : PartDesc) (ipa len : Nat) : Option Nat :=
  [tierFar, tierStack, tierGallery].find? (fun t =>
    decide (carveBase t ≤ ipa) && decide (ipa + len ≤ carveBase t + carveSize d t))

/-- The IPA range of a system area (R339). -/
def areaRange (a : Area) : IpaRange := ⟨carveBase a.tier + a.offsetTiles * 4096, a.tiles * 4096⟩

/-- A system area of a partition by its number: 0 deal, 1 descriptors, 2 stage-1 tables, 3 plan store, 4 staging. -/
def areaOf (d : PartDesc) (i : Nat) : Area := d.areas.getD i ⟨0, 0, 0⟩

def meets (r : IpaRange) (ipa len : Nat) : Bool := overlap r.ipa r.len ipa len

/-! ## What is taken -/

/-- The spill areas of a partition's contexts (R253). -/
def spillRanges (b : Block) (vf : Nat) : List IpaRange :=
  (b.ctxs.filter (fun e => e.2.fn == vf && e.2.spillTiles != 0)).map (fun e => ⟨e.2.spill.toNat, e.2.spillTiles * 4096⟩)

/-- The ranges of a partition's objects in its carve-outs. -/
def objectRanges (p : Part) : List IpaRange :=
  p.objects.flatMap (fun e => if e.2.tier = tierHost then [] else e.2.extents.map (fun x => ⟨x.ipa, x.len⟩))

/-- Every range of a partition's carve-outs that a new object may not take: objects, system areas, spill areas, and bytes
not yet zeroed (R262, R266, R339, R381). -/
def takenRanges (b : Block) (vf : Nat) (p : Part) : List IpaRange :=
  objectRanges p ++ p.desc.areas.map areaRange ++ spillRanges b vf ++ p.zeroing

/-- Whether a range lies free in one tier of the partition's carve-outs. -/
def rangeFree (taken : List IpaRange) (ipa len : Nat) : Bool := !(taken.any (fun r => meets r ipa len))

/-- Bytes of a list of ranges that lie in a tier's carve-out. -/
def bytesIn (d : PartDesc) (tier : Nat) (l : List IpaRange) : Nat :=
  sum ((l.filter (fun r => tierOf d r.ipa r.len == some tier)).map (fun r => r.len))

/-- Ranges awaiting zeroing that are not plan-store space, which the plan store's area holds already. -/
def looseZeroing (p : Part) : List IpaRange :=
  p.zeroing.filter (fun r => !(p.desc.areas.any (fun a => meets (areaRange a) r.ipa r.len)))

/-- Bytes of a tier a new object could take (R274). -/
def freeBytes (b : Block) (vf : Nat) (p : Part) (tier : Nat) : Nat :=
  if tier = tierHost then 0
  else carveSize p.desc tier -
    bytesIn p.desc tier (objectRanges p ++ p.desc.areas.map areaRange ++ spillRanges b vf ++ looseZeroing p)

/-! ## Allocation (R308) -/

def alignUp (a n : Nat) : Nat := ceilDiv a n * n

/-- The lowest free aligned range of a size within an interval: it starts at the interval's start or just after a taken
range. -/
def allocIn (taken : List IpaRange) (lo hi size align : Nat) : Option Nat :=
  let cands := alignUp lo align :: (taken.map (fun r => alignUp (r.ipa + r.len) align)).filter (fun a => decide (lo ≤ a))
  let good := cands.filter (fun a => decide (a + size ≤ hi) && rangeFree taken a size)
  good.foldl (fun best a => match best with
    | none => some a
    | some x => some (min x a)) none

/-- The parts of a stack or Gallery object, one on each die of the carve-out in order. -/
def allocParts (taken : List IpaRange) (lo piece page q bytes : Nat) : Nat → Nat → Option (List Extent)
  | 0, _ => some []
  | n + 1, j =>
    let size := min ((j + 1) * q) bytes - j * q
    if size = 0 then some []
    else
      match allocIn taken (lo + j * piece) (lo + (j + 1) * piece) size page with
      | none => none
      | some a => (allocParts taken lo piece page q bytes n (j + 1)).map (fun l => ⟨j * q, a, size⟩ :: l)

/-- The pages of a far object, each on the next channel of the carve-out in turn. -/
def allocPages (lo piece page chans : Nat) : Nat → Nat → List IpaRange → Option (List Extent)
  | 0, _, _ => some []
  | n + 1, i, taken =>
    let c := i % chans
    match allocIn taken (lo + c * piece) (lo + (c + 1) * piece) page page with
    | none => none
    | some a => (allocPages lo piece page chans n (i + 1) (⟨a, page⟩ :: taken)).map (fun l => ⟨i * page, a, page⟩ :: l)

/-- The extents of a new object of a tier, if the carve-out has room (R262, R308, R318). -/
def allocObject (b : Block) (vf : Nat) (p : Part) (tier page bytes : Nat) : Option (List Extent) :=
  let n := carvePieces p.desc tier
  let piece := carvePiece p.desc tier
  let taken := takenRanges b vf p
  if n = 0 then none
  else if tier = tierFar then allocPages (carveBase tier) piece page n (bytes / page) 0 taken
  else allocParts taken (carveBase tier) piece page (page * ceilDiv bytes (n * page)) bytes n 0

/-- The IPA of a byte of an object. -/
def extentIpa (l : List Extent) (off : Nat) : Option Nat :=
  (l.find? (fun e => decide (e.off ≤ off) && decide (off < e.off + e.len))).map (fun e => e.ipa + (off - e.off))

/-! ## Stage-1 tables (R277) -/

/-- How many numbers a list of closed intervals, ordered by their starts, covers. -/
def unionCount : List (Nat × Nat) → Nat → Nat
  | [], _ => 0
  | (a, z) :: t, next => (z + 1 - max a next) + unionCount t (max next (z + 1))

/-- The tables of one level that mappings need: distinct values of the VA bits from `shift` up. -/
def tablesAt (shift : Nat) (l : List Mapping) : Nat :=
  unionCount (sortBy (fun e => e.1) (l.map (fun m => (m.va / 2 ^ shift, (m.va + m.bytes - 1) / 2 ^ shift)))) 0

/-- Tables of 4 KiB a context's tree takes, its root included. -/
def ctxTables (l : List Mapping) : Nat :=
  1 + tablesAt 39 l + tablesAt 30 (l.filter (fun m => m.pageLog < 30)) + tablesAt 21 (l.filter (fun m => m.pageLog < 21))

/-- Whether the partition's stage-1 table area holds the trees of its contexts with one context's mappings changed (R339;
log entry 37). -/
def tablesFit (b : Block) (vf tag : Nat) (p : Part) (new : List Mapping) : Bool :=
  let all := (b.ctxs.filter (fun e => e.2.fn == vf)).map (fun e => ctxTables (if e.1 = tag then new else e.2.mappings))
  decide (sum all ≤ (areaOf p.desc 2).tiles)

/-- The VA bits above those that index the tables of a level (R277). -/
def treeShift (level : Nat) : Nat := 21 + 9 * level

/-- The tables of a level that mappings need, each by the VA bits above those it is indexed by. -/
def treeLevel (level : Nat) (l : List Mapping) : List (Nat × Nat) :=
  let n := 2 ^ treeShift level
  ((l.flatMap (fun m => rangeFrom (m.va / n) ((m.va + m.bytes - 1) / n - m.va / n + 1))).eraseDups).map (fun i => (level, i))

/-- The tables of a tree: the root, and those above the leaves of its mappings. -/
def treeNodes (l : List Mapping) : List (Nat × Nat) :=
  (3, 0) :: (treeLevel 2 l ++ treeLevel 1 (l.filter (fun m => m.pageLog < 30)) ++ treeLevel 0 (l.filter (fun m => m.pageLog < 21)))

/-- A context's tables for its mappings: those it has stay where they are, others take the lowest free tiles of the stage-1 table
area (log entry 87). -/
def placeTables (b : Block) (vf : Nat) (p : Part) (tag : Nat) (old : List TableNode) (new : List Mapping) : List TableNode :=
  let need := treeNodes new
  let kept := old.filter (fun t => need.contains (t.level, t.index))
  let more := need.filter (fun k => !(kept.any (fun t => t.level == k.1 && t.index == k.2)))
  let others := (b.ctxs.filter (fun e => e.2.fn == vf && e.1 != tag)).flatMap (fun e => e.2.tables)
  let used := (kept ++ others).map (fun t => t.ipa)
  let area := areaRange (areaOf p.desc 2)
  let free := ((List.range (used.length + more.length)).map (fun i => area.ipa + 4096 * i)).filter
    (fun a => decide (a < area.ipa + area.len) && !used.contains a)
  kept ++ (more.zip free).map (fun e => ⟨e.1.1, e.1.2, e.2⟩)

/-- A context's mappings changed, and its tables with them. -/
def setMappings (b : Block) (tag : Nat) (g : List Mapping → List Mapping) : Block :=
  match ctxAt b tag with
  | none => b
  | some c =>
    let new := g c.mappings
    let tables := match partAt b c.fn with
      | some p => placeTables b c.fn p tag c.tables new
      | none => c.tables
    setCtx b tag { c with mappings := new, tables := tables }

end Sys2Proof.Machine
end

