-- ==== Sys2Proof/Machine/Translate.lean ====
section
/-!
DEFINITION. Two-stage translation (R276 to R283): stage-2 range entries, stage-1 mappings, leaf runs (R280), and what an
outstanding invalidation holds back (R296, R297).
-/

namespace Sys2Proof.Machine

open Sys2Proof

/-! ## Stage 2 (R282, R283) -/

def s2Valid (e : RangeEntry) : Bool := e.w0.getLsbD 63
def s2Writable (e : RangeEntry) : Bool := e.w0.getLsbD 62
def s2Host (e : RangeEntry) : Bool := e.w0.getLsbD 61
def s2Repeats (e : RangeEntry) : Nat := bits e.w0.toNat 56 4 + 1
def s2Base (e : RangeEntry) : Nat := bits e.w0.toNat 20 28 * mib
def s2Length (e : RangeEntry) : Nat := bits e.w0.toNat 0 20 * mib
def s2Out (e : RangeEntry) : Nat := e.w1.toNat / mib * mib
def s2Stride (e : RangeEntry) : Nat := bits e.w1.toNat 0 20 * mib

def s2None : RangeEntry := ⟨0, 0⟩

def s2Entry (p : Part) (i : Nat) : RangeEntry := tabGetD p.stage2 i s2None

/-- Bytes an entry's repeats cover. -/
def s2Span (e : RangeEntry) : Nat := s2Repeats e * s2Length e

/-- What stage 2 makes of an IPA: output, host-bound, writable, and the bounds of the repeat it lies in. -/
structure S2Hit where
  out : Nat
  host : Bool
  writable : Bool
  lo : Nat
  hi : Nat
  deriving DecidableEq, Repr

/-- One entry at an IPA (R283). -/
def s2At (e : RangeEntry) (ipa : Nat) : Option S2Hit :=
  if s2Valid e && decide (s2Base e ≤ ipa) && decide (ipa < s2Base e + s2Span e) then
    let i := (ipa - s2Base e) / s2Length e
    let lo := s2Base e + i * s2Length e
    some ⟨s2Out e + i * s2Stride e + (ipa - lo), s2Host e, s2Writable e, lo, lo + s2Length e⟩
  else none

/-- Stage 2 of a partition; an output in no populated region is a miss (R305). -/
def stage2 (b : Block) (p : Part) (ipa : Nat) : Option S2Hit :=
  match (List.range 16).findSome? (fun i => s2At (s2Entry p i) ipa) with
  | none => none
  | some h => if h.host || (regionOf b h.out).isSome then some h else none

/-! ## Stage 1 (R277 to R280) -/

def pageBytes (pageLog : Nat) : Nat := 2 ^ pageLog

/-- The mapping of a context that holds a VA. -/
def mappingAt (l : List Mapping) (va : Nat) : Option Mapping :=
  l.find? (fun m => decide (m.va ≤ va) && decide (va < m.va + m.bytes))

/-- A VA resolved: stage-1 mapping, object, IPA and stage-2 hit. -/
structure Xlated where
  vf : Nat
  map : Mapping
  object : Obj
  ipa : Nat
  hit : S2Hit
  deriving DecidableEq, Repr

/-- What a resolution finds (R293, R265); the reasons are R302's, with the IPA reached where there is one. -/
inductive XlResult where
  | ok (x : Xlated)
  | fail (reason : Nat) (ipa : Option Nat)
  | gone
  deriving DecidableEq, Repr

/-- Whether an object that is not LIVE refuses a command: it was fetched after the MEM_FREE (R265). -/
def objGone (o : Obj) (cmd : Nat) : Bool :=
  match o.state with
  | .live => false
  | .dying free => decide (free < cmd)
  | _ => true

/-! ## Leaf runs (R280, R291) -/

/-- The output IPA of the leaf at a VA of a mapping. -/
def leafIpa (o : Obj) (m : Mapping) (va : Nat) : Option Nat := extentIpa o.extents (m.objectOffset + (va - m.va))

/-- Whether n leaves from an aligned VA are one run: within the mapping, their output IPAs consecutive from a multiple of
n pages. -/
def runHolds (o : Obj) (m : Mapping) (va page n : Nat) : Bool :=
  decide (m.va ≤ va) && decide (va + n * page ≤ m.va + m.bytes) &&
    match leafIpa o m va with
    | none => false
    | some a => decide (a % (n * page) = 0) &&
        (List.range n).all (fun k => leafIpa o m (va + k * page) == some (a + k * page))

/-- The contiguity count of the leaf at a VA (R280). -/
def contigCount (o : Obj) (m : Mapping) (va : Nat) : Nat :=
  let page := pageBytes m.pageLog
  if m.contig then ([16, 8, 4, 2].find? (fun n => runHolds o m (va / (n * page) * (n * page)) page n)).getD 1 else 1

/-! ## The walk of the tables (R277, R278) -/

/-- The first VA bit that indexes the tables of a level. -/
def levelShift (level : Nat) : Nat := 12 + 9 * level

/-- The index of a VA in a table of a level. -/
def levelIndex (level va : Nat) : Nat := va / 2 ^ levelShift level % 512

/-- The table of a level that a walk of a VA reads. -/
def tableAt (c : Ctx) (level va : Nat) : Option TableNode :=
  c.tables.find? (fun t => t.level == level && t.index == va / 2 ^ treeShift level)

/-- A leaf: object, output IPA, contiguity count, writable (R278, R280). -/
def leafWord (m : Mapping) (o : Obj) (va ipa : Nat) : BitVec 64 :=
  BitVec.ofNat 64 (m.object % 2 ^ 16 * 2 ^ 48 + ipa % 2 ^ 48 / 4096 * 4096 + (contigCount o m va - 1) * 2 ^ 8 +
    (if m.writable then 4 else 0) + 2 + 1)

/-- The 64 bits of the entry a walk of a VA reads at a level: a leaf, the address of the next table, or nothing (R278). -/
def s1Entry (c : Ctx) (p : Part) (level va : Nat) : BitVec 64 :=
  match (mappingAt c.mappings va).filter (fun m => m.pageLog == levelShift level) with
  | some m =>
    match tabGet p.objects m.object with
    | none => 0
    | some o =>
      match leafIpa o m (va / pageBytes m.pageLog * pageBytes m.pageLog) with
      | some a => leafWord m o va a
      | none => 0
  | none =>
    if level = 0 then 0
    else
      match tableAt c (level - 1) va with
      | some t => BitVec.ofNat 64 (t.ipa % 2 ^ 48 / 4096 * 4096 + 1)
      | none => 0

def entryValid (w : BitVec 64) : Bool := w.getLsbD 0
def entryLeaf (w : BitVec 64) : Bool := w.getLsbD 1
def entryWritable (w : BitVec 64) : Bool := w.getLsbD 2
def entryIpa (w : BitVec 64) : Nat := bits w.toNat 12 36 * 4096
def entryObject (w : BitVec 64) : Nat := bits w.toNat 48 16

/-- A walk from a table of a level at an IPA down to its leaf; each entry is read through stage 2. -/
def walkTables (b : Block) (c : Ctx) (p : Part) (va : Nat) : Nat → Nat → Except (Nat × Option Nat) (BitVec 64)
  | level, table =>
    let at' := table + 8 * levelIndex level va
    match stage2 b p at' with
    | none => .error (3, some at')
    | some _ =>
      let w := s1Entry c p level va
      if !entryValid w then .error (1, none)
      else if entryLeaf w then .ok w
      else
        match level with
        | 0 => .error (1, none)
        | n + 1 => walkTables b c p va n (entryIpa w)

/-- The leaf of a VA, from the root whose IPA the context's descriptor records. -/
def walkLeaf (b : Block) (c : Ctx) (p : Part) (va : Nat) : Except (Nat × Option Nat) (BitVec 64) :=
  match tableAt c 3 va with
  | none => .error (1, none)
  | some t => walkTables b c p va 3 t.ipa

/-- Resolves a VA of a context for a command (R277 to R283). -/
def resolve (b : Block) (tag va : Nat) (write : Bool) (cmd : Nat) : XlResult :=
  match ctxAt b tag with
  | none => .fail 1 none
  | some c =>
    match partAt b c.fn, mappingAt c.mappings va with
    | some p, some m =>
      match walkLeaf b c p va with
      | .error e => .fail e.1 e.2
      | .ok w =>
        match tabGet p.objects (entryObject w) with
        | none => .fail 1 none
        | some o =>
          let ipa := entryIpa w + va % pageBytes m.pageLog
          if objGone o cmd then .gone
          else if write && !entryWritable w then .fail 2 (some ipa)
          else
            match stage2 b p ipa with
            | none => .fail 3 (some ipa)
            | some h => if write && !h.writable then .fail 2 (some ipa) else .ok ⟨c.fn, m, o, ipa, h⟩
    | _, _ => .fail 1 none

/-- The leaf run that holds a resolved VA: first VA, count and output of its first page. -/
def leafRun (x : Xlated) (va : Nat) : Nat × Nat × Nat :=
  let page := pageBytes x.map.pageLog
  let n := contigCount x.object x.map va
  let fits := fun m =>
    let first := va / (m * page) * (m * page)
    match leafIpa x.object x.map first with
    | none => false
    | some a => decide (x.hit.lo ≤ a) && decide (a + m * page ≤ x.hit.hi)
  let m := ([16, 8, 4, 2].find? (fun k => decide (k ≤ n) && fits k)).getD 1
  let first := va / (m * page) * (m * page)
  (first, m, x.hit.out - (va - first))

/-! ## Invalidations that hold a resolution back (R296, R297) -/

/-- Whether a resolved page lies in the scope of an invalidation. -/
def inScope (sc : Scope) (tag va len : Nat) (x : Xlated) : Bool :=
  match sc with
  | .va t lo hi => t.toNat == tag && overlap va len lo (hi - lo)
  | .vas l => l.any (fun e => e.1.toNat == tag && overlap va len e.2.1 (e.2.2 - e.2.1))
  | .ctx t => t.toNat == tag
  | .part vf => x.vf == vf
  | .ipa vf lo hi => x.vf == vf && overlap (x.ipa / 4096 * 4096) len lo (hi - lo)
  | .bus fn lo hi => x.vf == fn && x.hit.host && overlap (x.hit.out / 4096 * 4096) len lo (hi - lo)
  | .whole vf => x.vf == vf

/-- Whether a page that does not resolve lies in the scope of an invalidation, as far as its walk came (R281, R297). -/
def failInScope (b : Block) (sc : Scope) (tag va len : Nat) (ipa : Option Nat) : Bool :=
  let vf := ctxVf b tag
  match sc, ipa with
  | .va t lo hi, _ => t.toNat == tag && overlap va len lo (hi - lo)
  | .vas l, _ => l.any (fun e => e.1.toNat == tag && overlap va len e.2.1 (e.2.2 - e.2.1))
  | .ctx t, _ => t.toNat == tag
  | .part v, _ => v == vf
  | .whole v, _ => v == vf
  | .ipa v lo hi, some a => v == vf && overlap (a / 4096 * 4096) len lo (hi - lo)
  | .bus fn lo hi, some a =>
    fn == vf &&
      match (partAt b vf).bind (fun p => stage2 b p a) with
      | some h => h.host && overlap (h.out / 4096 * 4096) len lo (hi - lo)
      | none => false
  | _, none => false

/-- Whether some outstanding invalidation holds a page back: the page, or a walk that fails, reaches its scope (R281, R297). -/
def heldBack (b : Block) (tag va len : Nat) (r : XlResult) : Bool :=
  b.xlat.invals.any (fun v =>
    match r with
    | .ok x => inScope v.scope tag va len x
    | .fail _ ipa => failInScope b v.scope tag va len ipa
    | .gone => failInScope b v.scope tag va len none)

/-- Whether a host-bound output range of a partition comes from an IPA range, through some range entry. -/
def outFromIpa (p : Part) (out len lo hi : Nat) : Bool :=
  (List.range 16).any (fun i =>
    let e := s2Entry p i
    let a := max lo (s2Base e)
    let z := min hi (s2Base e + s2Span e)
    s2Valid e && s2Host e && decide (a < z) && overlap out len (s2Out e + (a - s2Base e)) (z - a))

/-- Whether a pin of a partition lies in the scope of an invalidation, stage 2 as it stands at the receipt. Only host-bound
entries are ever invalidated by IPA (R284, R296). -/
def pinInScope (b : Block) (sc : Scope) (vf : Nat) (r : PinReq) : Bool :=
  let len := r.count * pageBytes r.pageLog
  match sc with
  | .va t lo hi => t == r.tag && overlap r.va len lo (hi - lo)
  | .vas l => l.any (fun e => e.1 == r.tag && overlap r.va len e.2.1 (e.2.2 - e.2.1))
  | .ctx t => t == r.tag
  | .part v => v == vf
  | .whole v => v == vf
  | .bus fn lo hi => fn == vf && r.die == 16 && overlap r.out len lo (hi - lo)
  | .ipa v lo hi =>
    match partAt b vf with
    | some p => v == vf && r.die == 16 && outFromIpa p r.out len lo hi
    | none => false

end Sys2Proof.Machine
end

