-- ==== Sys2Proof/Machine/Inval.lean ====
section
/-!
DEFINITION. The abort of steps (R220, R258, R299) and the receipt of invalidations (R296, R297, R300).
-/

namespace Sys2Proof.Machine

open Sys2Proof

/-! ## Aborts -/

/-- Whether a trick of a step is loaded for the next round or runs in this one. -/
def stepOnUnit (b : Block) (id : Nat) : Bool :=
  b.dealer.loaded.any (fun u => u.step == id) || b.dealer.running.any (fun u => u.step == id)

/-- A step is aborted: one with a trick loaded or running ends when that trick has run, any other ends at once; a step whose
record is about to be written is past aborting (R258, R299). -/
def abortStep (b : Block) (id : Nat) : Block :=
  match stepById b id with
  | none => b
  | some s =>
    if s.stage = .finished then b
    else if stepInFlight s && stepOnUnit b id then modStep b id (fun x => { x with aborted := true })
    else endStep b s stAborted 0

/-- Aborted steps whose last loaded trick has run end with ST_ABORTED, their carried state discarded (R258). -/
def endAborted (b : Block) : Block :=
  (b.dealer.steps.filter (fun s => s.aborted && !s.lost && s.stage != .finished && !stepOnUnit b s.id)).foldl
    (fun c s => endStep c s stAborted 0) b

/-- Whether a deal seats a sequence of a context. -/
def dealSeats (d : Deal) (tag : Nat) : Bool := d.seats.any (fun s => s.valid && s.tag.toNat == tag)

/-- The steps a context's destruction aborts: its own, and those that seat one of its sequences (R220). -/
def stepTouches (tag : Nat) (s : Step) : Bool :=
  s.tag.toNat == tag ||
    match s.deal with
    | some d => dealSeats d tag
    | none => false

/-- STEPs set aside against a held deal that is lost (R206). -/
def dropSetAside (b : Block) (tag : Nat) : Block :=
  (b.dealer.steps.filter (fun s => s.tag.toNat == tag && s.stage == .setAside && (s.phase == 2 || s.phase == 3))).foldl
    (fun c s => endStep c s stNotPermitted 0) b

/-- The held deals that seat a sequence of a context are released (R220). -/
def abortHeld (b : Block) (tag : Nat) : Block :=
  (b.ctxs.filter (fun e => e.1 == tag ||
      match e.2.held with
      | some h => dealSeats h.deal tag
      | none => false)).foldl (fun c e => dropSetAside (releaseHeld c e.1) e.1) b

/-! ## Invalidations -/

/-- The places of a mover operation. -/
def opPlaces : MoverOp → List TilePlace
  | .copy s d => [s, d]
  | .put d _ _ => [d]
  | .read s => [s]
  | .stage s _ => [s]
  | .readStaged _ => []
  | .auth => []
  | .conv d _ _ _ => [d]

/-- Whether a tile a command holds translated lies in a scope. -/
def placeInScope (b : Block) (sc : Scope) (fn tag : Nat) (p : TilePlace) : Bool :=
  match sc with
  | .va t lo hi => t.toNat == tag && overlap p.va 4096 lo (hi - lo)
  | .vas l => l.any (fun e => e.1.toNat == tag && overlap p.va 4096 e.2.1 (e.2.2 - e.2.1))
  | .ctx t => t.toNat == tag
  | .part v => v == fn
  | .whole v => v == fn
  | .bus f lo hi => f == fn && p.host && overlap (busOf p.out) 4096 lo (hi - lo)
  | .ipa v lo hi =>
    match partAt b fn with
    | some q => v == fn && p.host && outFromIpa q (busOf p.out) 4096 lo hi
    | none => false

/-- The tiles a command of R295 holds translated; a PLAN_LOAD holds them until its copy ends (R169). -/
def heldPlaces (c : Cmd) : List TilePlace :=
  match c.stage with
  | .mover j => j.ops.flatMap opPlaces
  | .planLoad _ _ l _ _ _ => l
  | _ => []

/-- The touching commands of a scope: those resolved before the receipt tick (R297). -/
def touchingCmd (b : Block) (sc : Scope) (c : Cmd) : Bool :=
  decide (c.resolvedAt ≠ now b) && (heldPlaces c).any (fun p => placeInScope b sc c.q.fn c.q.tag.toNat p)

/-- Commands resolved in the receipt tick itself wait (R297, R300). -/
def withheldCmd (b : Block) (sc : Scope) (c : Cmd) : Bool :=
  decide (c.resolvedAt = now b) && (heldPlaces c).any (fun p => placeInScope b sc c.q.fn c.q.tag.toNat p)

/-- Whether a step holds pins in a scope. -/
def stepInScope (b : Block) (sc : Scope) (s : Step) : Bool := stepPinned s && s.pins.any (fun r => pinInScope b sc s.fn r)

/-- A pin install of the receipt tick is withheld: the step walks again (R300). -/
def withholdStep (b : Block) (s : Step) : Block :=
  modStep (releasePins b s) s.id (fun x =>
    { x with stage := .walking, pins := [], pinnedAt := none, admittedAt := if x.rewalk then x.admittedAt else none })

/-- An invalidation is received: its touching work is fixed, and with abort it is aborted at once (R296, R297, R299). -/
def startInval (b : Block) (src : InvSource) (sc : Scope) (abort : Bool) : Block :=
  let inst := b.dealer.steps.filter (fun s => stepInScope b sc s && s.pinnedAt == some (now b))
  let b1 := inst.foldl withholdStep b
  let b2 := modDealer b1 (fun d => { d with cmds := d.cmds.map (fun c =>
                                           if withheldCmd b1 sc c then { c with stage := .waiting } else c) })
  let hit := b2.dealer.steps.filter (fun s => stepInScope b2 sc s)
  let cmds := (b2.dealer.cmds.filter (fun c => touchingCmd b2 sc c)).map (fun c => c.id)
  let v : Inval := ⟨b2.xlat.nextInv, src, sc, now b2, abort, if abort then [] else hit.map (fun s => s.cmd) ++ cmds, roundCount b2.tb⟩
  let b3 := { b2 with xlat := { b2.xlat with invals := b2.xlat.invals ++ [v], nextInv := v.id + 1 } }
  if abort then
    let ends := fun (c : Cmd) => cmds.contains c.id
    finishAll (noteLoads ((hit.map (fun s => s.id)).foldl abortStep b3) ends) ends stAborted 0
  else b3

/-- A command, and with it its step, has retired in this round (R298). -/
def noteEnded (b : Block) (cmd : Nat) : Block :=
  let r := roundCount b.tb
  { b with xlat := { b.xlat with invals := b.xlat.invals.map (fun v =>
                                if v.cmds.contains cmd then { v with cmds := v.cmds.filter (fun i => i != cmd), m := max v.m r } else v) } }

/-- Whether an invalidation is due: its touching work has ended, and it stands in the last tick of the round after m; the
one of a CTX_DESTROY is due in the tick after its receipt (R298). -/
def invalDue (b : Block) (v : Inval) : Bool :=
  match v.source with
  | .ctxDestroy _ => true
  | _ => v.cmds.isEmpty && decide (v.m + 1 ≤ roundCount b.tb)

end Sys2Proof.Machine
end

