-- ==== Sys2Proof/Machine/Float.lean ====
section
/-!
DEFINITION. Exact arithmetic and its roundings: dyadic numbers, FP32 by IEEE 754 with round to nearest, ties to even
(R40, R41), BF16 (R52), and rounding a rational to an integer or to the E4M3 grid (R59).
-/

namespace Sys2Proof.Machine

open Sys2Proof

/-- An FP32 value by its 32 bits. -/
abbrev F32 := BitVec 32

/-- The canonical NaN (R40). -/
def f32NaN : F32 := 0x7FC00000

/-- An infinity of a sign. -/
def f32Inf (neg : Bool) : F32 := if neg then 0xFF800000 else 0x7F800000

/-- A zero of a sign. -/
def f32Zero (neg : Bool) : F32 := if neg then 0x80000000 else 0

/-- 1.0 -/
def f32One : F32 := 0x3F800000

def f32Neg (x : F32) : Bool := x.msb
def f32Abs (x : F32) : Nat := x.toNat % 2 ^ 31
def f32IsNaN (x : F32) : Bool := decide (0x7F800000 < f32Abs x)
def f32IsInf (x : F32) : Bool := f32Abs x == 0x7F800000
def f32IsFinite (x : F32) : Bool := decide (f32Abs x < 0x7F800000)
def f32IsZero (x : F32) : Bool := f32Abs x == 0

/-- A NaN result is canonical (R40). -/
def f32Canon (x : F32) : F32 := if f32IsNaN x then f32NaN else x

/-! ## Dyadic numbers -/

/-- The number m × 2^e. -/
structure Dy where
  m : Int
  e : Int
  deriving DecidableEq, Repr

def Dy.zero : Dy := ⟨0, 0⟩

def Dy.mul (a b : Dy) : Dy := ⟨a.m * b.m, a.e + b.e⟩

def Dy.add (a b : Dy) : Dy :=
  let e := min a.e b.e
  ⟨a.m * 2 ^ (a.e - e).toNat + b.m * 2 ^ (b.e - e).toNat, e⟩

def Dy.neg (a : Dy) : Dy := ⟨-a.m, a.e⟩

def Dy.sub (a b : Dy) : Dy := a.add b.neg

/-- A dyadic times a power of two. -/
def Dy.scale (a : Dy) (k : Int) : Dy := ⟨a.m, a.e + k⟩

/-- The largest integer not above a dyadic. -/
def Dy.floor (a : Dy) : Int := if 0 ≤ a.e then a.m * 2 ^ a.e.toNat else Int.fdiv a.m (2 ^ (-a.e).toNat)

/-- The value of a finite FP32. -/
def f32Dy (x : F32) : Dy :=
  let ex := f32Abs x / 2 ^ 23
  let fr := f32Abs x % 2 ^ 23
  let m : Nat := if ex = 0 then fr else 2 ^ 23 + fr
  ⟨if f32Neg x then -(m : Int) else m, (max ex 1 : Nat) - 150⟩

/-! ## Roundings -/

/-- The rational n / d rounded to the nearest integer, ties to even. -/
def rne (n d : Nat) : Nat :=
  let q := n / d
  let r := n % d
  if 2 * r < d then q else if d < 2 * r then q + 1 else if q % 2 = 0 then q else q + 1

/-- The largest k with 2^k ≤ n / d, for n and d above zero. -/
def log2Rat (n d : Nat) : Int :=
  let k : Int := (Nat.log2 n : Int) - Nat.log2 d
  if 0 ≤ k then (if d * 2 ^ k.toNat ≤ n then k else k - 1)
  else (if d ≤ n * 2 ^ (-k).toNat then k else k - 1)

/-- n / d in units of 2^q, rounded to nearest, ties to even. -/
def rneAt (n d : Nat) (q : Int) : Nat :=
  if 0 ≤ q then rne n (d * 2 ^ q.toNat) else rne (n * 2 ^ (-q).toNat) d

/-- The bits of n / d in a format of p fraction bits, least normal exponent emin, largest finite code top: rounded to
nearest, ties to even, a code above `top` answered as `beyond`. -/
def roundMag (p : Nat) (emin : Int) (top beyond : Nat) (n d : Nat) : Nat :=
  if n = 0 then 0
  else
    let k := max (log2Rat n d) emin
    let c := (k - emin).toNat * 2 ^ p + rneAt n d (k - p)
    if top < c then beyond else c

/-- A magnitude n / d of a sign rounded to FP32 (R41). -/
def f32OfRat (neg : Bool) (n d : Nat) : F32 :=
  BitVec.ofNat 32 ((if neg then 2 ^ 31 else 0) + roundMag 23 (-126) 0x7F7FFFFF 0x7F800000 n d)

/-- A dyadic rounded to FP32; `zneg` is the sign of an exact zero. -/
def f32OfDy (zneg : Bool) (a : Dy) : F32 :=
  if a.m = 0 then f32Zero zneg
  else if 0 ≤ a.e then f32OfRat (decide (a.m < 0)) (a.m.natAbs * 2 ^ a.e.toNat) 1
  else f32OfRat (decide (a.m < 0)) a.m.natAbs (2 ^ (-a.e).toNat)

/-! ## FP32 operations -/

/-- a × b + c with one rounding (R41, R47). -/
def f32Fma (a b c : F32) : F32 :=
  let sp := f32Neg a != f32Neg b
  if f32IsNaN a || f32IsNaN b || f32IsNaN c then f32NaN
  else if (f32IsInf a && f32IsZero b) || (f32IsZero a && f32IsInf b) then f32NaN
  else if f32IsInf a || f32IsInf b then
    if f32IsInf c && f32Neg c != sp then f32NaN else f32Inf sp
  else if f32IsInf c then c
  else f32OfDy (sp && f32Neg c) (((f32Dy a).mul (f32Dy b)).add (f32Dy c))

def f32Add (a b : F32) : F32 := f32Fma a f32One b

def f32Flip (a : F32) : F32 := a ^^^ 0x80000000

def f32Sub (a b : F32) : F32 := f32Fma a f32One (f32Flip b)

def f32Mul (a b : F32) : F32 :=
  let s := f32Neg a != f32Neg b
  if f32IsNaN a || f32IsNaN b then f32NaN
  else if (f32IsInf a && f32IsZero b) || (f32IsZero a && f32IsInf b) then f32NaN
  else if f32IsInf a || f32IsInf b then f32Inf s
  else f32OfDy s ((f32Dy a).mul (f32Dy b))

/-- The quotient of two magnitudes of dyadics as a rational. -/
def dyQuot (a b : Dy) : Nat × Nat :=
  let k := a.e - b.e
  (a.m.natAbs * 2 ^ k.toNat, b.m.natAbs * 2 ^ (-k).toNat)

def f32Div (a b : F32) : F32 :=
  let s := f32Neg a != f32Neg b
  if f32IsNaN a || f32IsNaN b then f32NaN
  else if f32IsInf a then (if f32IsInf b then f32NaN else f32Inf s)
  else if f32IsInf b then f32Zero s
  else if f32IsZero b then (if f32IsZero a then f32NaN else f32Inf s)
  else if f32IsZero a then f32Zero s
  else
    let q := dyQuot (f32Dy a) (f32Dy b)
    f32OfRat s q.1 q.2

/-- The bits of an integer square root from bit i - 1 down. -/
def isqrtBits (n : Nat) : Nat → Nat → Nat
  | 0, r => r
  | i + 1, r =>
    let c := r + 2 ^ i
    isqrtBits n i (if c * c ≤ n then c else r)

/-- The integer square root. -/
def isqrt (n : Nat) : Nat := isqrtBits n (Nat.log2 n / 2 + 1) 0

/-- The square root of n / d to 40 bits below its leading one or better, made odd where it is not exact, so that its
rounding to FP32 is that of the root itself: numerator and exponent of two of the denominator. -/
def sqrtRat (n d : Nat) : Nat × Nat :=
  let k := 80 + Nat.log2 d + 1
  let v := n * d * 4 ^ k
  let r := isqrt v
  (2 * r + (if r * r = v then 0 else 1), k + 1)

/-- √(n / d) is √(n d) / d. -/
def f32SqrtRat (n d : Nat) : F32 :=
  let r := sqrtRat n d
  f32OfRat false r.1 (d * 2 ^ r.2)

def f32Sqrt (a : F32) : F32 :=
  if f32IsNaN a then f32NaN
  else if f32IsZero a then a
  else if f32Neg a then f32NaN
  else if f32IsInf a then a
  else
    let x := f32Dy a
    f32SqrtRat (x.m.natAbs * 2 ^ x.e.toNat) (2 ^ (-x.e).toNat)

/-- A finite or infinite FP32 in the order of the reals. -/
def f32Key (a : F32) : Int := if f32Neg a then -(f32Abs a : Int) else f32Abs a

/-- a < b; false with a NaN (R41). -/
def f32Lt (a b : F32) : Bool := !f32IsNaN a && !f32IsNaN b && decide (f32Key a < f32Key b)

/-- IEEE 754 maximum: a NaN if an operand is one, and +0 above −0 (R41; DESIGN CHOICE 13). -/
def f32Max (a b : F32) : F32 :=
  if f32IsNaN a || f32IsNaN b then f32NaN
  else if f32Key a < f32Key b then b
  else if f32Key b < f32Key a then a
  else if f32Neg a then b else a

/-- IEEE 754 minimum (R41; DESIGN CHOICE 13). -/
def f32Min (a b : F32) : F32 :=
  if f32IsNaN a || f32IsNaN b then f32NaN
  else if f32Key a < f32Key b then a
  else if f32Key b < f32Key a then b
  else if f32Neg a then a else b

/-! ## BF16 -/

/-- FP32 to BF16, ties to even on the upper 16 bits (R52). -/
def bf16OfF32 (x : F32) : BitVec 16 :=
  if f32IsNaN x then 0x7FC0
  else
    let hi := x.toNat / 2 ^ 16
    let lo := x.toNat % 2 ^ 16
    let up := decide (0x8000 < lo) || (lo == 0x8000 && hi % 2 == 1)
    BitVec.ofNat 16 (if up then hi + 1 else hi)

/-- BF16 to FP32: 16 zero bits appended (R52). -/
def f32OfBf16 (x : BitVec 16) : F32 := BitVec.ofNat 32 (x.toNat * 2 ^ 16)

/-- An integer as FP32, exact within 24 bits. -/
def f32OfInt (m : Int) : F32 := f32OfDy false ⟨m, 0⟩

end Sys2Proof.Machine
end

