-- ==== Sys2Proof/Machine/Formats.lean ====
section
/-!
DEFINITION. The number formats (R29 to R39), the matrix modes (R42), the quantiser's conversion (R57 to R61, R465) and
the scale step (R49, R50).
-/

namespace Sys2Proof.Machine

open Sys2Proof

/-! ## Format codes (R29) -/

def fmtT : Nat := 0
def fmtI2 : Nat := 1
def fmtI4 : Nat := 2
def fmtF4 : Nat := 3
def fmtI8 : Nat := 4
def fmtF8 : Nat := 5
def fmtBF16 : Nat := 6
def fmtFP32 : Nat := 7

/-- Elements of a format in a 64-byte line (R114). -/
def fmtLineElems (f : Nat) : Nat :=
  match f with
  | 0 => 320
  | 1 => 256
  | 2 => 128
  | 3 => 128
  | 4 => 64
  | 5 => 64
  | 6 => 32
  | _ => 16

/-- Bytes of n packed elements of a format (R31, R33). -/
def fmtBytes (f n : Nat) : Nat :=
  match f with
  | 0 => ceilDiv n 5
  | 1 => ceilDiv n 4
  | 2 => ceilDiv n 2
  | 3 => ceilDiv n 2
  | 4 => n
  | 5 => n
  | 6 => 2 * n
  | _ => 4 * n

/-- The byte offset of the byte, or first byte, that holds an element (R31). -/
def fmtByteOf (f i : Nat) : Nat :=
  match f with
  | 0 => i / 5
  | 1 => i / 4
  | 2 => i / 2
  | 3 => i / 2
  | 4 => i
  | 5 => i
  | 6 => 2 * i
  | _ => 4 * i

/-- The code of an element packed from an address: a trit's digit for T (R32, R35). -/
def elemCode (m : ByteMem) (a f i : Nat) : Nat :=
  let b := (memRead m (a + fmtByteOf f i)).toNat
  match f with
  | 0 => b / 3 ^ (i % 5) % 3
  | 1 => b / 4 ^ (i % 4) % 4
  | 2 => b / 16 ^ (i % 2) % 16
  | 3 => b / 16 ^ (i % 2) % 16
  | 4 => b
  | 5 => b
  | 6 => memReadLE m (a + 2 * i) 2
  | _ => memReadLE m (a + 4 * i) 4

/-- The codes a byte packs, in element order (R31, R32, R35). -/
def byteCodes (f : Nat) (b : Byte) : List Nat :=
  let v := b.toNat
  match f with
  | 0 => [v % 3, v / 3 % 3, v / 9 % 3, v / 27 % 3, v / 81 % 3]
  | 1 => [v % 4, v / 4 % 4, v / 16 % 4, v / 64]
  | 2 => [v % 16, v / 16]
  | 3 => [v % 16, v / 16]
  | _ => [v]

/-- Two-byte and four-byte words of a list of bytes. -/
def halfWords : List Byte → List Nat
  | a :: b :: t => (a.toNat + 256 * b.toNat) :: halfWords t
  | _ => []

def fullWords : List Byte → List Nat
  | a :: b :: c :: d :: t => (a.toNat + 256 * (b.toNat + 256 * (c.toNat + 256 * d.toNat))) :: fullWords t
  | _ => []

/-- The codes that bytes pack, in element order. -/
def codesOf (f : Nat) (bs : List Byte) : List Nat :=
  match f with
  | 6 => halfWords bs
  | 7 => fullWords bs
  | _ => bs.flatMap (byteCodes f)

/-- Whether the byte of a T element is invalid (R32). -/
def tInvalid (m : ByteMem) (a i : Nat) : Bool := decide (243 ≤ (memRead m (a + i / 5)).toNat)

/-- A two's-complement code of n bits. -/
def signed (n v : Nat) : Int := if v < 2 ^ (n - 1) then v else (v : Int) - 2 ^ n

/-- F4 × 2 (R36). -/
def f4Twice (v : Nat) : Int :=
  let e := v / 2 % 4
  let m := v % 2
  let mag : Nat := if e = 0 then m else (2 + m) * 2 ^ (e - 1)
  if 8 ≤ v then -(mag : Int) else mag

/-- F8 × 2^9 (R38, R39). -/
def f8Fixed (v : Nat) : Int :=
  let e := v / 8 % 16
  let m := v % 8
  let mag : Nat :=
    if e = 0 then m else if e = 15 ∧ m = 7 then 14 * 2 ^ 14 else (8 + m) * 2 ^ (e - 1)
  if 128 ≤ v then -(mag : Int) else mag

/-- The integer the matrix unit takes for a code of an integer or narrow-float format (R36, R37, R39). -/
def codeInt (f v : Nat) : Int :=
  match f with
  | 0 => (v : Int) - 1
  | 1 => signed 2 v
  | 2 => signed 4 v
  | 3 => f4Twice v
  | 4 => signed 8 v
  | _ => f8Fixed v

/-- Fraction bits of that integer. -/
def fmtFrac (f : Nat) : Nat := if f = 3 then 1 else if f = 5 then 9 else 0

/-- An element as FP32: exact for every format (R63). -/
def codeF32 (f v : Nat) : F32 :=
  match f with
  | 6 => f32OfBf16 (BitVec.ofNat 16 v)
  | 7 => BitVec.ofNat 32 v
  | g => f32OfDy false ⟨codeInt g v, -(fmtFrac g : Int)⟩

/-- An element of packed data as FP32. -/
def elemF32 (m : ByteMem) (a f i : Nat) : F32 := codeF32 f (elemCode m a f i)

/-! ## Matrix modes (R42, R127) -/

/-- A matrix mode: products per lane per tick as a fraction, fraction bits, log2 of the bound B, energy per product
tick and lane in fJ; `fp32` is the BF16 × BF16 path. -/
structure MmaMode where
  num : Nat
  den : Nat
  f : Nat
  boundLog : Nat
  laneFj : Nat
  fp32 : Bool
  deriving DecidableEq, Repr

/-- The mode of a weight format and an activation format; none where R42 lists none. -/
def mmaMode (w a : Nat) : Option MmaMode :=
  match w, a with
  | 0, 2 => some ⟨4, 1, 0, 43, 168, false⟩
  | 1, 2 => some ⟨4, 1, 0, 42, 176, false⟩
  | 0, 4 => some ⟨2, 1, 0, 39, 184, false⟩
  | 1, 4 => some ⟨2, 1, 0, 38, 184, false⟩
  | 2, 2 => some ⟨2, 1, 0, 40, 176, false⟩
  | 3, 2 => some ⟨2, 1, 1, 40, 176, false⟩
  | 2, 4 => some ⟨1, 1, 0, 36, 176, false⟩
  | 3, 4 => some ⟨1, 1, 1, 36, 176, false⟩
  | 0, 5 => some ⟨1, 1, 9, 29, 192, false⟩
  | 1, 5 => some ⟨1, 1, 9, 28, 192, false⟩
  | 2, 5 => some ⟨1, 1, 9, 26, 192, false⟩
  | 3, 5 => some ⟨1, 1, 10, 25, 192, false⟩
  | 4, 4 => some ⟨1, 2, 0, 32, 160, false⟩
  | 4, 5 => some ⟨1, 2, 9, 22, 176, false⟩
  | 6, 6 => some ⟨1, 8, 0, 0, 120, true⟩
  | _, _ => none

/-! ## The quantiser (R57 to R61, R465) -/

/-- The largest code of a target, and the code of the largest negative magnitude. -/
def quantMax (f : Nat) : Nat := if f = 2 then 7 else if f = 4 then 127 else 0x7E

def quantMin (f : Nat) : Nat := if f = 2 then 8 else if f = 4 then 0x80 else 0xFE

/-- A rational of a sign converted to I4, I8 or F8: its code, and whether it saturated (R59). -/
def quantRat (f : Nat) (neg : Bool) (n d : Nat) : Nat × Bool :=
  if f = 5 then
    let c := roundMag 3 (-6) 0x7E 0x7F n d
    if c = 0x7F then (if neg then 0xFE else 0x7E, true)
    else if c = 0 then (0, false) else (if neg then c + 128 else c, false)
  else
    let w := if f = 2 then 4 else 8
    let q := rne n d
    let lim := if neg then 2 ^ (w - 1) else 2 ^ (w - 1) - 1
    if lim < q then (if neg then quantMin f else quantMax f, true)
    else (if neg then (2 ^ w - q) % 2 ^ w else q, false)

/-- An element x divided by the scale s and converted: code and whether it counts as a saturation (R59, R60, R465). -/
def quantCode (f : Nat) (x s : F32) : Nat × Bool :=
  let neg := f32Neg x != f32Neg s
  if f32IsNaN x || f32IsNaN s then (0, true)
  else if f32IsInf x then
    if f32IsInf s then (0, true) else (if neg then quantMin f else quantMax f, true)
  else if f32IsInf s then (0, false)
  else if f32IsZero s then
    if f32IsZero x then (0, true) else (if neg then quantMin f else quantMax f, true)
  else if f32IsZero x then (0, false)
  else
    let q := dyQuot (f32Dy x) (f32Dy s)
    quantRat f neg q.1 q.2

/-- The dynamic scale of a row (R58). Of a row without a finite element no rule gives amax: it is zero (log entry 111). -/
def quantScale (f : Nat) (xs : List F32) : F32 :=
  let amax := xs.foldl (fun a x => if f32IsFinite x then max a (f32Abs x) else a) 0
  let qmax : F32 := f32OfInt (if f = 2 then 7 else if f = 4 then 127 else 448)
  if amax = 0 then f32One
  else
    let q := f32Div (BitVec.ofNat 32 amax) qmax
    if f32Abs q < 0x00800000 then 0x00800000 else q

/-- Codes packed by R35. -/
def packCodes (f : Nat) : List Nat → List Byte
  | [] => []
  | a :: t =>
    if f = 2 then
      match t with
      | [] => [BitVec.ofNat 8 a]
      | b :: t' => BitVec.ofNat 8 (a + 16 * b) :: packCodes f t'
    else BitVec.ofNat 8 a :: packCodes f t

/-! ## The scale step (R49, R50) -/

/-- One factor or term of R49: NaN, an infinity of a sign, or a finite dyadic. -/
inductive Ext where
  | nan
  | inf (neg : Bool)
  | fin (d : Dy)
  deriving DecidableEq, Repr

def Ext.ofF32 (x : F32) : Ext :=
  if f32IsNaN x then .nan else if f32IsInf x then .inf (f32Neg x) else .fin (f32Dy x)

/-- The sign of a factor, and whether it is zero. -/
def Ext.isNeg : Ext → Bool
  | .nan => false
  | .inf n => n
  | .fin d => decide (d.m < 0)

def Ext.isZero : Ext → Bool
  | .fin d => d.m == 0
  | _ => false

def Ext.mul (a b : Ext) : Ext :=
  match a, b with
  | .nan, _ => .nan
  | _, .nan => .nan
  | .fin x, .fin y => .fin (x.mul y)
  | .inf n, y => if y.isZero then .nan else .inf (n != y.isNeg)
  | x, .inf n => if x.isZero then .nan else .inf (x.isNeg != n)

def Ext.add (a b : Ext) : Ext :=
  match a, b with
  | .nan, _ => .nan
  | _, .nan => .nan
  | .fin x, .fin y => .fin (x.add y)
  | .inf n, .inf k => if n = k then .inf n else .nan
  | .inf n, _ => .inf n
  | _, .inf n => .inf n

/-- The value rounded once: an exact zero is +0.0 (R50). -/
def Ext.round : Ext → F32
  | .nan => f32NaN
  | .inf n => f32Inf n
  | .fin d => f32OfDy false d

/-- The exact value of an accumulator of a state with f fraction bits (R44, R48). -/
def accExt (fp32 : Bool) (f : Nat) (acc : BitVec 48) : Ext :=
  if fp32 then Ext.ofF32 (acc.setWidth 32) else .fin ⟨acc.toInt, -(f : Int)⟩

/-- R49, an absent bias or adapter term being none. -/
def scaleStep (acc : Ext) (w a : F32) (bias : Option F32) (adapter : Option (F32 × Ext)) : F32 :=
  let base := (acc.mul (Ext.ofF32 w)).mul (Ext.ofF32 a)
  let withBias := match bias with
    | some b => base.add (Ext.ofF32 b)
    | none => base
  let all := match adapter with
    | some (al, u) => withBias.add ((Ext.ofF32 al).mul u)
    | none => withBias
  all.round

end Sys2Proof.Machine
end

