-- ==== Sys2Proof/Machine/Special.lean ====
section
/-!
DEFINITION. The interpolated special functions of the vector unit (R84, R85): the knot values, each rounded from the
exact function, the segment tables, and the reductions of the arguments.
-/

namespace Sys2Proof.Machine

open Sys2Proof

/-! ## Knot values (R84) -/

/-- The largest 24-bit m below `acc` + 2^i with ((2m − 1) / 2^24)^1024 ≤ 2^k: bits from i - 1 down. -/
def exp2Bits (k : Nat) : Nat → Nat → Nat
  | 0, m => m
  | i + 1, m =>
    let c := m + 2 ^ i
    exp2Bits k i (if (2 * c - 1) ^ 1024 ≤ 2 ^ (24 * 1024 + k) then c else m)

/-- 2^(k / 1,024) for k from 0 to 1,024, rounded: the m of m × 2^−23 decided by exact comparison. -/
def exp2Knot (k : Nat) : F32 := f32OfRat false (exp2Bits k 25 0) (2 ^ 23)

/-- Bits of log2 of x / 2^w, 1 ≤ x / 2^w < 2, by repeated squaring: n further bits after those of `acc`. -/
def log2Bits (w : Nat) : Nat → Nat → Nat → Nat
  | 0, _, acc => acc
  | n + 1, x, acc =>
    let y := x * x / 2 ^ w
    if 2 ^ (w + 1) ≤ y then log2Bits w n (y / 2) (2 * acc + 1) else log2Bits w n y (2 * acc)

/-- log2(1 + k / 1,024) for k from 0 to 1,024, rounded. -/
def log2Knot (k : Nat) : F32 :=
  if k = 0 then 0
  else if 1024 ≤ k then f32One
  else f32OfRat false (2 * log2Bits 256 80 ((1024 + k) * 2 ^ 246) 0 + 1) (2 ^ 81)

/-- The knot of RSQRT as a number over 512 (R85). -/
def rsqrtKnotNum (k : Nat) : Nat := if k ≤ 512 then 512 + k else 1024 + 2 * (k - 512)

/-- 1/√m at a knot m, rounded. -/
def rsqrtKnot (k : Nat) : F32 := f32SqrtRat 512 (rsqrtKnotNum k)

/-- A Taylor sum of e^(1/32) in units of 2^−w: term n and what follows it. -/
def expTaylor (term : Nat) : Nat → Nat → Nat
  | 0, _ => 0
  | left + 1, n => term + expTaylor (term / (32 * (n + 1))) left (n + 1)

/-- e^(1/32) × 2^160. -/
def expUnit : Nat := expTaylor (2 ^ 160) 40 0

/-- e^(k/32) as a rational with denominator 2^(160 k). -/
def expPow (k : Nat) : Nat × Nat := (expUnit ^ k, 2 ^ (160 * k))

/-- 1/(1 + e^−u) at u = −16 + k/32, rounded. -/
def sigmoidKnot (k : Nat) : F32 :=
  if 512 ≤ k then
    let e := expPow (k - 512)
    f32OfRat false e.1 (e.1 + e.2)
  else
    let e := expPow (512 - k)
    f32OfRat false e.2 (e.1 + e.2)

/-- tanh u at u = −8 + k/64, rounded. -/
def tanhKnot (k : Nat) : F32 :=
  if k = 512 then 0
  else
    let e := expPow (if 512 ≤ k then k - 512 else 512 - k)
    f32OfRat (decide (k < 512)) (e.1 - e.2) (e.1 + e.2)

/-- The series of ∫ e^(−t²) from 0 to k/128 in units of 2^−256: the sum of the terms of one parity. `term` is
x^(2n + 1)/n!. -/
def erfSeries (xx : Nat) : Nat → Nat → Nat → Nat × Nat
  | 0, _, _ => (0, 0)
  | left + 1, n, term =>
    let r := erfSeries xx left (n + 1) (term * xx / (16384 * (n + 1)))
    (term / (2 * n + 1) + r.2, r.1)

/-- π × 2^256, rounded down. -/
def piFix : Nat := 0x3243F6A8885A308D313198A2E03707344A4093822299F31D0082EFA98EC4E6C89

/-- √π × 2^256. -/
def sqrtPiFix : Nat := isqrt (piFix * 2 ^ 256)

/-- erf u at u = −4 + k/128, rounded. -/
def erfKnot (k : Nat) : F32 :=
  if k = 512 then 0
  else
    let x := if 512 ≤ k then k - 512 else 512 - k
    let s := erfSeries (x * x) 160 0 (x * 2 ^ 249)
    f32OfRat (decide (k < 512)) (2 * (s.1 - s.2)) sqrtPiFix

/-! ## Interpolation (R84) -/

/-- The exact v + d × t of segment i of a table of knot values. -/
def interp (knot : Nat → F32) (i : Nat) (t : Dy) : Dy :=
  let v := knot i
  let d := f32Sub (knot (i + 1)) v
  (f32Dy v).add ((f32Dy d).mul t)

/-- The segment and position of a dyadic u in knots x0 + i × 2^−k: i is at most 1,023. -/
def segment (u x0 : Dy) (k : Nat) : Nat × Dy :=
  let w := (u.sub x0).scale k
  let i := min 1023 w.floor.toNat
  (i, w.sub ⟨i, 0⟩)

/-- A dyadic clamped to [−b, b]; an infinity clamps by its sign. -/
def clampTo (b : Nat) (x : F32) : Dy :=
  if f32IsInf x then ⟨if f32Neg x then -(b : Int) else b, 0⟩
  else
    let d := f32Dy x
    if d.floor < -(b : Int) then ⟨-(b : Int), 0⟩
    else if (b : Int) ≤ d.floor then ⟨b, 0⟩
    else d

def dyLog2 (d : Dy) : Int := (Nat.log2 d.m.natAbs : Int) + d.e

/-! ## The functions (R85) -/

def spExp2 (x : F32) : F32 :=
  if f32IsNaN x then f32NaN
  else if f32IsInf x then (if f32Neg x then 0 else f32Inf false)
  else
    let d := f32Dy x
    if 128 ≤ d.floor then f32Inf false
    else if d.floor < -160 then 0
    else
      let n := d.floor
      let s := segment (d.sub ⟨n, 0⟩) Dy.zero 10
      let p := f32OfDy false (interp exp2Knot s.1 s.2)
      f32OfDy false ((f32Dy p).scale n)

def spLog2 (x : F32) : F32 :=
  if f32IsNaN x then f32NaN
  else if f32IsZero x then f32Inf true
  else if f32Neg x then f32NaN
  else if f32IsInf x then f32Inf false
  else
    let d := f32Dy x
    let e := dyLog2 d
    let s := segment ((d.scale (-e)).sub ⟨1, 0⟩) Dy.zero 10
    f32OfDy false (Dy.add ⟨e, 0⟩ (interp log2Knot s.1 s.2))

def spRsqrt (x : F32) : F32 :=
  if f32IsNaN x then f32NaN
  else if f32IsZero x then f32Inf (f32Neg x)
  else if f32Neg x then f32NaN
  else if f32IsInf x then 0
  else
    let d := f32Dy x
    let e := Int.fdiv (dyLog2 d) 2
    let m := d.scale (-2 * e)
    let low := decide (m.floor < 2)
    let s := if low then segment m ⟨1, 0⟩ 9 else segment m ⟨2, 0⟩ 8
    let i := if low then s.1 else min 1023 (512 + s.1)
    let p := f32OfDy false (interp rsqrtKnot i s.2)
    f32OfDy false ((f32Dy p).scale (-e))

def spSigmoid (x : F32) : F32 :=
  if f32IsNaN x then f32NaN
  else
    let s := segment (clampTo 16 x) ⟨-16, 0⟩ 5
    f32OfDy false (interp sigmoidKnot s.1 s.2)

def spTanh (x : F32) : F32 :=
  if f32IsNaN x then f32NaN
  else
    let s := segment (clampTo 8 x) ⟨-8, 0⟩ 6
    f32OfDy false (interp tanhKnot s.1 s.2)

def spErf (x : F32) : F32 :=
  if f32IsNaN x then f32NaN
  else
    let s := segment (clampTo 4 x) ⟨-4, 0⟩ 7
    f32OfDy false (interp erfKnot s.1 s.2)

end Sys2Proof.Machine
end

