-- ==== Sys2Proof/Machine/Operands.lean ====
section
/-!
DEFINITION. The operands of core operations: scratchpad address words (R109), scale register entries, the operand
elements of matrix, rotation and vector operations, and the descriptors and slot words read from their bytes (R104 to
R110).
-/

namespace Sys2Proof.Machine

open Sys2Proof

/-! ## Scratchpad addresses -/

/-- The counter of a loop level, zero outside its loop (R106). -/
def loopIter (c : Core) (level : Nat) : Nat :=
  ((c.seq.loops.find? (fun l => l.level == level)).map (fun l => l.iter)).getD 0

/-- The line an address word names: base + step × i_level (R109). -/
def lineOf (c : Core) (a : AddrWord) : Nat :=
  ((a.base.toNat : Int) + a.step.toInt * loopIter c a.level.toNat).toNat

/-- Bytes an operation writes to the scratchpad. -/
def spadPut (c : Core) (a : Nat) (bs : List Byte) : Core := { c with spad := memWriteN c.spad a bs }

/-! ## Scale register file (R80) -/

/-- A channel entry. -/
def sregChan (c : Core) (i : Nat) : F32 := tabGetD c.sregChannel i 0

/-- A row entry. -/
def sregRowAt (c : Core) (i : Nat) : F32 := tabGetD c.sregRow i 0

/-- An entry by table and index. -/
def sregAt (c : Core) (row : Bool) (i : Nat) : F32 := if row then sregRowAt c i else sregChan c i

/-- An entry written. -/
def sregPut (c : Core) (row : Bool) (i : Nat) (v : F32) : Core :=
  if row then { c with sregRow := tabSetD c.sregRow i v 0 }
  else { c with sregChannel := tabSetD c.sregChannel i v 0 }

/-! ## Rows of elements -/

/-- Bytes of FP32 or BF16 elements, as FP32 (R53, R57). -/
def rowElems (bf16 : Bool) (bs : List Byte) : List F32 :=
  let f := if bf16 then fmtBF16 else fmtFP32
  (codesOf f bs).map (codeF32 f)

/-- FP32 values as bytes of FP32 or BF16. -/
def packF32 (bf16 : Bool) (xs : List F32) : List Byte :=
  xs.flatMap (fun x => if bf16 then leBytes 2 (bf16OfF32 x).toNat else leBytes 4 x.toNat)

/-- Zipping two halves of a stage. -/
def zipF (f : F32 → F32 → F32) : List F32 → List F32 → List F32
  | a :: s, b :: t => f a b :: zipF f s t
  | _, _ => []

/-- One stage of R54 over pairs h apart; `n` bounds the number of groups. -/
def hadamardStage (h : Nat) : Nat → List F32 → List F32
  | 0, _ => []
  | n + 1, xs =>
    let a := xs.take h
    let b := (xs.drop h).take h
    zipF f32Add a b ++ zipF f32Sub a b ++ hadamardStage h n (xs.drop (2 * h))

/-- H_n with n = 2^m, stages s ascending (R54). -/
def hadamard (m : Nat) (xs : List F32) : List F32 :=
  (List.range m).foldl (fun ys s => hadamardStage (2 ^ s) (2 ^ (m - s - 1)) ys) xs

/-- The sizes of a ROTATE's blocks as powers of two (R110). -/
def rotBlocks (d : RotateDesc) : List Nat :=
  (List.range (d.blocksM1.toNat + 1)).map (fun b => bits d.blocks.toNat (4 * b) 4 + 5)

/-- Smoothing (R53). -/
def smoothRow (c : Core) (base : Nat) (xs : List F32) : List F32 :=
  (List.range xs.length).map (fun j => f32Mul (xs.getD j 0) (sregChan c (base + j)))

/-! ## Vector sources and lanes (R82, R83, R110) -/

/-- Lines of a 64-element vector of a format. -/
def vecLines (f : Nat) : Nat := ceilDiv (fmtBytes f 64) 64

/-- The lanes a byte packs; one of an invalid T byte is free (log entry 30). -/
def byteLanes (f : Nat) (b : Byte) : List F32 :=
  if f = fmtT ∧ 243 ≤ b.toNat then (List.range 5).map (Config.invalidTrit b) else (byteCodes f b).map (codeF32 f)

/-- The 64 lanes that bytes pack. -/
def vecLanes (f : Nat) (bs : List Byte) : List F32 :=
  if f = fmtBF16 ∨ f = fmtFP32 then rowElems (f == fmtBF16) bs else (bs.flatMap (byteLanes f)).take 64

/-- The address word in the low 32 bits of a VEC operand. -/
def addrOfBits (w : BitVec 32) : AddrWord :=
  ⟨w.extractLsb' 30 2, w.extractLsb' 16 14, w.extractLsb' 0 14⟩

/-- The 64 lanes of a source: `bs` of the scratchpad, a scale entry, an immediate, or absent (log entry 42). -/
def vecSrc (c : Core) (kind : BitVec 2) (fmt : BitVec 4) (w : BitVec 32) (bs : List Byte) : List F32 :=
  match kind.toNat with
  | 0 => vecLanes fmt.toNat bs
  | 1 => List.replicate 64 (sregAt c (bit w.toNat 12) (bits w.toNat 0 12))
  | 2 => List.replicate 64 w
  | _ => (List.range 64).map Config.absentLane

/-- A function of VEC that is no reduction, on one lane (R41, R85, R110); none for a code the list does not give. -/
def vecLane (fn : Nat) (a b c : F32) : Option F32 :=
  match fn with
  | 0x01 => some (f32Add a b)
  | 0x02 => some (f32Sub a b)
  | 0x03 => some (f32Mul a b)
  | 0x04 => some (f32Fma a b c)
  | 0x05 => some (f32Div a b)
  | 0x06 => some (f32Sqrt a)
  | 0x07 => some (f32Min a b)
  | 0x08 => some (f32Max a b)
  | 0x09 => some (if f32Lt a b then f32One else 0)
  | 0x0A => some (f32Canon a)
  | 0x10 => some (spExp2 a)
  | 0x11 => some (spLog2 a)
  | 0x12 => some (spRsqrt a)
  | 0x13 => some (spSigmoid a)
  | 0x14 => some (spTanh a)
  | 0x15 => some (spErf a)
  | _ => none

/-- The operator of a reduction (R83). -/
def vecRed (fn : Nat) : Option (F32 → F32 → F32) :=
  match fn with
  | 0x20 => some f32Add
  | 0x21 => some f32Max
  | 0x22 => some f32Min
  | _ => none

/-- One stage of a reduction: lane i takes v_i ⊕ v_(i + 2^s) where bit s of i is clear. -/
def redStage (op : F32 → F32 → F32) (s : Nat) (v : List F32) : List F32 :=
  (List.range v.length).map
    (fun i => if bit i s then v.getD i 0 else op (v.getD i 0) (v.getD (i + 2 ^ s) 0))

/-- The six stages of a reduction; the result is lane 0 (R83). -/
def reduce (op : F32 → F32 → F32) (v : List F32) : F32 :=
  ((List.range 6).foldl (fun w s => redStage op s w) v).getD 0 0

/-! ## Descriptors from their bytes (R109, R110) -/

def fieldBV (d : BitVec 256) (off n : Nat) : BitVec n := d.extractLsb' off n

/-- An address word at a byte offset. -/
def addrAt (d : BitVec 256) (off : Nat) : AddrWord := addrOfBits (d.extractLsb' (8 * off) 32)

def descType (d : BitVec 256) : Nat := (d.extractLsb' 0 8).toNat

def mmaOfBits (d : BitVec 256) : MmaDesc :=
  { wFmt := d.extractLsb' 8 4, aFmt := d.extractLsb' 12 4, transposed := d.getLsbD 16, seatGathered := d.getLsbD 17,
    rowsM1 := d.extractLsb' 24 6, colsM1 := d.extractLsb' 32 6, k := d.extractLsb' 64 32, aAddr := addrAt d 0x0C,
    aStride := d.extractLsb' 128 16, wStride := d.extractLsb' 144 16, wAddr := addrAt d 0x14,
    k064 := d.extractLsb' 192 16, seatStride := d.extractLsb' 208 16 }

def rotateOfBits (d : BitVec 256) : RotateDesc :=
  { smooth := d.getLsbD 8, srcBf16 := d.getLsbD 9, dstBf16 := d.getLsbD 10, direct := d.getLsbD 11,
    blocksM1 := d.extractLsb' 12 4, rows := d.extractLsb' 16 16, width := d.extractLsb' 32 32,
    blocks := d.extractLsb' 64 64, src := addrAt d 0x10, dst := addrAt d 0x14, srcStride := d.extractLsb' 192 16,
    dstStride := d.extractLsb' 208 16, sigmaBase := d.extractLsb' 224 16, qdesc := d.extractLsb' 240 16 }

def quantOfBits (d : BitVec 256) : QuantDesc :=
  { fmt := d.extractLsb' 8 4, dynamic := d.getLsbD 12, srcBf16 := d.getLsbD 13, rows := d.extractLsb' 16 16,
    width := d.extractLsb' 32 32, src := addrAt d 0x08, dst := addrAt d 0x0C, srcStride := d.extractLsb' 128 16,
    dstStride := d.extractLsb' 144 16, rowBase := d.extractLsb' 160 16, staticEntry := d.extractLsb' 176 16 }

def scaleOfBits (d : BitVec 256) : ScaleDesc :=
  { bias := d.getLsbD 8, adapter := d.getLsbD 9, bf16 := d.getLsbD 10, rowsM1 := d.extractLsb' 16 6,
    colsM1 := d.extractLsb' 24 6, baseBuf := d.extractLsb' 32 4, adapterBuf := d.extractLsb' 40 4,
    wScaleBase := d.extractLsb' 48 16, biasBase := d.extractLsb' 64 16, aScaleBase := d.extractLsb' 80 16,
    alphaBase := d.extractLsb' 96 16, dstStride := d.extractLsb' 112 16, dst := addrAt d 0x10 }

def vecOfBits (d : BitVec 256) : VecDesc :=
  { func := d.extractLsb' 8 8, count := d.extractLsb' 16 16, kind0 := d.extractLsb' 32 2, kind1 := d.extractLsb' 34 2,
    kind2 := d.extractLsb' 36 2, kindD := d.extractLsb' 38 2, fmt0 := d.extractLsb' 40 4, fmt1 := d.extractLsb' 44 4,
    fmt2 := d.extractLsb' 48 4, fmtD := d.extractLsb' 52 4, src0 := d.extractLsb' 64 32, src1 := d.extractLsb' 96 32,
    src2 := d.extractLsb' 128 32, dst := d.extractLsb' 160 32 }

def xferOfBits (d : BitVec 256) : XferDesc :=
  { cls := d.extractLsb' 8 3, seatIndexed := d.getLsbD 11, slot := d.extractLsb' 16 8, lane := d.extractLsb' 24 4,
    tiles := d.extractLsb' 32 16, spacing := d.extractLsb' 48 16, offset := d.extractLsb' 64 48,
    memStep := d.extractLsb' 128 32, spad := addrAt d 0x14, tileStep := d.extractLsb' 192 16,
    memLevel := d.extractLsb' 208 2, seatFirst := d.extractLsb' 224 16 }

def gatherOfBits (d : BitVec 256) : GatherDesc :=
  { cls := d.extractLsb' 8 3, kind := d.extractLsb' 12 2, lane := d.extractLsb' 24 4, seatFirst := d.extractLsb' 32 16,
    seatCount := d.extractLsb' 48 16, tilesPerSeat := d.extractLsb' 64 16, spacing := d.extractLsb' 80 16,
    src := d.extractLsb' 96 32, spad := addrAt d 0x10, seatStride := d.extractLsb' 160 16 }

def localOfBits (d : BitVec 256) : LocalDesc :=
  { buffer := d.extractLsb' 8 4, firstRow := d.extractLsb' 16 6, rowsM1 := d.extractLsb' 24 6,
    entry := d.extractLsb' 32 12, rowEntries := d.getLsbD 44, entriesM1 := d.extractLsb' 48 6, spad := addrAt d 0x08,
    stride := d.extractLsb' 96 16 }

def atomicOfBits (d : BitVec 256) : AtomicDesc :=
  { cls := d.extractLsb' 8 3, op := d.extractLsb' 16 8, slot := d.extractLsb' 24 8, lane := d.extractLsb' 32 4,
    offset := d.extractLsb' 64 64, spad := addrAt d 0x10 }

/-! ## Bundles (R104, R105) -/

/-- A slot word of a bundle: its opcode and descriptor index. -/
structure SlotWord where
  op : Nat
  desc : Nat
  deriving DecidableEq, Repr

def matrixWord (b : BitVec 128) : Nat := (b.extractLsb' 0 24).toNat
def rotqWord (b : BitVec 128) : Nat := (b.extractLsb' 24 20).toNat
def scaleWord (b : BitVec 128) : Nat := (b.extractLsb' 44 16).toNat
def vectorWord (b : BitVec 128) : Nat := (b.extractLsb' 60 20).toNat
def moveWord (b : BitVec 128) : Nat := (b.extractLsb' 80 20).toNat
def controlWord (b : BitVec 128) : Nat := (b.extractLsb' 100 28).toNat

def matrixSlot (w : Nat) : SlotWord := ⟨bits w 20 4, bits w 10 10⟩
def scaleSlot (w : Nat) : SlotWord := ⟨bits w 12 4, bits w 2 10⟩
def wideSlot (w : Nat) : SlotWord := ⟨bits w 16 4, bits w 6 10⟩

/-- A control operation (R105). -/
inductive CtlOp where
  | nop
  | loop (level bodyM1 countM1 : Nat)
  | wait (n : Nat)
  | semSignal (sem amount : Nat)
  | semWait (sem amount : Nat)
  | trickEnd
  | bad
  deriving DecidableEq, Repr

def ctlOf (w : Nat) : CtlOp :=
  match bits w 24 4 with
  | 0x0 => if bits w 0 24 = 0 then .nop else .bad
  | 0x1 => .loop (bits w 22 2) (bits w 12 10) (bits w 0 12)
  | 0x2 => .wait (bits w 0 24)
  | 0x3 => if bits w 12 8 = 0 ∧ bits w 0 12 ≠ 0 then .semSignal (bits w 20 4) (bits w 0 12) else .bad
  | 0x4 => if bits w 12 8 = 0 ∧ bits w 0 12 ≠ 0 then .semWait (bits w 20 4) (bits w 0 12) else .bad
  | 0xF => if bits w 0 24 = 0 then .trickEnd else .bad
  | _ => .bad

end Sys2Proof.Machine
end

