-- ==== Sys2Proof/Machine/Image.lean ====
section
/-!
DEFINITION. Plan images as data (R160 to R166): header, phases, slots, tricks, segments; the reaches of R209; and the units
of a partition (R16 to R19, R188).
-/

namespace Sys2Proof.Machine

open Sys2Proof

/-! ## The image -/

/-- A little-endian field of an image. -/
def imgLE (m : ByteMem) (off n : Nat) : Nat := memReadLE m off n

def imgCarried (m : ByteMem) : Bool := bit (imgLE m 0x07 1) 0
def imgOrder (m : ByteMem) : Nat := bits (imgLE m 0x08 1) 0 3
def imgEngine (m : ByteMem) : Nat := imgLE m 0x0A 2
def imgSeats (m : ByteMem) : Nat := imgLE m 0x0C 2
def imgTricks (m : ByteMem) : Nat := imgLE m 0x0E 2
def imgSlots (m : ByteMem) : Nat := imgLE m 0x20 2
def imgThreshold (m : ByteMem) : Nat := imgLE m 0x22 2

/-- First trick and count of a phase's deck (R161). -/
def imgPhase (m : ByteMem) (i : Nat) : Nat × Nat := (imgLE m (0x10 + 4 * i) 2, imgLE m (0x12 + 4 * i) 2)

/-- A slot entry: kind, access, peer, extent (R161). -/
structure SlotEntry where
  kind : Nat
  access : Nat
  peer : Nat
  extent : Nat
  deriving DecidableEq, Repr

def imgSlot (m : ByteMem) (i : Nat) : SlotEntry :=
  let a := imgLE m 0x28 4 + 8 * i
  ⟨imgLE m a 1, imgLE m (a + 1) 1, imgLE m (a + 2) 1, imgLE m (a + 4) 4⟩

def imgSlotList (m : ByteMem) : List SlotEntry := (List.range (imgSlots m)).map (imgSlot m)

/-- Offset of a trick's entry. -/
def imgTrickAt (m : ByteMem) (t : Nat) : Nat := imgLE m 0x2C 4 + 16 * t

def imgTrickEnergy (m : ByteMem) (t : Nat) : Nat := imgLE m (imgTrickAt m t + 4) 4

def imgLiveAt (m : ByteMem) (t : Nat) : Nat := imgLE m (imgTrickAt m t + 8) 4

/-- A segment-table entry: body offset, descriptors, bundles, energy (R162). -/
structure SegEntry where
  body : Nat
  descs : Nat
  bundles : Nat
  energyNj : Nat
  deriving DecidableEq, Repr

def imgSeg (m : ByteMem) (t j : Nat) : SegEntry :=
  let a := imgLE m (imgTrickAt m t) 4 + 16 * j
  ⟨imgLE m a 4, imgLE m (a + 4) 2, imgLE m (a + 6) 2, imgLE m (a + 8) 4⟩

/-- Descriptor i of a segment (R163). -/
def segDesc (m : ByteMem) (e : SegEntry) (i : Nat) : BitVec 256 := BitVec.ofNat 256 (imgLE m (e.body + 32 * i) 32)

/-- Bundle i of a segment (R163). -/
def segBundle (m : ByteMem) (e : SegEntry) (i : Nat) : BitVec 128 :=
  BitVec.ofNat 128 (imgLE m (e.body + 32 * e.descs + 16 * i) 16)

def segDescs (m : ByteMem) (e : SegEntry) : List (BitVec 256) := (List.range e.descs).map (segDesc m e)

def segBundles (m : ByteMem) (e : SegEntry) : List (BitVec 128) := (List.range e.bundles).map (segBundle m e)

/-- Every segment entry of an image, in trick and core order. -/
def imgAllSegs (m : ByteMem) : List SegEntry :=
  (List.range (imgTricks m)).flatMap (fun t => (List.range (4 ^ imgOrder m)).map (fun j => imgSeg m t j))

/-- The GATHER descriptors a segment's bundles name. -/
def segGathers (m : ByteMem) (e : SegEntry) : List GatherDesc :=
  (segBundles m e).filterMap (fun w =>
    let s := wideSlot (moveWord w)
    if s.op = 3 ∧ s.desc < e.descs then some (gatherOfBits (segDesc m e s.desc)) else none)

/-- Tiles a GATHER reaches of its kind's space, counted from the start. -/
def gatherReach (g : GatherDesc) : Nat :=
  (if g.kind = 1 then g.src.toNat else g.src.toNat / 4096) + g.tilesPerSeat.toNat

def maxOf (l : List Nat) : Nat := l.foldl max 0

/-- The reach in tiles of a seat kind: its slots' extents and its gathers' (R209). Slot kinds 0x08 to 0x0A go with GATHER
kinds 0 to 2. -/
def imgReach (m : ByteMem) (slotKind : Nat) : Nat :=
  let slots := ((imgSlotList m).filter (fun s => s.kind == slotKind)).map (fun s => s.extent)
  let gathers := ((imgAllSegs m).flatMap (segGathers m)).filter (fun g => g.kind.toNat + 8 == slotKind && g.kind != 3)
  max (maxOf slots) (maxOf (gathers.map gatherReach))

def reachIo (m : ByteMem) : Nat := imgReach m 0x08
def reachKv (m : ByteMem) : Nat := imgReach m 0x09
def reachAdapter (m : ByteMem) : Nat := imgReach m 0x0A

/-- Whether the plan writes through a SEAT_ADAPTER slot (R209). -/
def imgWritesAdapter (m : ByteMem) : Bool := (imgSlotList m).any (fun s => s.kind == 0x0A && bit s.access 1)

/-- Whether the plan names a base kind. -/
def imgUsesBase (m : ByteMem) : Bool := (imgSlotList m).any (fun s => decide (4 ≤ s.kind) && decide (s.kind ≤ 6))

/-! ## Plan handles (R170, R173) -/

/-- The plan a handle names in a context's table, if its generation is the current one. -/
def planAt (c : Ctx) (handle : BitVec 32) : Option Plan :=
  match tabGet c.plans (handle.toNat % 256) with
  | some p => if p.gen.toNat = handle.toNat / 256 then some p else none
  | none => none

/-- The plan of a step. -/
def stepPlan (b : Block) (s : Step) : Option Plan :=
  match ctxAt b s.tag.toNat with
  | some c => planAt c s.plan
  | none => none

/-! ## Units (R16 to R19, R188) -/

/-- The engine of a type: the first where two attached engines name the same one, of which R189 says nothing (log entry 127). -/
def engineOf (b : Block) (t : Nat) : Option Engine := b.boot.engines.find? (fun e => e.engineType == t)

/-- Base indices of the units of an order that the build has for an engine type, 0 being Galxia cores. -/
def unitBases (b : Block) (engine order : Nat) : List Nat :=
  if engine = 0 then
    ((List.range (768 / 4 ^ order)).map (fun k => k * 4 ^ order)).filter (fun u =>
      coreExists b u && coreExists b (u + 4 ^ order - 1))
  else
    match engineOf b engine with
    | some e => if e.order = order then (List.range e.units).map (fun k => e.base + k * 4 ^ order) else []
    | none => []

/-- The quads a unit covers. -/
def unitQuads (base order : Nat) : List Nat := rangeFrom (base / 4) (ceilDiv (4 ^ order) 4)

/-- The cores of a unit. -/
def unitCores (base order : Nat) : List Nat := rangeFrom base (4 ^ order)

/-- The units of an order that lie wholly in a partition's quads. -/
def partUnits (b : Block) (p : Part) (engine order : Nat) : List Nat :=
  (unitBases b engine order).filter (fun u => (unitQuads u order).all (fun q => p.desc.quads.contains q))

/-- The dies of a unit; engine positions stand in rows of 64 above the compute dies (log entry 34). -/
def unitDies (base order : Nat) : List Nat := rangeFrom (base / 64) (if order = 4 then 4 else 1)

/-- The candidate dies of a plan in a partition (R291). -/
def candidateDies (b : Block) (p : Part) (m : ByteMem) : List Nat :=
  let ds := (partUnits b p (imgEngine m) (imgOrder m)).flatMap (fun u => unitDies u (imgOrder m))
  (List.range 16).filter (fun d => ds.contains d)

end Sys2Proof.Machine
end

