-- ==== Sys2Proof/Machine/Places.lean ====
section
/-!
DEFINITION. Tiles as commands and walks resolve them: their place in memory, the index of host objects (R325), and the
errors of a resolution (R293, R295).
-/

namespace Sys2Proof.Machine

open Sys2Proof

/-- Data tiles of an indexed host object of T tiles (R325). -/
def hostDataTiles (t : Nat) : Nat := t - ceilDiv t 513

/-- Whether an object keeps a tile index: a host object with the checksum or the compressed attribute (R325). -/
def hostIndexed (o : Obj) : Bool := o.tier == tierHost && (o.attrs.getLsbD 0 || o.attrs.getLsbD 1)

/-- Tile number of a resolved VA within its object. -/
def objectTile (x : Xlated) (va : Nat) : Nat := (x.map.objectOffset + (va - x.map.va)) / 4096

/-- Whether a resolved tile belongs to the index of a host object (R325). -/
def isIndexTile (x : Xlated) (va : Nat) : Bool :=
  hostIndexed x.object && decide (hostDataTiles (x.object.bytes / 4096) ≤ objectTile x va)

/-- Bus address of the index entry of a host object's data tile, through stage 2. -/
def indexEntryAt (b : Block) (x : Xlated) (va : Nat) : Option Nat :=
  match partAt b x.vf, extentIpa x.object.extents (hostDataTiles (x.object.bytes / 4096) * 4096 + 8 * objectTile x va) with
  | some p, some ipa => (stage2 b p ipa).map (fun h => hostAt x.vf h.out)
  | _, _ => none

/-- The place of a resolved tile. Device tiles always keep their check; a far tile is coded where its object says so. -/
def placeOf (b : Block) (x : Xlated) (va : Nat) : TilePlace :=
  { va := va / 4096 * 4096, out := (if x.hit.host then hostAt x.vf else id) (x.hit.out / 4096 * 4096), host := x.hit.host,
    checksum := !x.hit.host || x.object.attrs.getLsbD 0, compressed := x.object.attrs.getLsbD 1,
    entry := if x.hit.host && hostIndexed x.object then indexEntryAt b x va else none }

/-- How a resolution ends short of a place: a status and detail, or a wait for an invalidation (R297). -/
inductive Stop where
  | fail (st : BitVec 16) (detail : BitVec 32)
  | wait
  deriving DecidableEq, Repr

/-- Detail of ST_TRANSLATION_FAULT (R293, R295). -/
def xlDetail (reason source seat : Nat) : BitVec 32 := BitVec.ofNat 32 (reason * 2 ^ 24 + source * 2 ^ 16 + seat)

/-- The tile at a VA resolved for a walk or a command. -/
def resolveTile (b : Block) (tag va : Nat) (write : Bool) (cmd source seat : Nat) : Except Stop Xlated :=
  let r := resolve b tag va write cmd
  if heldBack b tag (va / 4096 * 4096) 4096 r then .error .wait
  else
    match r with
    | .ok x => .ok x
    | .fail reason _ => .error (.fail stTranslationFault (xlDetail reason source seat))
    | .gone => .error (.fail stObjectGone 0)

/-- Every result of a list, or the first stop. -/
def collect {α β : Type} (f : α → Except Stop β) : List α → Except Stop (List β)
  | [] => .ok []
  | x :: xs =>
    match f x with
    | .error e => .error e
    | .ok y =>
      match collect f xs with
      | .error e => .error e
      | .ok ys => .ok (y :: ys)

/-- The tiles a byte range touches. -/
def tilesOf (va n : Nat) : List Nat :=
  if n = 0 then [] else (rangeFrom (va / 4096) ((va + n - 1) / 4096 - va / 4096 + 1)).map (fun t => 4096 * t)

/-- Bytes of a resolved place; host bytes come over the host port. -/
def placeBytes (b : Block) (p : TilePlace) (off n : Nat) : List Byte :=
  if p.host then hostRead b (p.out + off) n else memReadN b.mem.bytes (p.out + off) n

end Sys2Proof.Machine
end

