-- ==== Sys2Proof/Machine/Steps.lean ====
section
/-!
DEFINITION. STEP (R206 to R215): eligibility, the deal and its list, the admission walk (R290 to R293, R330), and what is
taken up again when a held deal's stage changes or a deal list is freed.
-/

namespace Sys2Proof.Machine

open Sys2Proof

/-! ## Adapters and eligibility (R203, R204, R210) -/

def adapterNone : Adapter := ⟨false, false, 0, 0, 0, 0, false, false, 0⟩

def adapterAt (b : Block) (i : Nat) : Adapter := tabGetD b.dealer.adapters i adapterNone

def setAdapter (b : Block) (i : Nat) (a : Adapter) : Block :=
  modDealer b (fun d => { d with adapters := tabSetD d.adapters i a adapterNone })

/-- Tiles of a slot's read range. -/
def adapterReadTiles (a : Adapter) : Nat := if a.writable then a.tiles / 2 else a.tiles

/-- VA of one half of a writable binding. -/
def adapterHalf (a : Adapter) (half : Bool) : Nat := a.va.toNat + (if half then a.tiles / 2 * 4096 else 0)

def adapterReadVa (a : Adapter) : Nat := if a.writable then adapterHalf a a.half else a.va.toNat

def adapterWriteVa (a : Adapter) : Nat := if a.writable then adapterHalf a (!a.half) else 0

/-- The context of a sequence is live and the owner condition of R210 holds. -/
def ownerOk (b : Block) (st : Step) (pooling : Bool) (q : Seq) : Bool :=
  match ctxAt b q.tag.toNat with
  | none => false
  | some c => c.state == .live && (q.tag == st.tag || (pooling && bit q.f.control.toNat 4 && c.fn == st.fn))

/-- The slot a handle names, as R210's adapter condition asks for it. -/
def slotFor (b : Block) (q : Seq) : Option Adapter :=
  let a := adapterAt b (q.f.adapter.toNat % 1024)
  if a.bound && !a.dying && a.gen.toNat == q.f.adapter.toNat / 1024 && a.tag == q.tag then some a else none

/-- Whether a sequence entry is eligible for a serve or forward STEP (R210). -/
def eligibleSeq (b : Block) (st : Step) (pooling : Bool) (m : ByteMem) (q : Seq) : Bool :=
  q.state == .isOpen && ownerOk b st pooling q && q.f.view == st.view && (bit q.f.control.toNat 3 == (st.phase == 1)) &&
  bit q.f.control.toNat 5 && q.f.budget != 0 &&
  (match slotFor b q with
    | none => false
    | some a => decide (reachAdapter m ≤ adapterReadTiles a) && (!imgWritesAdapter m || a.writable)) &&
  decide (q.f.position.toNat + q.f.advance.toNat ≤ 0xFFFFFFFF) &&
  decide (q.f.kvLength.toNat + q.f.advance.toNat ≤ q.f.kvCapacity.toNat) && decide (reachIo m ≤ q.f.inputTiles.toNat)

/-! ## The deal (R211 to R215) -/

def dummySeat : Seat := ⟨0, 0, false, false, 0, 0, 0, 0, 0, 0, 0, 0, 0⟩

/-- The order of eligible entries: class, then served, then index (R211). -/
def dealKey (q : Nat × Seq) : Nat := ((q.2.f.control.toNat % 8) * 2 ^ 46 + q.2.served.toNat) * 2 ^ 14 + q.1

/-- The entries a deal seats, in seat order. -/
def dealt (b : Block) (st : Step) (p : Part) (m : ByteMem) : List (Nat × Seq) :=
  let all : List (Nat × Seq) := (rangeFrom p.desc.seqBase p.desc.seqCount).map (fun i => (i, seqAt b i))
  let cand : List (Nat × Seq) := sortBy dealKey (all.filter (fun (e : Nat × Seq) => eligibleSeq b st p.desc.pooling m e.2))
  let same := match cand with
    | [] => []
    | f :: _ => if st.phase = 1 then cand.filter (fun (e : Nat × Seq) => e.2.f.adapter.toNat % 1024 == f.2.f.adapter.toNat % 1024) else cand
  same.take (imgSeats m)

/-- A seat entry from a sequence entry (R214). -/
def seatOf (b : Block) (e : Nat × Seq) : Seat :=
  let q := e.2
  let a := adapterAt b (q.f.adapter.toNat % 1024)
  { sequence := q.gen ++ BitVec.ofNat 14 e.1, tag := q.tag, valid := true, adapterWritable := a.writable
    adapterSlot := q.f.adapter.setWidth 10, position := q.f.position, kvLength := q.f.kvLength, kvListPages := q.f.kvListPages
    kvListVa := q.f.kvListVa, inputVa := q.f.inputVa, adapterReadVa := BitVec.ofNat 64 (adapterReadVa a)
    adapterWriteVa := BitVec.ofNat 64 (adapterWriteVa a), adapterTiles := BitVec.ofNat 32 (adapterReadTiles a) }

/-- The 64 bytes of a seat entry (R214). -/
def seatBytes (s : Seat) : List Byte :=
  leBytes 4 s.sequence.toNat ++ leBytes 2 s.tag.toNat ++
  leBytes 2 ((if s.valid then 1 else 0) + (if s.adapterWritable then 2 else 0)) ++ leBytes 2 s.adapterSlot.toNat ++
  zeros 2 ++ leBytes 4 s.position.toNat ++ leBytes 4 s.kvLength.toNat ++ leBytes 4 s.kvListPages.toNat ++
  leBytes 8 s.kvListVa.toNat ++ leBytes 8 s.inputVa.toNat ++ leBytes 8 s.adapterReadVa.toNat ++
  leBytes 8 s.adapterWriteVa.toNat ++ leBytes 4 s.adapterTiles.toNat ++ zeros 4

/-- Real seats of a deal. -/
def realSeats (d : Deal) : Nat := (d.seats.filter (fun s => s.valid)).length

/-- The bytes of a deal list: header, then its seats (R214). -/
def dealBytes (st : Step) (d : Deal) : List Byte :=
  leBytes 4 st.plan.toNat ++ leBytes 1 st.phase ++ leBytes 1 st.view.toNat ++ leBytes 2 st.tag.toNat ++
  leBytes 2 d.seats.length ++ leBytes 2 (realSeats d) ++ zeros 4 ++ leBytes 8 d.dealtAt.toNat ++
  leBytes 8 (commandField st.cid st.cq) ++ zeros 32 ++ d.seats.flatMap seatBytes

/-- Deal lists of a partition in use: its steps' until they commit, and its contexts' held deals' (R215, R218). -/
def usedLists (b : Block) (vf : Nat) : List Nat :=
  (b.dealer.steps.filter (fun s => s.fn == vf && s.stage != .finished)).filterMap (fun s => s.deal.map (fun d => d.list)) ++
  (b.ctxs.filter (fun e => e.2.fn == vf)).filterMap (fun e => e.2.held.map (fun h => h.deal.list))

/-- The lowest free deal list of a partition, if one of its 64 is free. -/
def freeList (b : Block) (vf : Nat) : Option Nat := firstBelow 64 (fun i => !(usedLists b vf).contains i)

/-- Bytes written at an IPA of a partition's own areas, as stage 2 places each tile (R193, R252). -/
def writeIpa (b : Block) (vf ipa : Nat) (bs : List Byte) : Block :=
  match partAt b vf with
  | none => b
  | some p =>
    (tilesOf ipa bs.length).foldl (fun c t =>
      let lo := max ipa t
      let hi := min (ipa + bs.length) (t + 4096)
      match stage2 c p lo with
      | some h => writePhys c h.out ((bs.drop (lo - ipa)).take (hi - lo))
      | none => c) b

/-- A deal list written into the deal area. -/
def writeDealList (b : Block) (st : Step) (d : Deal) : Block :=
  match partAt b st.fn with
  | none => b
  | some p => writeIpa b st.fn ((areaRange (areaOf p.desc 0)).ipa + d.list * 69632) (dealBytes st d)

/-- The seated entries become DEALT, or HELD in a forward deal (R198). -/
def seatEntries (b : Block) (phase : Nat) (l : List (Nat × Seq)) : Block :=
  l.foldl (fun c e => setSeq c e.1 { seqAt c e.1 with state := if phase = 1 then .held else .dealt }) b

/-! ## The admission walk (R290 to R293, R330) -/

/-- A tile range of an item of the walk: tag, VA, tiles, whether written, the detail's source and seat, the dies it is
pinned on, and whether it may be host (R330). -/
structure WalkItem where
  tag : Nat
  va : Nat
  tiles : Nat
  write : Bool
  source : Nat
  seat : Nat
  dies : List Nat
  hostOk : Bool
  deriving DecidableEq, Repr

/-- What a walk has found. -/
structure Walked where
  pins : List PinReq
  refs : List Nat
  ops : List MoverOp
  deriving DecidableEq, Repr

/-- The entries one resolved tile needs: its leaf run on each of the item's dies, or, for a host tile, the run in the host
pin table and the staged copy's tile on each die, its output set when it is staged. -/
def tilePins (it : WalkItem) (x : Xlated) (va : Nat) : List PinReq :=
  let r := leafRun x va
  let w := x.map.writable && x.hit.writable
  let tag := BitVec.ofNat 16 it.tag
  if x.hit.host then
    (⟨16, tag, r.1, x.map.pageLog, r.2.1, r.2.2, w⟩ : PinReq) :: it.dies.map (fun d => ⟨d, tag, va, 12, 1, 0, false⟩)
  else it.dies.map (fun d => ⟨d, tag, r.1, x.map.pageLog, r.2.1, r.2.2, w⟩)

/-- One tile of an item walked. -/
def walkTile (b : Block) (cmd : Nat) (it : WalkItem) (va : Nat) : Except Stop Walked :=
  match resolveTile b it.tag va it.write cmd it.source it.seat with
  | .error e => .error e
  | .ok x =>
    if x.hit.host && !it.hostOk then .error (.fail stInvalidField 0)
    else if x.hit.host && isIndexTile x va then .error (.fail stInvalidField 0)
    else .ok ⟨tilePins it x va, [x.map.object], if x.hit.host then [.stage (placeOf b x va) 0] else []⟩

def walkItem (b : Block) (cmd : Nat) (it : WalkItem) : Except Stop (List Walked) :=
  collect (fun k => walkTile b cmd it (it.va + 4096 * k)) (List.range it.tiles)

/-- Bytes the walker reads at a VA; it may not lie in the host tier (R330). -/
def walkRead (b : Block) (cmd tag va n source seat : Nat) : Except Stop (List Byte × Nat) :=
  match resolveTile b tag va false cmd source seat with
  | .error e => .error e
  | .ok x => if x.hit.host then .error (.fail stInvalidField 0) else .ok (memReadN b.mem.bytes x.hit.out n, x.map.object)

/-- One binding entry read and checked (R168). -/
def walkBinding (b : Block) (st : Step) (sl : Nat × SlotEntry) : Except Stop (BoundSlot × Nat) :=
  match walkRead b st.cmd st.tag.toNat (st.bindingVa.toNat + 16 * sl.1) 16 0xF0 0xFFFF with
  | .error e => .error e
  | .ok (bs, o) =>
    let va := leAt bs 0 8
    let ext := leAt bs 8 4
    let z := leAt bs 12 4
    let e := sl.2
    let ok := if 4 ≤ e.kind then allZero bs
      else decide (va < 2 ^ 48) && decide (va % 4096 = 0) && decide (e.extent ≤ ext) && (e.kind != 1 || z == 0)
    if ok then .ok (⟨e.kind, bit e.access 0, bit e.access 1, e.peer, e.extent, va, z, false, []⟩, o)
    else .error (.fail stInvalidField 0)

/-- The ranges of a bound slot: kinds 0x01 to 0x03 are walked, for each candidate die or group (R166, R290, R291). -/
def slotItems (dies : List Nat) (tag : Nat) (i : Nat) (s : BoundSlot) : List WalkItem :=
  let item := fun va ds => (⟨tag, va, s.extent, s.writable, i, 0xFFFF, ds, s.kind == 1 && !s.writable⟩ : WalkItem)
  if s.kind = 1 then [item s.va dies]
  else if s.kind = 2 then dies.map (fun d => item (s.va + d * s.stride * 4096) [d])
  else if s.kind = 3 then
    ((List.range 4).filter (fun g => dies.any (fun d => d / 4 == g))).map (fun g =>
      item (s.va + (4 * g + s.peer) * s.stride * 4096) (rangeFrom (4 * g) 4))
  else []

/-- The KV pages of a seat, as its list names them (R200). -/
def walkKvList (b : Block) (st : Step) (n seat : Nat) (s : Seat) : Except Stop (List (BitVec 64) × List Nat) :=
  match collect (fun t => walkRead b st.cmd s.tag.toNat (s.kvListVa.toNat + 8 * t) 8 0xF1 seat)
      (List.range (min n s.kvListPages.toNat)) with
  | .error e => .error e
  | .ok l =>
    let vs := l.map (fun e => le e.1)
    if vs.any (fun v => decide (2 ^ 48 ≤ v) || v % 4096 != 0) then .error (.fail stInvalidField 0)
    else .ok (vs.map (fun v => BitVec.ofNat 64 v), l.map (fun e => e.2))

/-- What a whole walk gives: bound slots, KV pages of each seat, pins, referenced objects, staging work. -/
structure WalkDone where
  slots : List BoundSlot
  kv : List (List (BitVec 64))
  pins : List PinReq
  refs : List Nat
  ops : List MoverOp
  deriving DecidableEq, Repr

def indexed {α : Type} (l : List α) : List (Nat × α) := (List.range l.length).zip l

/-- Items 3 and 6 of R290 for a seat. -/
def seatInputItem (m : ByteMem) (dies : List Nat) (e : Nat × Seat) : WalkItem :=
  ⟨e.2.tag.toNat, e.2.inputVa.toNat, reachIo m, false, 0xF2, e.1, dies, false⟩

def seatAdapterItems (m : ByteMem) (dies : List Nat) (e : Nat × Seat) : List WalkItem :=
  let rd : WalkItem := ⟨e.2.tag.toNat, e.2.adapterReadVa.toNat, reachAdapter m, false, 0xF4, e.1, dies, false⟩
  if imgWritesAdapter m then [rd, { rd with va := e.2.adapterWriteVa.toNat, write := true }] else [rd]

/-- Item 5 of R290 for a seat. -/
def seatKvItems (dies : List Nat) (e : (Nat × Seat) × List (BitVec 64)) : List WalkItem :=
  e.2.map (fun v => ⟨e.1.2.tag.toNat, v.toNat, 1, true, 0xF3, e.1.1, dies, false⟩)

/-- The admission walk of a step over its deal, in R290's order. -/
def walkStep (b : Block) (st : Step) (d : Deal) (p : Part) (m : ByteMem) : Except Stop WalkDone :=
  let dies := candidateDies b p m
  let seats := (indexed d.seats).filter (fun e => e.2.valid)
  if st.bindingVa.toNat % 16 ≠ 0 then .error (.fail stInvalidField 0)
  else
    match collect (walkBinding b st) (indexed (imgSlotList m)) with
    | .error e => .error e
    | .ok bound =>
      let slots := bound.map (fun x => x.1)
      let first := (indexed slots).flatMap (fun e => slotItems dies st.tag.toNat e.1 e.2) ++ seats.map (seatInputItem m dies)
      match collect (walkItem b st.cmd) first with
      | .error e => .error e
      | .ok w1 =>
        match collect (fun e => walkKvList b st (reachKv m) e.1 e.2) seats with
        | .error e => .error e
        | .ok kv =>
          let later := (seats.zip (kv.map (fun x => x.1))).flatMap (seatKvItems dies) ++ seats.flatMap (seatAdapterItems m dies)
          match collect (walkItem b st.cmd) later with
          | .error e => .error e
          | .ok w2 =>
            let ws := (w1 ++ w2).flatten
            let kvOf := fun i => ((seats.zip kv).find? (fun e => e.1.1 == i)).elim [] (fun e => e.2.1)
            .ok { slots := slots, kv := (List.range d.seats.length).map kvOf, pins := (ws.flatMap (fun w => w.pins)).eraseDups
                  refs := (bound.map (fun x => x.2) ++ ws.flatMap (fun w => w.refs) ++ kv.flatMap (fun x => x.2)).eraseDups
                  ops := ws.flatMap (fun w => w.ops) }

/-- A walk that fails ends its STEP with no other effect: the seats of its deal, or of the held deal it belongs to, return to OPEN,
and what was set aside against that deal ends (R206, R293). The walk of a restored step that fails loses the step (R359). -/
def failWalk (b : Block) (st : Step) (code : BitVec 16) (detail : BitVec 32) : Block :=
  let b1 := if st.rewalk then endStep b st stStepLost 0 else endStep b st code detail
  if st.phase = 0 then b1 else dropSetAside b1 st.tag.toNat

/-- A STEP whose base set cannot serve it ends; the held deal of a later phase stays as the STEP found it (R349; log entry 35). -/
def failBase (b : Block) (st : Step) : Block :=
  if st.phase ≤ 1 || st.rewalk then failWalk b st stBaseUnavailable 0
  else
    let b1 := if st.deal.isSome then restoreHeld b st else b
    let b2 := if stepPinned st then modStep b1 st.id (fun x => { x with stage := .finished })
      else modDealer b1 (fun d => { d with steps := d.steps.filter (fun x => x.id != st.id) })
    finish b2 st.cmd stBaseUnavailable 0

/-- The walk of a step whose deal stands: it fails, waits for an invalidation (R297), or has its pin set. -/
def runWalk (b : Block) (st : Step) (d : Deal) (p : Part) (m : ByteMem) : Block :=
  match walkStep b st d p m with
  | .error .wait => modStep b st.id (fun x => { x with stage := .walking })
  | .error (.fail code detail) => failWalk b st code detail
  | .ok w =>
    let d2 := { d with kvPages := w.kv }
    let b1 := if st.phase = 0 then b
      else modCtx b st.tag.toNat (fun c => { c with held := c.held.map (fun h => { h with deal := d2 }) })
    let hostSlots := (indexed w.slots).map (fun e => { e.2 with host := w.ops.any (fun o =>
                                                     match o with
                                                     | .stage pl _ => e.2.kind == 1 && decide (e.2.va ≤ pl.va) && decide (pl.va < e.2.va + 4096 * e.2.extent)
                                                     | _ => false) })
    modStep b1 st.id (fun x => { x with stage := .walked, deal := some d2, slots := hostSlots, pins := w.pins, refs := w.refs, stageOps := w.ops })

/-! ## Admission (R206, R207, R349, R352, R421, R423) -/

/-- The base set a partition holds. -/
def partBase (b : Block) (p : Part) : Option BaseSet :=
  match tabGet b.dealer.bases (p.desc.baseSet.toNat % 4) with
  | some s => if p.desc.baseSet ≠ 0 ∧ s.gen.toNat = p.desc.baseSet.toNat / 4 then some s else none
  | none => none

/-- Whether the base kinds of a plan resolve on every candidate die (R349, R352). -/
def baseOk (b : Block) (p : Part) (m : ByteMem) : Bool :=
  match partBase b p with
  | none => false
  | some s =>
    let dies := candidateDies b p m
    s.state == .ready &&
      (imgSlotList m).all (fun e =>
        if e.kind = 5 then dies.all (fun d => s.dieMask.getLsbD d)
        else if e.kind = 6 then dies.all (fun d => (rangeFrom (d / 4 * 4) 4).all (fun k => s.dieMask.getLsbD k))
        else true)

/-- Admissions of a base set under repair wait (R423). -/
def baseWaits (b : Block) (p : Part) : Bool :=
  p.desc.baseSet != 0 && b.recov.repairs.any (fun r => r.2 == p.desc.baseSet.toNat % 4)

/-- Whether an admitted step of the partition holds a resolved range at a VA of a slot (R207). -/
def holdsRange (b : Block) (fn slot va : Nat) : Bool :=
  b.dealer.steps.any (fun s => s.fn == fn && stepPinned s &&
    match s.deal, stepPlan b s with
    | some d, some pl => decide (0 < reachAdapter pl.image) && d.seats.any (fun q => q.valid && q.adapterSlot.toNat == slot &&
        (q.adapterReadVa.toNat == va || (imgWritesAdapter pl.image && q.adapterWriteVa.toNat == va)))
    | _, _ => false)

/-- Whether an optimiser phase must wait for another step's range in the shadow half (R207). -/
def shadowBusy (b : Block) (st : Step) (d : Deal) (m : ByteMem) : Bool :=
  imgWritesAdapter m &&
    match d.seats.head? with
    | none => false
    | some q => q.valid && holdsRange b st.fn q.adapterSlot.toNat q.adapterWriteVa.toNat

/-- A serve or forward deal (R210 to R215): no eligible entry ends the STEP with detail 0, and with 64 lists in use it waits
for one. -/
def dealStep (b : Block) (st : Step) (p : Part) (m : ByteMem) : Block :=
  let l := dealt b st p m
  if l.isEmpty then endStep b st stOk 0
  else
    match freeList b st.fn with
    | none => modStep b st.id (fun x => { x with stage := .noList })
    | some n =>
      let seats := l.map (seatOf b)
      let d : Deal := ⟨n, now b, seats ++ List.replicate (imgSeats m - seats.length) dummySeat, []⟩
      let b1 := writeDealList (seatEntries b st.phase l) st d
      let b2 := modStep b1 st.id (fun x => { x with stage := .walking, deal := some d })
      let b3 := if st.phase = 1 then modCtx b2 st.tag.toNat (fun c => { c with held := some ⟨.forwardAdmitted, st.plan, st.view, d⟩ }) else b2
      runWalk b3 { st with deal := some d } d p m

/-- A backward or optimiser STEP against the held deal (R206 to R208). An optimiser STEP at FORWARD_ADMITTED ends as R206's table
says, though the Marl example of 07_dealer.md sets one aside there (log entry 128). -/
def laterPhase (b : Block) (st : Step) (h : HeldDeal) (p : Part) (m : ByteMem) : Block :=
  let go := fun (stage : HeldStage) =>
    let b1 := modCtx b st.tag.toNat (fun c => { c with held := some { h with stage := stage } })
    let b2 := modStep b1 st.id (fun x => { x with stage := .walking, deal := some h.deal })
    runWalk b2 { st with deal := some h.deal } h.deal p m
  if h.plan ≠ st.plan ∨ h.view ≠ st.view then endStep b st stInvalidField 0
  else if st.phase = 2 then
    match h.stage with
    | .forwardAdmitted => b
    | .forwardDone => go .backwardAdmitted
    | _ => endStep b st stNotPermitted 0
  else
    match h.stage with
    | .backwardAdmitted => b
    | .backwardDone => if shadowBusy b st h.deal m then b else go .optimiserAdmitted
    | _ => endStep b st stNotPermitted 0

/-- Whether a partition's steps may be dealt and walked now: neither restrained (R421) nor frozen (R356). -/
def admits (b : Block) (fn : Nat) (p : Part) : Bool := !p.restrained && (fnAt b fn).state != .frozen

/-- A STEP that is not yet walked is taken up: set aside, waiting for a deal list, or waiting for an invalidation. -/
def takeUp (b : Block) (id : Nat) : Block :=
  match stepById b id with
  | none => b
  | some st =>
    match ctxAt b st.tag.toNat, partAt b st.fn, stepPlan b st with
    | some c, some p, some pl =>
      let m := pl.image
      if !admits b st.fn p || !swapDone b c || (imgUsesBase m && baseWaits b p) then b
      else if imgUsesBase m && !baseOk b p m then failBase b st
      else
        match st.stage, st.deal with
        | .walking, some d => runWalk b st d p m
        | .walking, none => b
        | _, _ =>
          if st.phase = 0 then dealStep b st p m
          else if st.phase = 1 then (if c.held.isSome then endStep b st stBusy 0 else dealStep b st p m)
          else
            match c.held with
            | none => endStep b st stNotPermitted 0
            | some h => laterPhase b st h p m
    | _, _, _ => b

/-- Steps that wait to be dealt or walked. -/
def unwalked (s : Step) : Bool :=
  match s.stage with
  | .setAside => true
  | .noList => true
  | .walking => true
  | _ => false

/-- Every STEP not yet walked taken up in fetch order (R206, R215, R297, R421, R423). -/
def takeUpAll (b : Block) : Block :=
  (b.dealer.steps.filter unwalked).foldl (fun c s => takeUp c s.id) b

/-- Whether a plan holds a phase, and all training phases for one of them (R206). -/
def phaseOk (m : ByteMem) (phase : Nat) : Bool :=
  decide (phase < 4) && (imgPhase m phase).2 != 0 &&
    (phase == 0 || (List.range 4).all (fun i => i == 0 || (imgPhase m i).2 != 0))

/-- Whether a plan is unloaded for a STEP: the STEP was fetched after the PLAN_UNLOAD that made it dying (R173). -/
def planDies (b : Block) (tag : BitVec 16) (plan : BitVec 32) (id : Nat) : Bool :=
  b.dealer.cmds.any (fun c => c.q.tag == tag && c.stage == .planUnload (plan.toNat % 256) && decide (c.id < id))

/-- STEP (R206): its plan and phase are checked, then it is dealt and walked, or set aside. -/
def doStep (q : QRef) (h : Hdr) (plan : BitVec 32) (phase view : BitVec 8) (bindingVa : BitVec 64) (id : Nat) (b : Block) :
    Block :=
  match ctxAt b q.tag.toNat with
  | none => finish b id stObjectGone 0
  | some c =>
    match planAt c plan with
    | none => finish b id stObjectGone 0
    | some pl =>
      if planDies b q.tag plan id then finish b id stObjectGone 0
      else if !phaseOk pl.image phase.toNat then finish b id stInvalidField 0
      else
        let sid := b.dealer.nextStep
        let st : Step := {
          id := sid, cmd := id, fn := q.fn, tag := q.tag, cid := h.cid, cq := h.cq.toNat, plan := plan, phase := phase.toNat, view := view
          bindingVa := bindingVa, cls := (Config.sqClass q.idx.toNat).toNat, stage := .setAside, deal := none, slots := [], pins := []
          refs := [], stageOps := [], next := 0, unit := none, holdsState := false, spilled := false, needsFill := false, sems := []
          pinnedAt := none, admittedAt := none, lastRan := none, aborted := false, lost := false, rewalk := false }
        let b1 := modDealer (setCmd b id (.step sid)) (fun d => { d with steps := d.steps ++ [st], nextStep := sid + 1 })
        takeUp b1 sid

end Sys2Proof.Machine
end

