-- ==== Sys2Proof/Machine/Settle.lean ====
section
/-!
DEFINITION. What follows when work ends: STEPs taken up again, plans, adapter slots and objects freed (R173, R205, R266),
and stage 5 of a context's destruction (R258).
-/

namespace Sys2Proof.Machine

open Sys2Proof

/-! ## Memory freed -/

/-- The bytes of an IPA range of a partition zeroed, with their checks, as stage 2 places them (R266, R381). -/
def zeroIpa (b : Block) (vf : Nat) (r : IpaRange) : Block :=
  match partAt b vf with
  | none => b
  | some p =>
    (List.range 16).foldl (fun c i =>
      let e := s2Entry p i
      if s2Valid e && !s2Host e then
        (List.range (s2Repeats e)).foldl (fun d k =>
          let base := s2Base e + k * s2Length e
          let lo := max r.ipa base
          let hi := min (r.ipa + r.len) (base + s2Length e)
          if lo < hi then zeroPhys d (s2Out e + k * s2Stride e + (lo - base)) (hi - lo) else d) c
      else c) b

/-- The zeroing of an object ends: host bytes are not touched, its entry is freed and its MEM_FREE completes (R266). -/
def freeObject (b : Block) (vf index : Nat) : Block :=
  match partAt b vf with
  | none => b
  | some p =>
    match tabGet p.objects index with
    | none => b
    | some o =>
      let b1 := if o.tier = tierHost then b else o.extents.foldl (fun c e => zeroIpa c vf ⟨e.ipa, e.len⟩) b
      let b2 := modPart b1 vf (fun q => { q with objects := tabDel q.objects index })
      finishAll b2 (fun c => c.stage == .memFree vf index) stOk 0

def setObj (b : Block) (vf index : Nat) (st : ObjState) : Block :=
  modPart b vf (fun p => { p with objects := tabMod p.objects index (fun o => { o with state := st }) })

/-- An object with no mapping left: its zeroing starts; a host object has none and is freed at once. -/
def objectUnmapped (b : Block) (vf index : Nat) : Block :=
  match partAt b vf with
  | none => b
  | some p =>
    match tabGet p.objects index with
    | none => b
    | some o => if o.tier = tierHost then freeObject b vf index else setObj b vf index .zeroing

/-- A fetched command that has not resolved its ranges yet. -/
def unresolved (c : Cmd) : Bool :=
  match c.stage with
  | .held _ => true
  | .waiting => true
  | _ => false

/-- The VA ranges a packet's command reaches, by first byte and length: those it names, and the first tile of an import's
destination, whose length its container gives (R264; log entry 80). -/
def packetRanges : Instr → List (Nat × Nat)
  | .memUnmap _ _ va bytes => [(va.toNat, bytes.toNat)]
  | .memCopy _ _ src dst bytes => [(src.toNat, bytes.toNat), (dst.toNat, bytes.toNat)]
  | .memFill _ _ dst bytes _ => [(dst.toNat, bytes.toNat)]
  | .memImport _ _ src dst n _ _ => [(src.toNat, n.toNat), (dst.toNat, 4096)]
  | .planLoad _ _ va length => [(va.toNat, length.toNat)]
  | .query _ _ _ va => [(va.toNat, 256)]
  | .adapterBind _ _ va tiles _ => [(va.toNat, 4096 * tiles.toNat)]
  | _ => []

/-- The object a packet's command names by its handle. -/
def packetObject : Instr → Option Nat
  | .memMap _ _ _ _ handle _ _ _ _ _ _ => if handle = 0 then none else some (handle.toNat % 2 ^ 16)
  | .memFree _ _ handle => some (handle.toNat % 2 ^ 16)
  | _ => none

/-- Whether a range of a context's VA reaches an object. -/
def reaches (c : Ctx) (index : Nat) (r : Nat × Nat) : Bool :=
  c.mappings.any (fun m => m.object == index && overlap m.va m.bytes r.1 r.2)

/-- Whether a command that has yet to resolve its ranges names an object or reaches it, or is a STEP whose walk may. -/
def mayReference (b : Block) (index : Nat) (c : Cmd) : Bool :=
  unresolved c && c.q.tag != 0 &&
    (packetObject c.packet == some index ||
      match ctxAt b c.q.tag.toNat with
      | none => false
      | some x => (packetRanges c.packet).any (reaches x index) || (c.opcode == 0x22 && b.ctxs.any (fun e =>
          e.2.fn == c.q.fn && e.2.mappings.any (fun m => m.object == index))))

/-- Whether an object is referenced (R264): by commands and steps that name or reach it, by those fetched before its MEM_FREE
that have yet to resolve their ranges, and by adapter bindings. What a STEP's walk may reach is what the contexts of its function
map (log entry 80). -/
def objReferenced (b : Block) (vf index free : Nat) : Bool :=
  b.dealer.cmds.any (fun c => c.q.fn == vf && (c.refs.contains index || (decide (c.id < free) && mayReference b index c))) ||
  b.dealer.steps.any (fun s => s.fn == vf && (s.refs.contains index || (unwalked s && decide (s.cmd < free) &&
    b.ctxs.any (fun e => e.2.fn == vf && e.2.mappings.any (fun m => m.object == index))))) ||
  b.dealer.adapters.any (fun e => e.2.bound && e.2.object == index && ctxVf b e.2.tag.toNat == vf)

/-- Mappings of an object in a context. -/
def mapsObject (c : Ctx) (index : Nat) : Bool := c.mappings.any (fun m => m.object == index)

/-- Every mapping of an object removed from the contexts of its partition. -/
def unmapObject (b : Block) (vf index : Nat) : Block :=
  (b.ctxs.filter (fun e => e.2.fn == vf && mapsObject e.2 index)).foldl
    (fun c e => setMappings c e.1 (fun l => l.filter (fun m => m.object != index))) b

/-- The VA ranges of an object's mappings, each under the tag of its context (R296). -/
def objectVas (b : Block) (vf index : Nat) : List (BitVec 16 × Nat × Nat) :=
  (b.ctxs.filter (fun e => e.2.fn == vf)).flatMap (fun e =>
    (e.2.mappings.filter (fun m => m.object == index)).map (fun m => (BitVec.ofNat 16 e.1, m.va, m.va + m.bytes)))

/-- A DYING object without references: its mappings are removed under an invalidation, or its zeroing starts (R266). -/
def releaseObject (b : Block) (vf index : Nat) : Block :=
  if b.ctxs.any (fun e => e.2.fn == vf && mapsObject e.2 index) then
    let id := b.xlat.nextInv
    setObj (startInval (unmapObject b vf index) (.objectFree vf index) (.vas (objectVas b vf index)) false) vf index (.unmapping id)
  else objectUnmapped b vf index

/-- Whether an object is DYING and unreferenced. -/
def objEnds (b : Block) (vf index : Nat) (o : Obj) : Bool :=
  match o.state with
  | .dying free => !objReferenced b vf index free
  | _ => false

/-- The DYING objects of a partition that nothing references. -/
def dyingFree (b : Block) (e : Nat × Part) : List (Nat × Nat) :=
  (e.2.objects.filter (fun (o : Nat × Obj) => objEnds b e.1 o.1 o.2)).map (fun o => (e.1, o.1))

def releaseObjects (b : Block) : Block :=
  (b.parts.flatMap (dyingFree b)).foldl (fun c e => releaseObject c e.1 e.2) b

/-! ## Plans and adapter slots -/

/-- Tiles an image takes in the plan store (R170). -/
def storeTiles (n : Nat) : Nat := ceilDiv n 4096

/-- A plan's store space and table index are freed (R173). -/
def freePlan (b : Block) (tag index : Nat) : Block := modCtx b tag (fun c => { c with plans := tabDel c.plans index })

/-- The plan a STEP's packet names. -/
def packetPlan : Instr → Option Nat
  | .stepCmd _ _ plan _ _ _ => some (plan.toNat % 256)
  | _ => none

/-- Whether a step keeps a dying plan alive: it names the plan and was fetched before the PLAN_UNLOAD (R173). -/
def planInUse (b : Block) (c : Cmd) (index : Nat) : Bool :=
  b.dealer.steps.any (fun s => s.tag == c.q.tag && s.plan.toNat % 256 == index && decide (s.cmd < c.id)) ||
  b.dealer.cmds.any (fun d => d.q.tag == c.q.tag && packetPlan d.packet == some index && isHeld d && decide (d.id < c.id))

/-- PLAN_UNLOADs whose last step has retired complete. -/
def planUnloads (b : Block) : Block :=
  b.dealer.cmds.foldl (fun s c =>
    match c.stage with
    | .planUnload i => if planInUse s c i then s else finish (freePlan s c.q.tag.toNat i) c.id stOk 0
    | _ => s) b

/-- Whether a deal seats an adapter slot. -/
def dealUses (d : Deal) (slot : Nat) : Bool := d.seats.any (fun q => q.valid && q.adapterSlot.toNat == slot)

/-- Whether a step, or a held deal, holds resolved ranges of an adapter slot (R205, R208; log entry 38). -/
def adapterInUse (b : Block) (slot : Nat) : Bool :=
  b.dealer.steps.any (fun s => match s.deal with
    | some d => dealUses d slot
    | none => false) ||
  b.ctxs.any (fun e => match e.2.held with
    | some h => dealUses h.deal slot
    | none => false)

/-- A slot freed, its generation kept. -/
def freeAdapter (b : Block) (i : Nat) : Block := setAdapter b i { adapterNone with gen := (adapterAt b i).gen }

/-- ADAPTER_RELEASEs whose last step has retired complete, with the current half (R205). -/
def adapterReleases (b : Block) : Block :=
  b.dealer.cmds.foldl (fun s c =>
    match c.stage with
    | .adapterRelease i =>
      if adapterInUse s i then s else finish (freeAdapter s i) c.id stOk (if (adapterAt s i).half then 1 else 0)
    | _ => s) b

/-! ## Stage 5 of CTX_DESTROY (R258, R381, R435) -/

def addCounters (x y : Counters) : Counters :=
  ⟨x.unitTicks + y.unitTicks, x.plannedNj + y.plannedNj, x.hostBytes + y.hostBytes, x.farBytes + y.farBytes,
   x.stackBytes + y.stackBytes, x.galleryBytes + y.galleryBytes, x.committed + y.committed, x.lost + y.lost⟩

/-- Counters of a destroyed context move to the retired table, or to its partition's totals when that is full (R435). -/
def retire (b : Block) (vf tag : Nat) (x : Counters) : Block :=
  if x = Counters.zero then b
  else if b.acct.retired.length < 4096 then
    { b with acct := { b.acct with retired := b.acct.retired ++ [⟨vf, tag, x⟩] } }
  else modPart b vf (fun p => { p with totals := addCounters p.totals x })

/-- Deal lists left by a context's ended steps zeroed (R380): those not in use whose header holds the tag. -/
def zeroLists (b : Block) (vf tag : Nat) : Block :=
  match partAt b vf with
  | none => b
  | some p =>
    let base := (areaRange (areaOf p.desc 0)).ipa
    let used := usedLists b vf
    (List.range 64).foldl (fun c i =>
      if used.contains i then c
      else
        match stage2 c p (base + i * 69632) with
        | some h => if memReadLE c.mem.bytes (h.out + 6) 2 = tag then zeroIpa c vf ⟨base + i * 69632, 69632⟩ else c
        | none => c) b

/-- Areas of a destroyed context that are zeroed afterwards: its spill area and its plans' store space (R381). -/
def freedAreas (p : Part) (c : Ctx) : List IpaRange :=
  let n := sum (c.plans.map (fun e => storeTiles e.2.length))
  (if c.spillTiles = 0 then [] else [⟨c.spill.toNat, c.spillTiles * 4096⟩]) ++
  (if n = 0 then [] else [⟨(areaRange (areaOf p.desc 3)).ipa, n * 4096⟩])

/-- The Dealer's entries of a context, freed (R198, R205). -/
def freeEntries (b : Block) (tag : Nat) : Block :=
  modDealer b (fun d => { d with
    seqs := d.seqs.filterMap (fun e => if e.2.tag.toNat = tag then (if e.2.gen = 0 then none else some (e.1, freeSeq e.2.gen)) else some e)
    adapters := d.adapters.filterMap (fun e =>
      if e.2.bound && e.2.tag.toNat == tag then (if e.2.gen = 0 then none else some (e.1, { adapterNone with gen := e.2.gen })) else some e) })

/-- Whether anything of an aborted context is left that stage 5 waits for (R258). -/
def ctxBusy (b : Block) (fn tag : Nat) : Bool :=
  b.dealer.cmds.any (fun c => c.q.tag.toNat == tag || (c.q.fn == fn && c.q.tag != 0 && (match c.stage with
    | .done st _ => st == stAborted
    | _ => false))) ||
  b.dealer.steps.any (fun s => stepTouches tag s)

/-- A context's resources released: plans, slots, sequences, mappings, spill area, resident slot, state (R258 stage 5). -/
def stripCtx (b : Block) (tag : Nat) : Block :=
  match ctxAt b tag with
  | none => b
  | some c =>
    let b1 := match partAt b c.fn with
      | none => b
      | some p => setParts b c.fn p c
    let b2 := retire (zeroLists (freeEntries b1 tag) c.fn tag) c.fn tag c.counters
    modCtx b2 tag (fun x => { x with
      sqs := [], cqs := [], fencePage := 0, fenceCount := 0, spill := 0, spillTiles := 0, plans := [], held := none, resident := false
      wantsSwapIn := false, wantsSince := none, swapRound := none, mappings := [], tables := [], counters := Counters.zero
      closing := none, closed := none })
where
  setParts (b : Block) (vf : Nat) (p : Part) (c : Ctx) : Block :=
    modPart b vf (fun q => { q with
      zeroing := q.zeroing ++ freedAreas p c
      objects := tabMap q.objects (fun _ o => if o.creator.toNat = tag then { o with creator := 0 } else o) })

/-- Stage 5 begins for each CTX_DESTROY whose context's work has stopped and been recorded. -/
def ctxDestroys (b : Block) : Block :=
  b.dealer.cmds.foldl (fun s c =>
    match c.stage with
    | .ctxDestroy tag none =>
      if ctxBusy s c.q.fn tag.toNat then s
      else
        let s1 := stripCtx s tag.toNat
        setCmd (startInval s1 (.ctxDestroy tag) (.ctx tag) false) c.id (.ctxDestroy tag (some s1.xlat.nextInv))
    | _ => s) b

/-! ## Functions that are being reset or taken down (R347, R355, R376) -/

/-- What is left of a command's step leaves with it, its pins released. -/
def dropStepOf (b : Block) (cmd : Nat) : Block :=
  match b.dealer.steps.find? (fun s => s.cmd == cmd) with
  | none => b
  | some s => modDealer (if stepPinned s then releasePins b s else b) (fun d => { d with steps := d.steps.filter (fun x => x.id != s.id) })

/-- Commands that end without a record leave once they have ended. -/
def dropSuppressed (b : Block) : Block :=
  (b.dealer.cmds.filter (fun c => c.suppressed && isDone c)).foldl
    (fun s c => noteEnded (dropCmd (dropStepOf s c.id) c.id) c.id) b

def delCtx (b : Block) (tag : Nat) : Block := { b with ctxs := tabDel b.ctxs tag }

/-- Whether a CTX_DESTROY of a context is under way. -/
def hasDestroy (b : Block) (tag : Nat) : Bool :=
  b.dealer.cmds.any (fun c => match c.stage with
    | .ctxDestroy t _ => t.toNat == tag
    | _ => false)

/-- Contexts aborted by a reset or a PART_DESTROY whose work has stopped pass through stage 5 of R258. -/
def orphans (b : Block) : Block :=
  (b.ctxs.filter (fun (e : Nat × Ctx) => e.2.state == .destroying && !hasDestroy b e.1)).foldl
    (fun s e => if ctxBusy s e.2.fn e.1 then s else delCtx (stripCtx s e.1) e.1) b

/-- The next draw of the Grotto's generator (R361). -/
def draw (b : Block) : Block × BitVec 512 :=
  ({ b with grotto := { b.grotto with draws := b.grotto.draws + 1 } }, Config.random b.grotto.draws)

/-- A new far key for a partition (R322, R342). -/
def newFarKey (b : Block) (vf : Nat) : Block :=
  let r := draw b
  { r.1 with grotto := { r.1.grotto with farKeys := tabSet r.1.grotto.farKeys vf r.2 } }

/-- The physical ranges of a partition's carve-outs (R338). -/
def carveRanges (d : PartDesc) : List (Nat × Nat) :=
  (rangeFrom d.stackFirst d.stackDies).map (fun k => (stackBase k + d.stackGranule * gib, d.stackGib * gib)) ++
  (rangeFrom d.galleryFirst d.galleryDies).map (fun k => (galleryBase k + d.galleryOffset * mib, d.galleryMib * mib)) ++
  (rangeFrom d.farFirst d.farChannels).map (fun c => (farBase c + d.farGranule * gib, d.farGib * gib))

/-- The carve-outs zeroed (R342, R355). -/
def zeroCarve (b : Block) (d : PartDesc) : Block := (carveRanges d).foldl (fun c r => zeroPhys c r.1 r.2) b

/-- A session of a mailbox ends: its partition's session key is destroyed with it (R369, R370). -/
def endSessionOf (b : Block) (fn : Nat) : Block :=
  { b with grotto := { b.grotto with sessions := tabDel b.grotto.sessions fn, sessionKeys := tabDel b.grotto.sessionKeys fn } }

/-- A mailbox whose held notice is discarded without a reply (R397). -/
def Mbox.discard (m : Mbox) : Mbox := { m with notice := 0, full := false, replyLost := none, taken := none }

def setTdisp (b : Block) (vf : Nat) (g : Tdisp → Tdisp) : Block :=
  { b with grotto := { b.grotto with tdisp := tabMod b.grotto.tdisp vf g } }

/-- The rest of a STOP scrub, once the partition's contexts are gone: its objects freed, its carve-outs zeroed under a new far
key, its session and migration keys destroyed, its secure mailbox gone; the response follows (R369, R373, R376, R397). -/
def stopScrub (b : Block) (vf : Nat) (p : Part) (answer : Bool) : Block :=
  let b1 := newFarKey (zeroCarve b p.desc) vf
  let b2 := modPart b1 vf (fun q => { q with objects := [], zeroing := [], ending := none })
  let b3 := modFn (endSessionOf { b2 with grotto := { b2.grotto with migrationKeys := tabDel b2.grotto.migrationKeys vf } } vf) vf
    (fun x => { x with gr := x.gr.discard })
  let b4 := setTdisp b3 vf (fun t => { t with state := .unlocked, stream := 0, report := [] })
  if answer then grReply b4 0 .tdispOk else b4

/-- STOP scrubs whose partitions have come to rest. -/
def stopScrubs (b : Block) : Block :=
  b.parts.foldl (fun c (e : Nat × Part) =>
    match e.2.ending with
    | some (.scrub answer) => if (ctxsOf c e.1).isEmpty then stopScrub c e.1 e.2 answer else c
    | _ => c) b

/-! ## All of it -/

/-- What follows when commands or steps have ended: aborted steps whose trick has run, STEPs taken up again (R206, R215,
R297), and what their ends free. -/
def settle (b : Block) : Block :=
  stopScrubs (releaseObjects (orphans (ctxDestroys (adapterReleases (planUnloads (takeUpAll (dropSuppressed (endAborted b))))))))

end Sys2Proof.Machine
end

