-- ==== Sys2Proof/Machine/Objects.lean ====
section
/-!
DEFINITION. Memory objects and mappings: MEM_MAP, MEM_UNMAP, MEM_FREE (R260 to R267, R279 to R281), and the ends of zeroing
(R266, R381).
-/

namespace Sys2Proof.Machine

open Sys2Proof

/-! ## Handles (R260) -/

def objHandle (vf index : Nat) (gen : BitVec 10) : BitVec 32 := BitVec.ofNat 32 (vf * 2 ^ 26 + gen.toNat * 2 ^ 16 + index)

/-- What a handle names for a function's command: a status, or an index and its object. -/
def lookupObj (b : Block) (fn : Nat) (handle : BitVec 32) (cmd : Nat) : Except (BitVec 16) (Nat × Obj) :=
  let index := handle.toNat % 2 ^ 16
  if handle.toNat / 2 ^ 26 ≠ fn then .error stNotPermitted
  else
    match partAt b fn with
    | none => .error stObjectGone
    | some p =>
      match tabGet p.objects index with
      | none => .error stObjectGone
      | some o => if o.gen.toNat = handle.toNat / 2 ^ 16 % 2 ^ 10 ∧ objGone o cmd = false then .ok (index, o) else .error stObjectGone

/-- A generation of n bits advanced, zero skipped. -/
def nextGen {n : Nat} (g : BitVec n) : BitVec n := if g + 1 = 0 then 1 else g + 1

/-- The objects a command references (R264). -/
def setRefs (b : Block) (id : Nat) (refs : List Nat) : Block :=
  modDealer b (fun d => { d with cmds := d.cmds.map (fun c => if c.id = id then { c with refs := refs } else c) })

/-! ## MEM_MAP -/

/-- log2 of a page size by its code (R246); none for a code that is not listed. -/
def pageLogOf (page : BitVec 8) : Option Nat :=
  if page = 0 then some 12 else if page = 1 then some 21 else if page = 2 then some 30 else none

/-- Attributes a tier may have (R261). -/
def attrsOk (tier attrs : BitVec 8) : Bool :=
  decide (attrs.toNat < 16) &&
  (if tier = 0 then !attrs.getLsbD 3
   else if tier = 1 then attrs.getLsbD 0 && attrs.getLsbD 3
   else if tier = 2 ∨ tier = 3 then attrs.getLsbD 0 && !attrs.getLsbD 1 && !attrs.getLsbD 3
   else false)

/-- Whether a page at an IPA crosses a repeat boundary of a stage-2 range (R279). -/
def crossesRepeat (p : Part) (ipa page : Nat) : Bool :=
  (List.range 16).any (fun i =>
    let e := s2Entry p i
    s2Valid e && (List.range (s2Repeats e + 1)).any (fun k =>
      decide (ipa < s2Base e + k * s2Length e) && decide (s2Base e + k * s2Length e < ipa + page)))

/-- Whether a host object's backing keeps R262 and R279, and meets neither the descriptor area nor the stage-1 table area, which no
context maps (R252; log entry 113). -/
def backingOk (p : Part) (backing bytes pageLog : Nat) : Bool :=
  decide (backing % 2 ^ pageLog = 0) && decide (backing + bytes ≤ 2 ^ 48) &&
  !meets (areaRange (areaOf p.desc 1)) backing bytes && !meets (areaRange (areaOf p.desc 2)) backing bytes &&
  (pageLog == 12 || (List.range (bytes / 2 ^ pageLog)).all (fun k => !crossesRepeat p (backing + k * 2 ^ pageLog) (2 ^ pageLog)))

/-- The range of a mapping may be mapped: nonzero, aligned, in 48 bits, no overlap (R246). -/
def rangeOk (c : Ctx) (va bytes pageLog : Nat) : Bool :=
  bytes != 0 && decide (va % 2 ^ pageLog = 0) && decide (bytes % 2 ^ pageLog = 0) && decide (va + bytes ≤ 2 ^ 48) &&
  !(c.mappings.any (fun m => overlap m.va m.bytes va bytes))

/-- A mapping made; the command references its object (R264). -/
def addMapping (b : Block) (tag id : Nat) (m : Mapping) : Block :=
  setRefs (setMappings b tag (fun l => l ++ [m])) id [m.object]

/-- MEM_MAP of an existing object (R263). -/
def mapExisting (q : QRef) (va bytes : BitVec 64) (handle : BitVec 32) (tier attrs : BitVec 8) (pageLog : Nat)
    (access : BitVec 8) (off backing : BitVec 64) (id : Nat) (p : Part) (c : Ctx) (b : Block) : Block :=
  if tier ≠ 0 ∨ attrs ≠ 0 ∨ backing ≠ 0 then finish b id stInvalidField 0
  else
    match lookupObj b q.fn handle id with
    | .error st => finish b id st 0
    | .ok (index, o) =>
      let m : Mapping := ⟨va.toNat, bytes.toNat, pageLog, index, off.toNat, access.getLsbD 0, access.getLsbD 1⟩
      if o.pageLog < pageLog ∨ off.toNat % 2 ^ pageLog ≠ 0 ∨ o.bytes < off.toNat + bytes.toNat then finish b id stInvalidField 0
      else if access.getLsbD 0 && o.attrs.getLsbD 2 then finish b id stNotPermitted 0
      else if !tablesFit b q.fn q.tag.toNat p (c.mappings ++ [m]) then finish b id stNoResource 0
      else finish (addMapping b q.tag.toNat id m) id stOk handle

/-- MEM_MAP that creates an object (R262); a writable mapping of a read-only one is refused (R246, R279). -/
def mapNew (q : QRef) (va bytes : BitVec 64) (tier attrs : BitVec 8) (pageLog : Nat) (access : BitVec 8)
    (off backing : BitVec 64) (id : Nat) (p : Part) (c : Ctx) (b : Block) : Block :=
  if off ≠ 0 ∨ attrsOk tier attrs = false ∨ (tier ≠ 0 ∧ backing ≠ 0) ∨
      (tier = 0 ∧ backingOk p backing.toNat bytes.toNat pageLog = false) then finish b id stInvalidField 0
  else if access.getLsbD 0 && attrs.getLsbD 2 then finish b id stNotPermitted 0
  else
    let index := lowestFree p.objects 0
    if 65536 ≤ index then finish b id stNoResource 0
    else
      let m : Mapping := ⟨va.toNat, bytes.toNat, pageLog, index, 0, access.getLsbD 0, access.getLsbD 1⟩
      let ext := if tier = 0 then some [⟨0, backing.toNat, bytes.toNat⟩]
        else allocObject b q.fn p tier.toNat (2 ^ pageLog) bytes.toNat
      match ext with
      | none => finish b id stNoResource 0
      | some l =>
        if !tablesFit b q.fn q.tag.toNat p (c.mappings ++ [m]) then finish b id stNoResource 0
        else
          let gen := nextGen (tabGetD p.objectGens index 0)
          let o : Obj := ⟨gen, .live, tier.toNat, attrs, pageLog, bytes.toNat, l, backing.toNat, q.tag⟩
          let b1 := modPart b q.fn (fun x => { x with objects := tabSet x.objects index o, objectGens := tabSet x.objectGens index gen })
          finish (addMapping b1 q.tag.toNat id m) id stOk (objHandle q.fn index gen)

/-- MEM_MAP (R262, R263). -/
def doMemMap (q : QRef) (va bytes : BitVec 64) (handle : BitVec 32) (tier attrs page access : BitVec 8)
    (off backing : BitVec 64) (id : Nat) (b : Block) : Block :=
  match ctxAt b q.tag.toNat, partAt b q.fn, pageLogOf page with
  | some c, some p, some pl =>
    if rangeOk c va.toNat bytes.toNat pl = false ∨ 4 ≤ access.toNat then finish b id stInvalidField 0
    else if handle = 0 then mapNew q va bytes tier attrs pl access off backing id p c b
    else mapExisting q va bytes handle tier attrs pl access off backing id p c b
  | _, _, _ => finish b id stInvalidField 0

/-- MEM_MAP. -/
def execMemMap (q : QRef) (h : Hdr) (va bytes : BitVec 64) (handle : BitVec 32) (tier attrs page access : BitVec 8)
    (objectOffset backing : BitVec 64) (s : State) : Host.Outcome State Fault Refusal :=
  onBlock (fetchPacket (.memMap q h va bytes handle tier attrs page access objectOffset backing) q h 0x10
    (doMemMap q va bytes handle tier attrs page access objectOffset backing)) s

/-! ## MEM_UNMAP -/

/-- MEM_UNMAP (R267, R281): the range must be a union of whole mappings; it completes with its invalidation. A page of an
object freed before it refuses it (R265). -/
def doMemUnmap (q : QRef) (va bytes : BitVec 64) (id : Nat) (b : Block) : Block :=
  match ctxAt b q.tag.toNat with
  | none => finish b id stInvalidField 0
  | some c =>
    let hit := c.mappings.filter (fun m => overlap m.va m.bytes va.toNat bytes.toNat)
    let whole := hit.all (fun m => decide (va.toNat ≤ m.va) && decide (m.va + m.bytes ≤ va.toNat + bytes.toNat))
    let gone := match partAt b q.fn with
      | none => false
      | some p => hit.any (fun m => match tabGet p.objects m.object with
        | some o => objGone o id
        | none => false)
    if bytes = 0 ∨ whole = false ∨ sum (hit.map (fun m => m.bytes)) ≠ bytes.toNat then finish b id stInvalidField 0
    else if gone then finish b id stObjectGone 0
    else
      let b1 := setMappings b q.tag.toNat (fun l => l.filter (fun m => !(hit.contains m)))
      let b2 := setRefs b1 id (hit.map (fun m => m.object))
      let inv := b2.xlat.nextInv
      setCmd (startInval b2 (.unmap id) (.va q.tag va.toNat (va.toNat + bytes.toNat)) false) id (.invalidation inv)

/-- MEM_UNMAP. -/
def execMemUnmap (q : QRef) (h : Hdr) (va bytes : BitVec 64) (s : State) : Host.Outcome State Fault Refusal :=
  onBlock (fetchPacket (.memUnmap q h va bytes) q h 0x11 (doMemUnmap q va bytes)) s

/-! ## MEM_FREE -/

/-- MEM_FREE (R265): the object is DYING, and is freed when its last reference is released (R266). -/
def doMemFree (q : QRef) (handle : BitVec 32) (id : Nat) (b : Block) : Block :=
  match lookupObj b q.fn handle id with
  | .error st => finish b id st 0
  | .ok (index, o) =>
    match o.state with
    | .live => setCmd (setObj b q.fn index (.dying id)) id (.memFree q.fn index)
    | _ => finish b id stObjectGone 0

/-- MEM_FREE. -/
def execMemFree (q : QRef) (h : Hdr) (handle : BitVec 32) (s : State) : Host.Outcome State Fault Refusal :=
  onBlock (fun b => settle (fetchPacket (.memFree q h handle) q h 0x15 (doMemFree q handle) b)) s

/-! ## Ends of zeroing -/

/-- The zeroing of a freed object ends (R266). -/
def objectZeroDone (vf index : Nat) (b : Block) : Block :=
  match partAt b vf with
  | none => b
  | some p =>
    match tabGet p.objects index with
    | none => b
    | some o => if alive b ∧ o.state = .zeroing then freeObject b vf index else b

/-- OBJECT_ZERO_DONE. -/
def execObjectZeroDone (vf : Nat) (index : BitVec 16) (s : State) : Host.Outcome State Fault Refusal :=
  onBlock (objectZeroDone vf index.toNat) s

/-- The bytes of a partition's freed areas are zeroed and become free (R381); those of the plan store are a count of tiles. -/
def areaZeroingEnd (vf : Nat) (b : Block) : Block :=
  match partAt b vf with
  | none => b
  | some p =>
    if alive b then
      let store := (areaRange (areaOf p.desc 3)).ipa
      let b1 := (p.zeroing.filter (fun r => r.ipa != store)).foldl (fun c r => zeroIpa c vf r) b
      modPart b1 vf (fun q => { q with zeroing := [] })
    else b

/-- AREA_ZEROING_END. -/
def execAreaZeroingEnd (vf : Nat) (s : State) : Host.Outcome State Fault Refusal := onBlock (areaZeroingEnd vf) s

end Sys2Proof.Machine
end

