-- ==== Sys2Proof/Machine/Sequences.lean ====
section
/-!
DEFINITION. Sequences and adapter slots: SEQ_OPEN, SEQ_CLOSE, SEQ_UPDATE (R194 to R199), ADAPTER_BIND and ADAPTER_RELEASE
(R202 to R205).
-/

namespace Sys2Proof.Machine

open Sys2Proof

/-! ## Sequences -/

/-- Whether sequence fields lie in the ranges of R197 and R246. -/
def seqFieldsOk (c : Ctx) (f : SeqFields) : Bool :=
  decide (f.control.toNat < 64) && decide (f.kvListPages.toNat ≤ 1048576) && decide (f.kvListVa.toNat % 8 = 0) &&
  decide (f.kvListVa.toNat < 2 ^ 48) && decide (f.inputVa.toNat % 4096 = 0) && decide (f.inputVa.toNat < 2 ^ 48) &&
  decide (f.kvLength.toNat ≤ f.kvCapacity.toNat) &&
  (f.notifyFence == 0xFFFF || decide (f.notifyFence.toNat < c.fenceCount))

/-- A sequence handle (R196). -/
def seqHandle (i : Nat) (gen : BitVec 18) : BitVec 32 := gen ++ BitVec.ofNat 14 i

/-- SEQ_OPEN (R194, R198). -/
def doSeqOpen (q : QRef) (f : SeqFields) (id : Nat) (b : Block) : Block :=
  match ctxAt b q.tag.toNat, partAt b q.fn with
  | some c, some p =>
    if seqFieldsOk c f then
      match (rangeFrom p.desc.seqBase p.desc.seqCount).find? (fun i => (seqAt b i).state == .free) with
      | none => finish b id stNoResource 0
      | some i =>
        let gen := nextGen (seqAt b i).gen
        finish (setSeq b i ⟨gen, q.tag, .isOpen, f, none, 0, 0⟩) id stOk (seqHandle i gen)
    else finish b id stInvalidField 0
  | _, _ => finish b id stInvalidField 0

/-- SEQ_OPEN. -/
def execSeqOpen (q : QRef) (h : Hdr) (f : SeqFields) (s : State) : Host.Outcome State Fault Refusal :=
  onBlock (fetchPacket (.seqOpen q h f) q h 0x30 (doSeqOpen q f)) s

/-- The entry a handle names for a context's command (R196): the current generation of an entry of that context. -/
def lookupSeq (b : Block) (tag : BitVec 16) (handle : BitVec 32) : Option (Nat × Seq) :=
  let i := handle.toNat % 2 ^ 14
  let e := seqAt b i
  if e.state ≠ .free ∧ e.gen.toNat = handle.toNat / 2 ^ 14 ∧ e.tag = tag then some (i, e) else none

/-- SEQ_CLOSE (R198): an OPEN entry is freed, any other waits for its deal to end. -/
def doSeqClose (q : QRef) (handle : BitVec 32) (id : Nat) (b : Block) : Block :=
  match lookupSeq b q.tag handle with
  | none => finish b id stObjectGone 0
  | some (i, e) =>
    if e.state = .isOpen then finish (seqFree b i) id stOk 0
    else setCmd (setSeq b i { e with state := .closing }) id (.seqClose i)

/-- SEQ_CLOSE. -/
def execSeqClose (q : QRef) (h : Hdr) (handle : BitVec 32) (s : State) : Host.Outcome State Fault Refusal :=
  onBlock (fetchPacket (.seqClose q h handle) q h 0x31 (doSeqClose q handle)) s

/-- A field the mask names is taken from the packet. -/
def pick {α : Type} (mask : BitVec 16) (n : Nat) (new old : α) : α := if mask.getLsbD n then new else old

/-- The fields a SEQ_UPDATE leaves (R199). -/
def mergeSeq (mask : BitVec 16) (n o : SeqFields) : SeqFields :=
  { control := pick mask 0 n.control o.control, view := pick mask 1 n.view o.view, advance := pick mask 2 n.advance o.advance,
    adapter := pick mask 3 n.adapter o.adapter, position := pick mask 4 n.position o.position,
    kvLength := pick mask 5 n.kvLength o.kvLength, kvCapacity := pick mask 6 n.kvCapacity o.kvCapacity,
    kvListPages := pick mask 7 n.kvListPages o.kvListPages, kvListVa := pick mask 8 n.kvListVa o.kvListVa,
    inputVa := pick mask 9 n.inputVa o.inputVa, inputTiles := pick mask 10 n.inputTiles o.inputTiles,
    budget := pick mask 11 n.budget o.budget, notifyFence := pick mask 12 n.notifyFence o.notifyFence }

/-- Whether two settings of the fields differ in what may change in OPEN alone (R199). -/
def openOnly (n o : SeqFields) : Bool :=
  { n with control := o.control, view := o.view, budget := o.budget, notifyFence := o.notifyFence } != o

/-- What a seated entry is to change at its next deal, a mask's fields set anew. -/
def mergeLater (mask : BitVec 16) (n : SeqFields) (o : Option SeqLater) : SeqLater :=
  let l := o.getD ⟨none, none, none, none⟩
  ⟨pick mask 0 (some n.control) l.control, pick mask 1 (some n.view) l.view, pick mask 11 (some n.budget) l.budget,
   pick mask 12 (some n.notifyFence) l.notifyFence⟩

/-- An entry updated: at once in OPEN, else from its next deal on. -/
def updateSeq (mask : BitVec 16) (f : SeqFields) (e : Seq) : Seq :=
  if e.state = .isOpen then { e with f := mergeSeq mask f e.f } else { e with later := some (mergeLater mask f e.later) }

/-- SEQ_UPDATE (R199). A field whose mask bit is clear must be zero (R246). -/
def doSeqUpdate (q : QRef) (f : SeqFields) (mask : BitVec 16) (handle : BitVec 32) (id : Nat) (b : Block) : Block :=
  if 2 ^ 13 ≤ mask.toNat ∨ mergeSeq mask SeqFields.zero f ≠ SeqFields.zero then finish b id stInvalidField 0
  else
    match lookupSeq b q.tag handle, ctxAt b q.tag.toNat with
    | some (i, e), some c =>
      let new := mergeSeq mask f (nextFields e)
      if seqFieldsOk c new = false then finish b id stInvalidField 0
      else if e.state ≠ .isOpen ∧ openOnly new (nextFields e) = true then finish b id stBusy 0
      else finish (setSeq b i (updateSeq mask f e)) id stOk 0
    | _, _ => finish b id stObjectGone 0

/-- SEQ_UPDATE. -/
def execSeqUpdate (q : QRef) (h : Hdr) (f : SeqFields) (mask : BitVec 16) (handle : BitVec 32) (s : State) :
    Host.Outcome State Fault Refusal :=
  onBlock (fetchPacket (.seqUpdate q h f mask handle) q h 0x32 (doSeqUpdate q f mask handle)) s

/-! ## Adapter slots -/

/-- The one object whose mappings hold n tiles from a VA, if there is one (R202). -/
def rangeObject (c : Ctx) (va n : Nat) : Option Nat :=
  match mappingAt c.mappings va with
  | none => none
  | some m =>
    if (List.range n).all (fun k => match mappingAt c.mappings (va + 4096 * k) with
        | some m' => m'.object == m.object
        | none => false) then some m.object else none

/-- Whether an object's tier may hold adapters (R202). -/
def adapterTier (b : Block) (tier : Nat) : Bool :=
  tier == tierStack || tier == tierGallery || (tier == tierFar && (bld b).stackMask == 0)

/-- An adapter handle (R203). -/
def adapterHandle (i : Nat) (gen : BitVec 22) : BitVec 32 := gen ++ BitVec.ofNat 10 i

/-- ADAPTER_BIND (R194, R202, R203). -/
def doAdapterBind (q : QRef) (va : BitVec 64) (tiles : BitVec 32) (flags : BitVec 8) (id : Nat) (b : Block) : Block :=
  match ctxAt b q.tag.toNat, partAt b q.fn with
  | some c, some p =>
    let w := flags.getLsbD 0
    if 2 ≤ flags.toNat ∨ va.toNat % 4096 ≠ 0 ∨ 2 ^ 48 ≤ va.toNat ∨ tiles = 0 ∨ (w = true ∧ tiles.toNat % 2 ≠ 0) then
      finish b id stInvalidField 0
    else
      match rangeObject c va.toNat tiles.toNat with
      | none => finish b id stInvalidField 0
      | some index =>
        match tabGet p.objects index with
        | none => finish b id stInvalidField 0
        | some o =>
          if adapterTier b o.tier = false then finish b id stInvalidField 0
          else if objGone o id then finish b id stObjectGone 0
          else if w && o.attrs.getLsbD 2 then finish b id stNotPermitted 0
          else
            match (rangeFrom p.desc.adapterBase p.desc.adapterCount).find? (fun i => !(adapterAt b i).bound) with
            | none => finish b id stNoResource 0
            | some i =>
              let gen := nextGen (adapterAt b i).gen
              let b1 := setAdapter b i ⟨true, false, gen, q.tag, va, tiles.toNat, w, false, index⟩
              finish (setRefs b1 id [index]) id stOk (adapterHandle i gen)
  | _, _ => finish b id stInvalidField 0

/-- ADAPTER_BIND. -/
def execAdapterBind (q : QRef) (h : Hdr) (va : BitVec 64) (tiles : BitVec 32) (flags : BitVec 8) (s : State) :
    Host.Outcome State Fault Refusal :=
  onBlock (fetchPacket (.adapterBind q h va tiles flags) q h 0x38 (doAdapterBind q va tiles flags)) s

/-- ADAPTER_RELEASE (R205): the slot is dying, and is freed when the last step that holds its ranges retires. -/
def doAdapterRelease (q : QRef) (handle : BitVec 32) (id : Nat) (b : Block) : Block :=
  let i := handle.toNat % 1024
  let a := adapterAt b i
  if a.bound && !a.dying && a.gen.toNat == handle.toNat / 1024 && a.tag == q.tag then
    setCmd (setAdapter b i { a with dying := true }) id (.adapterRelease i)
  else finish b id stObjectGone 0

/-- ADAPTER_RELEASE. -/
def execAdapterRelease (q : QRef) (h : Hdr) (handle : BitVec 32) (s : State) : Host.Outcome State Fault Refusal :=
  onBlock (fun b => settle (fetchPacket (.adapterRelease q h handle) q h 0x39 (doAdapterRelease q handle) b)) s

end Sys2Proof.Machine
end

