-- ==== Sys2Proof/Machine/Bases.lean ====
section
/-!
DEFINITION. The pool of granules (R305, R306, R341, R350) and the shared base-weight set: BASE_LOAD, BASE_RELEASE and the
tiles the mover brings in (R346 to R354).
-/

namespace Sys2Proof.Machine

open Sys2Proof

/-! ## The pool -/

/-- A run of numbers held: granules of a stack, a Gallery slice or a far channel. -/
structure Held where
  first : Nat
  count : Nat
  deriving DecidableEq, Repr

def freeRun (l : List Held) (first count : Nat) : Bool := !(l.any (fun h => overlap h.first h.count first count))

/-- Granules an image of base tiles takes on a stack or a far channel (R350). -/
def baseGranules (tiles : Nat) : Nat := ceilDiv tiles 262144

/-- The 1 GiB granules of a stack that partitions and base sets hold. -/
def stackHeld (b : Block) (k : Nat) : List Held :=
  (b.parts.filter (fun e => decide (e.2.desc.stackFirst ≤ k) && decide (k < e.2.desc.stackFirst + e.2.desc.stackDies))).map
    (fun e => ⟨e.2.desc.stackGranule, e.2.desc.stackGib⟩) ++
  b.dealer.bases.filterMap (fun e => (tabGet e.2.replicas k).map (fun a => ⟨a % 2 ^ 36 / gib, baseGranules e.2.tiles⟩))

/-- The 1 MiB granules of a Gallery slice that partitions hold. -/
def galleryHeld (b : Block) (d : Nat) : List Held :=
  (b.parts.filter (fun e => decide (e.2.desc.galleryFirst ≤ d) &&
    decide (d < e.2.desc.galleryFirst + e.2.desc.galleryDies))).map (fun e => ⟨e.2.desc.galleryOffset, e.2.desc.galleryMib⟩)

/-- The 1 GiB granules of a far channel that partitions and base sets hold. -/
def farHeld (b : Block) (c : Nat) : List Held :=
  (b.parts.filter (fun e => decide (e.2.desc.farFirst ≤ c) && decide (c < e.2.desc.farFirst + e.2.desc.farChannels))).map
    (fun e => ⟨e.2.desc.farGranule, e.2.desc.farGib⟩) ++
  b.dealer.bases.filterMap (fun e => (tabGet e.2.golden c).map (fun a => ⟨a % 2 ^ 36 / gib, baseGranules e.2.tiles⟩))

/-- Granules of a far channel that can be held: the far reserve is left out (R306). -/
def farGranules (b : Block) : Nat := (bld b).farGib - 1

/-- The lowest free run of granules below a limit. -/
def lowestRun (l : List Held) (limit count : Nat) : Option Nat :=
  (List.range (limit + 1 - count)).find? (fun g => freeRun l g count)

/-! ## The descriptor (R346) -/

def baseFree : BaseSet := ⟨0, .failed, 0, 0, 0, [], [], []⟩

/-- The id of a base set (R354). -/
def baseId (i : Nat) (gen : BitVec 30) : BitVec 32 := gen ++ BitVec.ofNat 2 i

/-- The set an id names. -/
def baseAt (b : Block) (id : BitVec 32) : Option BaseSet :=
  match tabGet b.dealer.bases (id.toNat % 4) with
  | some s => if s.gen.toNat = id.toNat / 4 then some s else none
  | none => none

def setBase (b : Block) (i : Nat) (s : BaseSet) : Block := modDealer b (fun d => { d with bases := tabSet d.bases i s })

/-- Region entry i of a descriptor; one of all zeros is unused. -/
def regionAt (bs : List Byte) (i : Nat) : BaseRegion :=
  ⟨leAt bs (0x48 + 8 * i) 4, leAt bs (0x4C + 8 * i) 3, bs.getD (0x4F + 8 * i) 0⟩

def baseRegions (bs : List Byte) : List BaseRegion := (List.range 8).map (regionAt bs)

/-- Whether a base descriptor passes the checks of R346 and R350. -/
def baseDescOk (b : Block) (bs : List Byte) : Bool :=
  let tiles := leAt bs 0x0C 4
  leAt bs 0 4 == 0x45534142 && leAt bs 4 2 == 0x0100 && allZero (bs.drop 0x88) && tiles != 0 &&
  decide (leAt bs 6 2 < 2 ^ 12) && (maskBits 12 (leAt bs 6 2)).all (fun k => stackHere b k) &&
  decide (leAt bs 0x10 8 % 4096 = 0) &&
  (baseRegions bs).all (fun r => decide (r.first + r.count ≤ tiles) && decide (r.fmt.toNat ≤ 7))

/-- Base entries a set needs on a die (R352). -/
def baseEntries (mask tiles d : Nat) : Nat :=
  let r := baseGranules tiles
  (if bit mask d then r else 0) + (if (rangeFrom (d / 4 * 4) 4).all (fun k => bit mask k) then 3 * r else 0) + r

/-- Physical address of a tile of the golden image (R353). -/
def goldenTile (b : Block) (s : BaseSet) (i : Nat) : Nat :=
  let ch := farChannels b
  let m := ch.length
  tabGetD s.golden (ch.getD (i % m) 0) 0 + i / m * 4096

/-- The base entries of a set on a die, each of 262,144 tiles: for its own replica, for those of the group's other dies where all four
have one, and for the golden image (R287, R352). -/
def baseEntriesOn (b : Block) (i : Nat) (s : BaseSet) (d : Nat) : List BaseEntry :=
  let parts := List.range (baseGranules s.tiles)
  let replica := fun k => parts.map (fun n => (⟨d, i, some k, n, tabGetD s.replicas k 0 + n * gib⟩ : BaseEntry))
  let group := rangeFrom (d / 4 * 4) 4
  (if s.dieMask.getLsbD d then replica d else []) ++
  (if group.all (fun k => s.dieMask.getLsbD k) then (group.filter (fun k => k != d)).flatMap replica else []) ++
  parts.map (fun n => ⟨d, i, none, n, goldenTile b s (262144 * n)⟩)

/-- Base entries taken for a new set on every die, and given back. -/
def fillBase (b : Block) (i : Nat) (s : BaseSet) : Block :=
  { b with xlat := { b.xlat with base := b.xlat.base ++ (List.range (bld b).dies).flatMap (baseEntriesOn b i s) } }

def emptyBase (b : Block) (i : Nat) : Block :=
  { b with xlat := { b.xlat with base := b.xlat.base.filter (fun e => e.index != i) } }

/-- Whether the base entries of a new set fit every die's 256. -/
def baseEntriesFit (b : Block) (mask tiles : Nat) : Bool :=
  (List.range (bld b).dies).all (fun d =>
    decide (baseEntries mask tiles d + (b.xlat.base.filter (fun e => e.die == d)).length ≤ 256))

/-- Every member of a list placed, or none. -/
def placeAll (f : Nat → Option Nat) : List Nat → Option (Tab Nat)
  | [] => some []
  | x :: xs =>
    match f x, placeAll f xs with
    | some a, some t => some (tabSet t x a)
    | _, _ => none

/-- Replicas and golden image of a new set, if the pool has room (R350). -/
def baseRoom (b : Block) (mask tiles : Nat) : Option (Tab Nat × Tab Nat) :=
  let n := baseGranules tiles
  match placeAll (fun k => (lowestRun (stackHeld b k) 64 n).map (fun g => stackBase k + g * gib)) (maskBits 12 mask),
        placeAll (fun c => (lowestRun (farHeld b c) (farGranules b) n).map (fun g => farBase c + g * gib)) (farChannels b) with
  | some r, some g => some (r, g)
  | _, _ => none

/-- Mover slots that no partition holds. -/
def freeSlots (b : Block) : List Nat := (List.range 16).filter (fun i => !(b.parts.any (fun e => e.2.desc.moverMask.getLsbD i)))

/-- The digest of a descriptor, as the bytes read. -/
def baseDigest (bs : List Byte) : BitVec 384 := BitVec.ofNat 384 (leAt bs 0x18 48)

/-- A new set LOADING (R349, R350). -/
def baseNew (id : Nat) (bs : List Byte) (b : Block) : Block :=
  let mask := leAt bs 6 2
  let tiles := leAt bs 0x0C 4
  let i := lowestFree b.dealer.bases 0
  if 4 ≤ i ∨ baseEntriesFit b mask tiles = false ∨ freeSlots b = [] then finish b id stNoResource 0
  else
    match baseRoom b mask tiles with
    | none => finish b id stNoResource 0
    | some (reps, gold) =>
      let gen := nextGen (tabGetD b.dealer.baseGens i 0)
      let s : BaseSet := ⟨gen, .loading, BitVec.ofNat 16 mask, tiles, baseDigest bs, baseRegions bs, reps, gold⟩
      let b1 := modDealer (fillBase (setBase b i s) i s) (fun d => { d with baseGens := tabSet d.baseGens i gen })
      setCmd b1 id (.baseLoad i (leAt bs 0x10 8) 0)

/-- A FAILED set reloaded in place (R349). -/
def baseReload (id : Nat) (bs : List Byte) (b : Block) : Block :=
  let old := BitVec.ofNat 32 (leAt bs 8 4)
  match baseAt b old with
  | none => finish b id stInvalidField 0
  | some s =>
    if s.state ≠ .failed ∨ s.tiles ≠ leAt bs 0x0C 4 ∨ s.dieMask.toNat ≠ leAt bs 6 2 then finish b id stInvalidField 0
    else if freeSlots b = [] then finish b id stNoResource 0
    else
      let b1 := setBase b (old.toNat % 4) { s with state := .reloading, digest := baseDigest bs, regions := baseRegions bs }
      setCmd b1 id (.baseLoad (old.toNat % 4) (leAt bs 0x10 8) 0)

/-- BASE_LOAD (R346, R349, R350): the descriptor is read at once, the tiles by the mover. -/
def doBaseLoad (descriptor : BitVec 64) (id : Nat) (b0 : Block) : Block :=
  let b := hostAsk descriptor.toNat 256 b0
  let bs := hostRead b descriptor.toNat 256
  if baseDescOk b bs = false then finish b id stInvalidField 0
  else if leAt bs 8 4 = 0 then baseNew id bs b
  else baseReload id bs b

/-- BASE_LOAD. -/
def execBaseLoad (q : QRef) (h : Hdr) (descriptor : BitVec 64) (s : State) : Host.Outcome State Fault Refusal :=
  onBlock (fetchPacket (.baseLoad q h descriptor) q h 0x90 (doBaseLoad descriptor)) s

/-! ## Tiles (R351, R353) -/

/-- The stacks and the far channel a tile of a set is written to. -/
def baseTargets (b : Block) (s : BaseSet) (i : Nat) : List Nat :=
  s.replicas.map (fun e => e.2 + i * 4096) ++ (if farChannels b = [] then [] else [goldenTile b s i])

/-- Whether a tile lies in a region of the T format (R351). -/
def tileIsT (s : BaseSet) (i : Nat) : Bool :=
  s.regions.any (fun r => r.count != 0 && r.fmt == 0 && decide (r.first ≤ i) && decide (i < r.first + r.count))

/-- The bytes of an image, from a replica or the golden image. -/
def baseBytes (b : Block) (s : BaseSet) : List Byte :=
  (List.range s.tiles).flatMap (fun i => tileBytes b ((baseTargets b s i).headD 0))

/-- A set's memory zeroed. -/
def zeroBase (b : Block) (s : BaseSet) : Block :=
  let n := baseGranules s.tiles * gib
  (s.replicas ++ s.golden).foldl (fun c e => zeroPhys c e.2 n) b

/-- A set's memory zeroed and freed, with its base entries. -/
def dropBase (b : Block) (i : Nat) : Block :=
  match tabGet b.dealer.bases i with
  | none => b
  | some s => modDealer (emptyBase (zeroBase b s) i) (fun d => { d with bases := tabDel d.bases i })

/-- A load that fails: a new set is dropped, a reloaded one is FAILED (R349). -/
def baseFails (b : Block) (id i : Nat) : Block :=
  match tabGet b.dealer.bases i with
  | none => b
  | some s =>
    finish (if s.state = .loading then dropBase b i else setBase b i { s with state := .failed }) id stInvalidField 0

/-- The last tile has been written: the digest decides (R349, R351). -/
def baseEnds (b : Block) (id i : Nat) : Block :=
  match tabGet b.dealer.bases i with
  | none => b
  | some s =>
    if Config.sha384 (baseBytes b s) = s.digest then
      finish (setBase b i { s with state := .ready }) id stOk (baseId i s.gen)
    else baseFails b id i

/-- One tile of an image moved from the host to every replica and the golden image, the golden one coded (R351). -/
def moveBaseTile (b : Block) (s : BaseSet) (source i : Nat) : Block :=
  let t := hostRead b (source + 4096 * i) 4096
  (baseTargets b s i).foldl (fun c a => writeTile c a true t) (hostAsk (source + 4096 * i) 4096 b)

/-! ## BASE_RELEASE -/

/-- BASE_RELEASE (R354): the set must be held by no partition. -/
def doBaseRelease (set : BitVec 32) (id : Nat) (b : Block) : Block :=
  match baseAt b set with
  | none => finish b id stInvalidField 0
  | some _ =>
    if b.parts.any (fun e => e.2.desc.baseSet == set) then finish b id stBusy 0
    else finish (dropBase b (set.toNat % 4)) id stOk 0

/-- BASE_RELEASE. -/
def execBaseRelease (q : QRef) (h : Hdr) (baseSet : BitVec 32) (s : State) : Host.Outcome State Fault Refusal :=
  onBlock (fetchPacket (.baseRelease q h baseSet) q h 0x91 (doBaseRelease baseSet)) s

end Sys2Proof.Machine
end

