-- ==== Sys2Proof/Machine/CoreOps.lean ====
section
/-!
DEFINITION. What the compute and local operations make of their operands (R70 to R85). An operation in work, a job, holds the lines
it has read and the results it has made; its schedule (Jobs.lean) says in which ticks it reads, makes and writes them (R99).
-/

namespace Sys2Proof.Machine

open Sys2Proof

/-! ## Accumulators (R76) -/

def accKey (buf row col : Nat) : Nat := buf * 4096 + row * 64 + col

def accAt (c : Core) (buf row col : Nat) : BitVec 48 := tabGetD c.acc (accKey buf row col) 0

def accPut (c : Core) (buf row col : Nat) (v : BitVec 48) : Core :=
  { c with acc := tabSetD c.acc (accKey buf row col) v 0 }

def bufState (c : Core) (buf : Nat) : BufState := tabGetD c.bufs buf .notCleared

/-- All 4,096 accumulators of a buffer zeroed and its state set. -/
def bufClear (c : Core) (buf : Nat) (st : BufState) : Core :=
  { c with acc := tabClear c.acc (buf * 4096) 4096, bufs := tabSetD c.bufs buf st .notCleared }

/-- The lanes (i, j) of R rows and C columns, in row order. -/
def lanes (r c : Nat) : List (Nat × Nat) := (List.range r).flatMap (fun i => (List.range c).map (fun j => (i, j)))

/-! ## Jobs -/

/-- The bytes of n lines that a job has read, from its line `key` on. -/
def latched (j : Job) (key n : Nat) : List Byte := (rangeFrom key n).flatMap (fun k => tabGetD j.latch k (zeros 64))

/-- A part of a job's results, and those of parts of given lengths in order, one not yet made as zeros. -/
def resAt (j : Job) (part : Nat) : List Nat := tabGetD j.res part []

def resOf (j : Job) (parts : List (Nat × Nat)) : List Nat :=
  parts.flatMap (fun e => if (resAt j e.1).isEmpty then List.replicate e.2 0 else resAt j e.1)

/-- Parts numbered on from a first one, with their lengths. -/
def partsFrom (first : Nat) (lens : List Nat) : List (Nat × Nat) := (rangeFrom first lens.length).zip lens

/-- Results that are FP32 values. -/
def f32s (l : List Nat) : List F32 := l.map (BitVec.ofNat 32)

def nats (l : List F32) : List Nat := l.map (fun x => x.toNat)

/-- Line m of packed bytes. -/
def lineBytes (bs : List Byte) (m : Nat) : List Byte := (bs.drop (64 * m)).take 64

/-! ## MMA (R42, R46, R47, R70 to R75, R114) -/

/-- The state of a buffer under a mode. -/
def modeState (m : MmaMode) : BufState := if m.fp32 then .fp32 else .integer m.f

/-- Lines the MMA reads of an activation row; of a weight channel, or in the transposed direction of a channel's segment. -/
def mmaALines (d : MmaDesc) : Nat := ceilDiv (fmtBytes d.aFmt.toNat d.k.toNat) 64

/-- The element of its first line that a transposed segment begins with. -/
def mmaFirst (d : MmaDesc) : Nat := 64 * d.k064.toNat % fmtLineElems d.wFmt.toNat

def mmaWLines (d : MmaDesc) : Nat :=
  if d.transposed then ceilDiv (fmtBytes d.wFmt.toNat (mmaFirst d + 64)) 64 else ceilDiv (fmtBytes d.wFmt.toNat d.k.toNat) 64

/-- The first weight line among the lines an MMA reads. -/
def mmaWKey (d : MmaDesc) : Nat := (d.rowsM1.toNat + 1) * mmaALines d

/-- The activation codes of row i. -/
def mmaA (j : Job) (d : MmaDesc) (i : Nat) : List Nat :=
  (codesOf d.aFmt.toNat (latched j (i * mmaALines d) (mmaALines d))).take d.k.toNat

/-- The weight codes of column c from the panel of row i: a channel in the normal direction, and element c of every channel's segment
in the transposed one (R74). Without seat-gathering every row uses one panel (R75). -/
def mmaW (j : Job) (d : MmaDesc) (i c : Nat) : List Nat :=
  let n := mmaWLines d
  let panel := if d.seatGathered then i else 0
  if d.transposed then
    (List.range d.k.toNat).map (fun k =>
      (codesOf d.wFmt.toNat (latched j (mmaWKey d + (panel * d.k.toNat + k) * n) n)).getD (mmaFirst d + c) 0)
  else (codesOf d.wFmt.toNat (latched j (mmaWKey d + (panel * (d.colsM1.toNat + 1) + c) * n) n)).take d.k.toNat

/-- The exact sum of the products of two lists of codes. -/
def dotInt (fa fw : Nat) : List Nat → List Nat → Int
  | a :: as, w :: ws => codeInt fa a * codeInt fw w + dotInt fa fw as ws
  | _, _ => 0

/-- BF16 products added one after the other in ascending order with one rounding each (R47). -/
def dotFma : List Nat → List Nat → F32 → F32
  | a :: as, w :: ws, acc => dotFma as ws (f32Fma (codeF32 fmtBF16 a) (codeF32 fmtBF16 w) acc)
  | _, _, acc => acc

/-- A lane's accumulator after its products. -/
def mmaLane (d : MmaDesc) (m : MmaMode) (as ws : List Nat) (acc : BitVec 48) : BitVec 48 :=
  if m.fp32 then (dotFma as ws (acc.setWidth 32)).setWidth 48 else acc + BitVec.ofInt 48 (dotInt d.aFmt.toNat d.wFmt.toNat as ws)

/-- The products of an MMA landed in its buffer, which without the clear flag must be in the mode's state (R76). -/
def mmaLand (j : Job) (d : MmaDesc) (m : MmaMode) (buf : Nat) (c : Core) : Core :=
  if bufState c buf != modeState m then c
  else
    let cols := fun i => (List.range (d.colsM1.toNat + 1)).map (mmaW j d i)
    let shared := if d.seatGathered then [] else cols 0
    (List.range (d.rowsM1.toNat + 1)).foldl (fun x i =>
      let as := mmaA j d i
      ((List.range (d.colsM1.toNat + 1)).zip (if d.seatGathered then cols i else shared)).foldl
        (fun y cw => accPut y buf i cw.1 (mmaLane d m as cw.2 (accAt y buf i cw.1))) x) c

/-- Whether bytes hold an invalid T byte among those a mask names (R34). -/
def tritBad (mask : Nat) (bs : List Byte) : Bool := (List.range bs.length).any (fun i => bit mask i && decide (243 ≤ (bs.getD i 0).toNat))

/-- Whether a job stops at a line it reads: a weight line of T whose named bytes, which hold the elements it decodes, are not all
valid (R34). -/
def fetchBad (op : CoreOp) (key mask : Nat) (bs : List Byte) : Bool :=
  match op with
  | .mma d _ _ => d.wFmt.toNat == fmtT && decide (mmaWKey d ≤ key) && tritBad mask bs
  | _ => false

/-! ## Quantiser (R57 to R61, R79) -/

/-- The clip counter of a channel counts one saturation (R61). -/
def clipCount (c : Core) (channel : Nat) : Core :=
  let n := tabGetD c.clip (channel % 4096) 0
  { c with clip := tabSetD c.clip (channel % 4096) (if n = 0xFFFFFFFF then n else n + 1) 0 }

/-- The scale of a row. -/
def rowScale (c : Core) (d : QuantDesc) (xs : List F32) : F32 :=
  if d.dynamic then quantScale d.fmt.toNat xs else sregAt c (d.staticEntry.getLsbD 15) (bits d.staticEntry.toNat 0 12)

/-- The codes of elements under a scale. -/
def rowCodes (d : QuantDesc) (s : F32) (xs : List F32) : List Nat := xs.map (fun x => (quantCode d.fmt.toNat x s).1)

/-- The saturations of elements from channel `lo` on counted. -/
def rowClips (d : QuantDesc) (s : F32) (lo : Nat) (xs : List F32) (c : Core) : Core :=
  (List.range xs.length).foldl (fun x i => if (quantCode d.fmt.toNat (xs.getD i 0) s).2 then clipCount x (lo + i) else x) c

/-- The chunks in which a row of n elements is converted, 64 elements each. -/
def chunksOf (n : Nat) : List (Nat × Nat) := (List.range (ceilDiv n 64)).map (fun q => (64 * q, min n (64 * q + 64)))

/-- Bytes of an element in FP32 or BF16. -/
def elemBytes (bf16 : Bool) : Nat := if bf16 then 2 else 4

/-- Passes of a QUANTISE over a row, and the lines of a pass. -/
def quantPasses (d : QuantDesc) : Nat := if d.dynamic then 2 else 1

def quantLines (d : QuantDesc) : Nat := ceilDiv (d.width.toNat * elemBytes d.srcBf16) 64

/-- Elements of a pass over a row that a QUANTISE has read. -/
def quantRow (j : Job) (d : QuantDesc) (r pass : Nat) : List F32 :=
  (rowElems d.srcBf16 (latched j ((r * quantPasses d + pass) * quantLines d) (quantLines d))).take d.width.toNat

/-- Parts of a row's results: its chunks of codes, and after them its scale. -/
def quantParts (chunks : List (Nat × Nat)) : Nat := chunks.length + 1

/-- The part of a row's scale. -/
def scaleOf (j : Job) (first chunks : Nat) : F32 := BitVec.ofNat 32 ((resAt j (first + chunks)).getD 0 0)

/-- A part of a row made from its elements: a chunk of codes, or the scale. -/
def quantMake (c : Core) (j : Job) (d : QuantDesc) (first : Nat) (chunks : List (Nat × Nat)) (xs : List F32) (part : Nat) : List Nat :=
  match chunks[part]? with
  | some (lo, hi) => rowCodes d (scaleOf j first chunks.length) ((xs.drop lo).take (hi - lo))
  | none => [(rowScale c d xs).toNat]

/-- A part of a row set: the saturations of a chunk, or the row's entry. -/
def quantSet (j : Job) (d : QuantDesc) (first : Nat) (chunks : List (Nat × Nat)) (xs : List F32) (r part : Nat) (c : Core) : Core :=
  match chunks[part]? with
  | some (lo, hi) => rowClips d (scaleOf j first chunks.length) lo ((xs.drop lo).take (hi - lo)) c
  | none => sregPut c true (d.rowBase.toNat + r) (scaleOf j first chunks.length)

/-- Line m of a row's codes. -/
def codeLine (j : Job) (d : QuantDesc) (first : Nat) (chunks : List (Nat × Nat)) (m : Nat) : List Byte :=
  lineBytes (packCodes d.fmt.toNat (resOf j (partsFrom first (chunks.map (fun c => c.2 - c.1))))) m

/-- Lines of a row of codes. -/
def codeLines (d : QuantDesc) (n : Nat) : Nat := ceilDiv (fmtBytes d.fmt.toNat n) 64

/-! ## ROTATE (R53 to R56, R78) -/

/-- Ticks the blocks of a size take in. -/
def blockTicks (m : Nat) : Nat := max (2 ^ m / 64) 1

/-- Each block of a row: ticks and elements before it, and log2 of its size. -/
def blockStarts : Nat → Nat → List Nat → List (Nat × Nat × Nat)
  | _, _, [] => []
  | t, e, m :: ms => (t, e, m) :: blockStarts (t + blockTicks m) (e + 2 ^ m) ms

/-- The blocks of a ROTATE, and the ticks of a row. -/
def rotStarts (d : RotateDesc) : List (Nat × Nat × Nat) := blockStarts 0 0 (rotBlocks d)

def rotTicks (d : RotateDesc) : Nat := sum ((rotBlocks d).map blockTicks)

/-- The chunks of elements that a row's rotation takes in and gives out, one a tick. -/
def rotChunks (d : RotateDesc) : List (Nat × Nat) :=
  (rotStarts d).flatMap (fun b => (List.range (blockTicks b.2.2)).map (fun k =>
    (b.2.1 + 64 * k, b.2.1 + 64 * k + min 64 (2 ^ b.2.2))))

/-- The chunks in which the direct path converts a row: as the rotation gives it out, or after it when dynamic. -/
def directChunks (d : RotateDesc) (q : QuantDesc) : List (Nat × Nat) := if q.dynamic then chunksOf d.width.toNat else rotChunks d

/-- Parts of a row of a ROTATE: its input chunks, its blocks, and those of the QUANTISE it feeds. -/
def rotParts (d : RotateDesc) (q : QuantDesc) : Nat := rotTicks d + (rotBlocks d).length + quantParts (directChunks d q)

def rotLines (d : RotateDesc) : Nat := ceilDiv (d.width.toNat * elemBytes d.srcBf16) 64

/-- An input chunk of a row, smoothed where the flag says so (R53). -/
def rotIn (c : Core) (j : Job) (d : RotateDesc) (r lo hi : Nat) : List F32 :=
  let xs := ((rowElems d.srcBf16 (latched j (r * rotLines d) (rotLines d))).drop lo).take (hi - lo)
  if d.smooth then smoothRow c (d.sigmaBase.toNat + lo) xs else xs

/-- The parts of a block's input. -/
def blockParts (first : Nat) (b : Nat × Nat × Nat) : List (Nat × Nat) :=
  partsFrom (first + b.1) (List.replicate (blockTicks b.2.2) (min 64 (2 ^ b.2.2)))

/-- The rotated elements of a row, as far as its blocks are made. -/
def rotRow (j : Job) (d : RotateDesc) (first : Nat) : List F32 :=
  f32s (resOf j (partsFrom (first + rotTicks d) ((rotBlocks d).map (fun m => 2 ^ m))))

/-- A part of a row made: an input chunk, a block, or a part of the QUANTISE it feeds. -/
def rotMake (c : Core) (j : Job) (d : RotateDesc) (q : QuantDesc) (r part : Nat) : List Nat :=
  let first := r * rotParts d q
  let blocks := rotStarts d
  if part < rotTicks d then
    match (rotChunks d)[part]? with
    | some (lo, hi) => nats (rotIn c j d r lo hi)
    | none => []
  else
    match blocks[part - rotTicks d]? with
    | some b => nats (hadamard b.2.2 (f32s (resOf j (blockParts first b))))
    | none => quantMake c j q (first + rotTicks d + blocks.length) (directChunks d q) (rotRow j d first) (part - rotTicks d - blocks.length)

/-- A list of words as a table. -/
def tabOfList (xs : List (BitVec 32)) : Tab (BitVec 32) :=
  ((List.range xs.length).zip xs).filter (fun e => e.2 != 0)

/-- A part of a row set: a block is left in the rotation buffer. -/
def rotSet (j : Job) (d : RotateDesc) (q : QuantDesc) (r part : Nat) (c : Core) : Core :=
  let first := r * rotParts d q
  let n := rotTicks d + (rotBlocks d).length
  if part < n then { c with rotBuf := tabOfList (f32s (resAt j (first + part))) }
  else quantSet j q (first + n) (directChunks d q) (rotRow j d first) r (part - n) c

/-! ## SCALE (R49 to R51, R81) -/

/-- One result of SCALE. -/
def scaleAt (c : Core) (d : ScaleDesc) (fp32 : Bool) (f i k : Nat) : F32 :=
  scaleStep (accExt fp32 f (accAt c d.baseBuf.toNat i k))
    (sregChan c (d.wScaleBase.toNat + k)) (sregRowAt c (d.aScaleBase.toNat + i))
    (if d.bias then some (sregChan c (d.biasBase.toNat + k)) else none)
    (if d.adapter then
      some (sregRowAt c (d.alphaBase.toNat + i), accExt true 0 (accAt c d.adapterBuf.toNat i k)) else none)

/-- Row i of a SCALE: f is that of the base buffer's state, and an adapter buffer must be in the FP32 state (R81). -/
def scaleRow (c : Core) (d : ScaleDesc) (i : Nat) : List F32 :=
  let row := fun fp32 f => (List.range (d.colsM1.toNat + 1)).map (scaleAt c d fp32 f i)
  if d.adapter && bufState c d.adapterBuf.toNat != .fp32 then []
  else
    match bufState c d.baseBuf.toNat with
    | .notCleared => []
    | .integer f => row false f
    | .fp32 => row true 0

/-! ## VEC (R82, R83) -/

/-- Whether all lanes hold one value. -/
def sameLanes : List F32 → Bool
  | [] => true
  | x :: xs => xs.all (fun y => y == x)

/-- Lines of a source in the scratchpad, none for another. -/
def vecKeys (kind : BitVec 2) (f n : Nat) : Nat := if kind = 0 then n * vecLines f else 0

/-- The lanes of vector q of a source whose lines begin with line `key` of the job. -/
def vecIn (c : Core) (j : Job) (kind : BitVec 2) (fmt : BitVec 4) (w : BitVec 32) (key q : Nat) : List F32 :=
  vecSrc c kind fmt w (latched j (key + q * vecLines fmt.toNat) (vecLines fmt.toNat))

/-- The 64 results of vector q, or the one of a reduction; none for a code that is not listed. -/
def vecResult (c : Core) (j : Job) (d : VecDesc) (q : Nat) : List F32 :=
  let n := d.count.toNat
  let k1 := vecKeys d.kind0 d.fmt0.toNat n
  let k2 := k1 + vecKeys d.kind1 d.fmt1.toNat n
  let a := vecIn c j d.kind0 d.fmt0 d.src0 0 q
  let b := vecIn c j d.kind1 d.fmt1 d.src1 k1 q
  let e := vecIn c j d.kind2 d.fmt2 d.src2 k2 q
  match vecRed d.func.toNat with
  | some op => [reduce op a]
  | none =>
    if (vecLane d.func.toNat 0 0 0).isNone then []
    else (List.range 64).map (fun i => (vecLane d.func.toNat (a.getD i 0) (b.getD i 0) (e.getD i 0)).getD 0)

/-- Whether a vector's results use a free value: 64 unequal lanes into one entry, of which no rule says which remains (log entry
31). -/
def vecFree (d : VecDesc) (ys : List F32) : Bool := d.kindD.toNat == 1 && !sameLanes ys

/-- Bytes of a vector's results. A reduction writes one FP32 element. -/
def vecBytes (d : VecDesc) (ys : List F32) : List Byte := packF32 (ys.length == 64 && d.fmtD.toNat == fmtBF16) ys

/-- Lines a vector's results are written to. -/
def vecOut (d : VecDesc) : Nat := if (vecRed d.func.toNat).isSome then 1 else vecLines d.fmtD.toNat

/-! ## Export, import, entries, clip counters (R77, R80, R61) -/

/-- An accumulator as an exported 8-byte word. -/
def exportWord (fp32 : Bool) (v : BitVec 48) : Nat := if fp32 then v.toNat % 2 ^ 32 else (v.signExtend 64).toNat

/-- The words of row r of an ACC_EXPORT. -/
def exportRow (c : Core) (d : LocalDesc) (r : Nat) : List Nat :=
  let buf := d.buffer.toNat
  match bufState c buf with
  | .notCleared => []
  | st =>
    if 63 < d.firstRow.toNat + r then []
    else (List.range 64).map (fun k => exportWord (st == .fp32) (accAt c buf (d.firstRow.toNat + r) k))

/-- One imported word added to its accumulator. -/
def importWord (fp32 : Bool) (acc : BitVec 48) (w : Nat) : BitVec 48 :=
  if fp32 then (f32Add (acc.setWidth 32) (BitVec.ofNat 32 w)).setWidth 48 else acc + BitVec.ofNat 48 w

/-- Little-endian words of n bytes of a list. -/
def wordsOf (n : Nat) (bs : List Byte) : List Nat := (List.range (bs.length / n)).map (fun i => leAt bs (n * i) n)

/-- Row r of an ACC_IMPORT landed. -/
def importRow (j : Job) (d : LocalDesc) (r : Nat) (c : Core) : Core :=
  let buf := d.buffer.toNat
  let row := d.firstRow.toNat + r
  match bufState c buf with
  | .notCleared => c
  | st =>
    if 63 < row then c
    else ((List.range 64).zip (wordsOf 8 (latched j (8 * r) 8))).foldl
      (fun x e => accPut x buf row e.1 (importWord (st == .fp32) (accAt c buf row e.1) e.2)) c

/-- The entries of a SREG_LOAD, up to 64 consecutive ones. -/
def sregFill (j : Job) (d : LocalDesc) (c : Core) : Core :=
  let n := d.entriesM1.toNat + 1
  ((List.range n).zip (fullWords (latched j 0 (ceilDiv n 16)))).foldl
    (fun x e => sregPut x d.rowEntries (d.entry.toNat + e.1) (BitVec.ofNat 32 e.2)) c

/-- The 128 counters that CLIP_SAVE writes in one tick. -/
def clipPart (c : Core) (q : Nat) : List Nat := (rangeFrom (128 * q) 128).map (fun i => (tabGetD c.clip i 0).toNat)

/-! ## Parts of a job -/

/-- A part of a job's results, made of the lines read and of the registers as the tick starts; `free` is the value no rule gives. -/
def jobMake (c : Core) (j : Job) (free : F32) (part : Nat) : List Nat :=
  match j.op with
  | .quantise d =>
    let chunks := chunksOf d.width.toNat
    let r := part / quantParts chunks
    let p := part % quantParts chunks
    quantMake c j d (r * quantParts chunks) chunks (quantRow j d r (if p < chunks.length then quantPasses d - 1 else 0)) p
  | .rotate d q => rotMake c j d q (part / rotParts d q) (part % rotParts d q)
  | .scale d => nats (scaleRow c d part)
  | .vec d =>
    let ys := vecResult c j d part
    nats (if vecFree d ys then [free] else if d.kindD.toNat = 1 then ys.take 1 else ys)
  | .accExport d => exportRow c d part
  | .clipSave _ => clipPart c part
  | _ => []

/-- Whether making a part uses the free value. -/
def makeFree (c : Core) (j : Job) (part : Nat) : Bool :=
  match j.op with
  | .vec d => vecFree d (vecResult c j d part)
  | _ => false

/-- The registers that a part of a job sets. An MMA's part 0 clears its buffer, its part 1 lands its products. -/
def jobSet (j : Job) (part : Nat) (c : Core) : Core :=
  match j.op with
  | .mma d buf _ =>
    match mmaMode d.wFmt.toNat d.aFmt.toNat with
    | some m => if d.seatGathered && !m.fp32 then c else if part = 0 then bufClear c buf (modeState m) else mmaLand j d m buf c
    | none => c
  | .quantise d =>
    let chunks := chunksOf d.width.toNat
    let r := part / quantParts chunks
    quantSet j d (r * quantParts chunks) chunks (quantRow j d r (quantPasses d - 1)) r (part % quantParts chunks) c
  | .rotate d q => rotSet j d q (part / rotParts d q) (part % rotParts d q) c
  | .vec d =>
    match resAt j part with
    | [] => c
    | y :: _ => sregPut c (bit d.dst.toNat 12) (bits d.dst.toNat 0 12) (BitVec.ofNat 32 y)
  | .accImport d => importRow j d part c
  | .sregLoad d => sregFill j d c
  | _ => c

/-- Line `key` of what a job writes to the scratchpad, as far as it is made. -/
def jobLine (j : Job) (key : Nat) : List Byte :=
  match j.op with
  | .quantise d =>
    let chunks := chunksOf d.width.toNat
    let lines := codeLines d d.width.toNat
    codeLine j d (key / lines * quantParts chunks) chunks (key % lines)
  | .rotate d q =>
    if d.direct then
      let lines := codeLines q d.width.toNat
      codeLine j q (key / lines * rotParts d q + rotTicks d + (rotBlocks d).length) (directChunks d q) (key % lines)
    else
      let lines := ceilDiv (d.width.toNat * elemBytes d.dstBf16) 64
      lineBytes (packF32 d.dstBf16 (rotRow j d (key / lines * rotParts d q))) (key % lines)
  | .scale d => lineBytes (packF32 d.bf16 (f32s (resAt j (key / elemBytes d.bf16)))) (key % elemBytes d.bf16)
  | .vec d => lineBytes (vecBytes d (f32s (resAt j (key / vecOut d)))) (key % vecOut d)
  | .accExport _ => lineBytes ((resAt j (key / 8)).flatMap (leBytes 8)) (key % 8)
  | .clipSave _ => lineBytes ((resAt j (key / 8)).flatMap (leBytes 4)) (key % 8)
  | _ => []

end Sys2Proof.Machine
end

