-- ==== Sys2Proof/Machine/PlanCheck.lean ====
section
/-!
DEFINITION. The plan-level and load-level checks of the verifier (R160 to R166, R175, R176, R181, R182), and the budgets of a
unit (R27, R122).
-/

namespace Sys2Proof.Machine

open Sys2Proof

/-! ## Budgets -/

/-- Far transfers a unit of an order may issue in 4,096 ticks: F of R122. -/
def farBudget (b : Block) (order : Nat) : Nat := 60 * (farChannels b).length * 4 ^ order / buildCores b

/-- The energy budget of a unit per round, in nJ (R27). -/
def unitBudget (b : Block) (order : Nat) : Nat :=
  ((bld b).designPower - (bld b).standing) * 100000 / buildCores b * 4 ^ order

/-! ## Structures of an image -/

/-- The first reason of a list of checks that fails. -/
def firstFail (l : List (Nat × Bool)) : Option Nat := (l.find? (fun e => e.2)).map (fun e => e.1)

/-- A structure of an image: offset and size. -/
structure Span where
  off : Nat
  size : Nat
  deriving DecidableEq, Repr

def imgLength (m : ByteMem) : Nat := imgLE m 0x24 4

/-- Segment-table entries of a trick. -/
def trickSegs (m : ByteMem) (t : Nat) : List SegEntry := (List.range (4 ^ imgOrder m)).map (imgSeg m t)

/-- Bytes of a segment body (R163). -/
def bodySize (e : SegEntry) : Nat := 32 * e.descs + 16 * e.bundles

/-- The tables of an image: header, slot table, trick table, segment tables and live maps. -/
def imgTables (m : ByteMem) : List Span :=
  let tricks := List.range (imgTricks m)
  ⟨0, 128⟩ :: ⟨imgLE m 0x28 4, 8 * imgSlots m⟩ :: ⟨imgLE m 0x2C 4, 16 * imgTricks m⟩ ::
  tricks.map (fun t => ⟨imgLE m (imgTrickAt m t) 4, 16 * 4 ^ imgOrder m⟩) ++
  (tricks.filter (fun t => imgLiveAt m t != 0)).map (fun t => ⟨imgLiveAt m t, 40 * 4 ^ imgOrder m⟩)

/-- The segment bodies of an image; entries that name one body name one structure (R160). -/
def imgBodies (m : ByteMem) : List Span := ((imgAllSegs m).map (fun e => (⟨e.body, bodySize e⟩ : Span))).eraseDups

def imgSpans (m : ByteMem) : List Span := (imgTables m ++ imgBodies m).filter (fun s => s.size != 0)

/-- Whether two of a list of structures overlap. -/
def spansMeet : List Span → Bool
  | [] => false
  | s :: t => t.any (fun u => overlap s.off s.size u.off u.size) || spansMeet t

/-- LAYOUT: offsets, alignment, overlap, counts and lengths (R160, R162, R163). -/
def layoutBad (m : ByteMem) (n : Nat) : Bool :=
  imgLength m != n ||
  (imgTables m ++ imgBodies m).any (fun s => s.off % 16 != 0 || decide (imgLength m < s.off + s.size)) ||
  spansMeet (imgSpans m) || decide (64 < imgSlots m) || imgTricks m == 0 || decide (4096 < imgTricks m) ||
  (imgAllSegs m).any (fun e => decide (1024 < e.descs) || e.bundles == 0 || decide (4096 < e.bundles))

/-- Whether an image of n bytes holds an entry of its tables whole. -/
def holds (n off size : Nat) : Bool := decide (off + size ≤ n)

/-- Whether a reserved field of a trick's entry, segment entries or live maps is not zero, in those the image holds. -/
def trickReserved (m : ByteMem) (n t : Nat) : Bool :=
  let segs := imgLE m (imgTrickAt m t) 4
  let live := imgLiveAt m t
  holds n (imgTrickAt m t) 16 &&
    (imgLE m (imgTrickAt m t + 12) 4 != 0 || (List.range (4 ^ imgOrder m)).any (fun j =>
      (holds n (segs + 16 * j) 16 && imgLE m (segs + 16 * j + 12) 4 != 0) ||
      (live != 0 && holds n (live + 40 * j) 40 && imgLE m (live + 40 * j + 34) 6 != 0)))

/-- RESERVED: a reserved field of an entry that the image holds, or a byte outside every structure, that is not zero (log
entry 68). -/
def reservedBad (m : ByteMem) (n : Nat) : Bool :=
  let slots := imgLE m 0x28 4
  decide (2 ≤ imgLE m 7 1) || decide (8 ≤ imgLE m 8 1) || imgLE m 9 1 != 0 || imgLE m 0x40 64 != 0 ||
  (List.range (imgSlots m)).any (fun i => holds n (slots + 8 * i) 8 &&
    (decide (4 ≤ (imgSlot m i).access) || imgLE m (slots + 8 * i + 3) 1 != 0)) ||
  (List.range (imgTricks m)).any (trickReserved m n) ||
  m.any (fun c => !(imgSpans m).any (fun s => decide (s.off ≤ c.1) && decide (c.1 < s.off + s.size)))

/-! ## Plan-level reasons (R175) -/

/-- The highest unit order of the build's Galxia cores and engines (R16, R19, R188). -/
def orderInBuild (b : Block) (order : Nat) : Bool :=
  (List.range 5).any (fun o => decide (order ≤ o) && !(unitBases b 0 o).isEmpty)

/-- Two decks share a trick. -/
def decksMeet (m : ByteMem) : Bool :=
  (List.range 4).any (fun i => (List.range i).any (fun j =>
    overlap (imgPhase m i).1 (imgPhase m i).2 (imgPhase m j).1 (imgPhase m j).2))

/-- PHASES: R161. -/
def phasesBad (m : ByteMem) : Bool :=
  let ph := (List.range 4).map (imgPhase m)
  ph.all (fun p => p.2 == 0) || ph.any (fun p => p.2 != 0 && decide (imgTricks m < p.1 + p.2)) || (imgCarried m && decksMeet m)

/-- SLOTS: kinds, peers and extents of R161 and R166. -/
def slotBad (e : SlotEntry) : Bool :=
  e.kind == 0 || e.kind == 7 || decide (0x0A < e.kind) || (e.peer != 0 && e.kind != 3 && e.kind != 6) || decide (3 < e.peer) ||
  e.extent == 0

/-- T(order) of R176, in MiB. -/
def carriedBound (order : Nat) : Nat :=
  match order with
  | 0 => 2
  | 1 => 6
  | 2 => 22
  | 3 => 88
  | 4 => 352
  | _ => 0

/-- KIND: R176, and R191 for engine plans. -/
def kindBad (m : ByteMem) : Bool :=
  if imgCarried m then imgThreshold m == 0 || decide (carriedBound (imgOrder m) < imgThreshold m) || imgEngine m != 0
  else imgThreshold m != 0

/-- TARGET: an engine type that no engine of that order has. -/
def targetBad (b : Block) (m : ByteMem) : Bool :=
  imgEngine m != 0 &&
    match engineOf b (imgEngine m) with
    | some e => e.order != imgOrder m
    | none => true

/-- The plan-level reasons in ascending code; `n` is the length PLAN_LOAD names. -/
def planLevel (b : Block) (m : ByteMem) (n : Nat) : Option Nat :=
  firstFail [
    (0x0001, imgLE m 0 4 != 0x4E414C50 || imgLE m 4 2 != 0x0100),
    (0x0002, imgLE m 6 1 != 1),
    (0x0003, reservedBad m n),
    (0x0004, layoutBad m n),
    (0x0005, decide (4 < imgOrder m) || !orderInBuild b (imgOrder m)),
    (0x0006, imgSeats m % 8 != 0 || imgSeats m == 0 || decide (1024 < imgSeats m)),
    (0x0007, phasesBad m),
    (0x0008, (imgSlotList m).any slotBad),
    (0x0009, kindBad m),
    (0x000A, targetBad b m),
    (0x000B, imgLE m 0x30 8 != sum ((List.range (imgTricks m)).map (imgTrickEnergy m)))]

/-! ## Load-level reasons (R175, R176, R181, R182) -/

/-- Whether a bit of a core's live map is set: tile i, or buffer k. -/
def liveTile (m : ByteMem) (t j i : Nat) : Bool := imgLiveAt m t != 0 && bit (imgLE m (imgLiveAt m t + 40 * j + i / 8) 1) (i % 8)

def liveBuf (m : ByteMem) (t j k : Nat) : Bool := imgLiveAt m t != 0 && bit (imgLE m (imgLiveAt m t + 40 * j + 32) 2) k

/-- Tiles of a trick's live set (R182). -/
def liveSet (m : ByteMem) (t : Nat) : Nat :=
  1 + sum ((List.range (4 ^ imgOrder m)).map (fun j =>
    ((List.range 256).filter (liveTile m t j)).length + 6 * ((List.range 16).filter (liveBuf m t j)).length))

/-- The spill capacity of a tier for a unit, in tiles per round (R182). -/
def spillCapacity (b : Block) (tier order : Nat) : Nat :=
  if tier = tierGallery then 15000 * 4 ^ order else if tier = tierStack then 1087 * 4 ^ order else farBudget b order * 29

/-- The load-level reasons in ascending code, for a context of a partition. -/
def loadLevel (b : Block) (p : Part) (c : Ctx) (m : ByteMem) : Option Nat :=
  let spill := c.spillTiles * 4096
  let tier := (tierOf p.desc c.spill.toNat spill).getD tierFar
  firstFail [
    (0x0201, (partUnits b p (imgEngine m) (imgOrder m)).isEmpty),
    (0x0202, imgCarried m && decide (imgThreshold m ≤ p.desc.galleryDies * p.desc.galleryMib)),
    (0x0203, imgCarried m && decide (spill < 4096 + 4 ^ imgOrder m * 1408 * 1024)),
    (0x0204, imgCarried m &&
      (List.range (imgTricks m)).any (fun t => decide (spillCapacity b tier (imgOrder m) < liveSet m t)))]

end Sys2Proof.Machine
end

