-- ==== Sys2Proof/Machine/Sequencer.lean ====
section
/-!
DEFINITION. The sequencer (R66, R67, R106, R107): how it moves from bundle to bundle, and the stream of bundles a segment
issues, as the verifier follows it. The slot operations of a bundle (R104, R105).
-/

namespace Sys2Proof.Machine

open Sys2Proof

/-! ## Slot operations -/

/-- An operation of a data slot: slot 0 matrix, 1 rotate/quantise, 2 scale, 3 vector, 4 move; its word, op and descriptor. -/
structure SlotOp where
  slot : Nat
  word : Nat
  op : Nat
  desc : Nat
  deriving DecidableEq, Repr

def slotOp (slot word : Nat) (s : SlotWord) : SlotOp := ⟨slot, word, s.op, s.desc⟩

/-- The move slot of a bundle. -/
def moveOp (w : BitVec 128) : SlotOp := slotOp 4 (moveWord w) (wideSlot (moveWord w))

/-- The data slots of a bundle of a Galxia core; an engine's bundle has the move slot alone (R190). -/
def bundleOps (engine : Bool) (w : BitVec 128) : List SlotOp :=
  if engine then [moveOp w]
  else
    [slotOp 0 (matrixWord w) (matrixSlot (matrixWord w)), slotOp 1 (rotqWord w) (wideSlot (rotqWord w)),
     slotOp 2 (scaleWord w) (scaleSlot (scaleWord w)), slotOp 3 (vectorWord w) (wideSlot (vectorWord w)), moveOp w]

/-- Lowest bit and width of a slot of a bundle (R104). -/
def slotSpan : Nat → Nat × Nat
  | 0 => (0, 24)
  | 1 => (24, 20)
  | 2 => (44, 16)
  | 3 => (60, 20)
  | 4 => (80, 20)
  | _ => (100, 28)

/-- The engine word of a bundle, and its op (R190). -/
def engineWord (w : BitVec 128) : BitVec 80 := w.extractLsb' 0 80

def engineOp (w : BitVec 128) : Nat := (w.extractLsb' 76 4).toNat

/-- The descriptor type an operation of a slot names (R105, R109, R110); none for an op the slot does not list. -/
def wantType (slot op : Nat) : Option Nat :=
  match slot, op with
  | 0, 1 => some 1
  | 1, 1 => some 2
  | 1, 2 => some 3
  | 2, 1 => some 4
  | 3, 1 => some 5
  | 4, 1 => some 6
  | 4, 2 => some 6
  | 4, 3 => some 7
  | 4, 4 => some 6
  | 4, 5 => some 8
  | 4, 6 => some 8
  | 4, 7 => some 8
  | 4, 8 => some 9
  | 4, 9 => some 8
  | _, _ => none

/-! ## From bundle to bundle -/

/-- The position after a bundle, loops whose body ends there having repeated or ended, the innermost first (R106). -/
def endLoops (pos : Nat) : List LoopFrame → Nat × List LoopFrame
  | [] => (pos, [])
  | f :: fs =>
    if pos = f.start + f.len then
      if f.iter + 1 < f.count then (f.start, { f with iter := f.iter + 1 } :: fs) else endLoops pos fs
    else (pos, f :: fs)

/-- The sequencer after a bundle with a control operation. -/
def seqAdvance (ctl : CtlOp) (q : Sequencer) : Sequencer :=
  match ctl with
  | .trickEnd => { q with running := false, next := q.next + 1 }
  | .loop level body count =>
    { q with next := q.next + 1, pos := q.pos + 1, loops := ⟨level, q.pos + 1, body + 1, count + 1, 0⟩ :: q.loops }
  | .wait n =>
    let e := endLoops (q.pos + 1) q.loops
    { q with next := q.next + 1, pos := e.1, emptyLeft := n, loops := e.2 }
  | _ =>
    let e := endLoops (q.pos + 1) q.loops
    { q with next := q.next + 1, pos := e.1, loops := e.2 }

/-- The last tick in which a bundle may issue (R66). -/
def lastBundleTick : Nat := 123975

/-! ## The stream as the verifier follows it -/

/-- A bundle issued: its tick, its word and the loops it issues in. -/
structure Issue where
  tick : Nat
  word : BitVec 128
  loops : List LoopFrame
  deriving DecidableEq, Repr

/-- How a stream ends: with TRICK_END in a tick, past its last bundle or the window, or at a LOOP that breaks R106. -/
inductive StreamEnd where
  | ended (tick : Nat)
  | past
  | badLoop
  deriving DecidableEq, Repr

/-- Whether a LOOP at a position breaks R106: its body must lie in the enclosing body, at a higher level. -/
def loopBad (bundles pos level body : Nat) : List LoopFrame → Bool
  | [] => decide (bundles < pos + 2 + body)
  | f :: _ => decide (level ≤ f.level) || decide (f.start + f.len < pos + 2 + body)

/-- The bundles a stream issues; `n` bounds them. -/
def runStream (bs : List (BitVec 128)) : Nat → Sequencer → List Issue × StreamEnd
  | 0, _ => ([], .past)
  | n + 1, q0 =>
    let q := { q0 with next := q0.next + q0.emptyLeft, emptyLeft := 0 }
    if lastBundleTick < q.next then ([], .past)
    else
      match bs[q.pos]? with
      | none => ([], .past)
      | some w =>
        let i : Issue := ⟨q.next, w, q.loops⟩
        let go := fun (c : CtlOp) =>
          let r := runStream bs n (seqAdvance c q)
          (i :: r.1, r.2)
        match ctlOf (controlWord w) with
        | .trickEnd => ([i], .ended q.next)
        | .loop level body count =>
          if loopBad bs.length q.pos level body q.loops then ([i], .badLoop) else go (.loop level body count)
        | c => go c

/-- The stream of a segment that starts at tick 2,048. -/
def stream (bs : List (BitVec 128)) : List Issue × StreamEnd := runStream bs 121928 ⟨true, 2048, 0, 0, []⟩

/-- The effective line of an address word in the loops of an issue (R109); it may fall outside the scratchpad. -/
def lineIn (loops : List LoopFrame) (a : AddrWord) : Int :=
  (a.base.toNat : Int) + a.step.toInt * (((loops.find? (fun l => l.level == a.level.toNat)).map (fun l => l.iter)).getD 0)

/-- The counter of a level in the loops of an issue. -/
def iterIn (loops : List LoopFrame) (level : Nat) : Nat := ((loops.find? (fun l => l.level == level)).map (fun l => l.iter)).getD 0

/-! ## Semaphores (R124) -/

/-- Ticks from a semaphore operation on one core to the waits of another that see it. -/
def semLatency (i j : Nat) : Nat :=
  if i = j then 1
  else if i / 4 = j / 4 then 4
  else if i / 16 = j / 16 then 8
  else if i / 64 = j / 64 then 16
  else 160

/-- The amount an operation adds to its semaphore. -/
def semDelta (o : SemOp) : Int := if o.signal then (o.amount : Int) else -(o.amount : Int)

/-- The sum of what operations add. -/
def semSum (l : List SemOp) : Int := l.foldl (fun n o => n + semDelta o) 0

/-- The count a wait of a core sees in a tick. -/
def semSeen (ops : List SemOp) (start : Nat) (sem core t : Nat) : Int :=
  start + semSum (ops.filter (fun o => o.sem == sem && decide (o.tick + semLatency o.core core ≤ t)))

/-- The true count of a semaphore after a tick. -/
def semTrue (ops : List SemOp) (start : Nat) (sem t : Nat) : Int :=
  start + semSum (ops.filter (fun o => o.sem == sem && decide (o.tick ≤ t)))

end Sys2Proof.Machine
end

