-- ==== Sys2Proof/Machine/Timeline.lean ====
section
/-!
DEFINITION. The timing contract (R111 to R118, R467, R470): for each issued operation its occupancy, its latency, the scratchpad
lines, accumulators and scale entries it touches and when, its transfers, and its energy (R127).
-/

namespace Sys2Proof.Machine

open Sys2Proof

/-- One access of an operation to a scratchpad line: the bytes it uses as a mask. -/
structure Access where
  tick : Nat
  line : Int
  write : Bool
  mask : Nat
  deriving DecidableEq, Repr

/-- What an operation does to an accumulator buffer: an MMA, its first and last landing ticks; the read of a row by SCALE, `fp`
where the buffer must be FP32; a row exported, or imported from a line, landing a tick later. -/
inductive BufEv where
  | mma (buf rows cols k : Nat) (mode : MmaMode) (clear : Bool) (first last : Nat)
  | read (tick buf : Nat) (fp : Bool)
  | rowOut (tick buf row : Nat) (line : Int)
  | rowIn (tick buf row : Nat) (line : Int)
  deriving DecidableEq, Repr

/-- Kinds of transfer. -/
inductive MoveKind where
  | load
  | store
  | gather
  | info
  | atomic
  | cas
  deriving DecidableEq, Repr

/-- A transfer or atomic: issue tick, class, slot and tile offset in it, lane, scratchpad line, memory tick, latency tick. -/
structure Move where
  kind : MoveKind
  tick : Nat
  cls : Nat
  seated : Bool
  slot : Nat
  tile : Int
  lane : Nat
  line : Int
  mem : Nat
  done : Nat
  deriving DecidableEq, Repr

/-- The last tick in which a transfer holds its credit (R126): an atomic's returns in its memory tick. -/
def creditEnd (x : Move) : Nat := if x.kind = .atomic ∨ x.kind = .cas then x.mem else x.done - 1

/-- The timeline of an issued operation. `done` is its latency tick; `entries` the scale entries it writes, row entries from
4,096 on, with their ticks. -/
structure Timeline where
  slot : Nat
  tick : Nat
  occupancy : Nat
  done : Nat
  acc : List Access
  bufs : List BufEv
  moves : List Move
  entries : List (Nat × Nat)
  fj : Nat
  deriving DecidableEq, Repr

/-- An operation that touches nothing. -/
def Timeline.bare (slot tick occupancy done fj : Nat) : Timeline := ⟨slot, tick, occupancy, done, [], [], [], [], fj⟩

/-- The bytes from lo to hi - 1 of a line, as a mask. -/
def spanMask (lo hi : Nat) : Nat := 2 ^ min hi 64 - 2 ^ min lo 64

/-- Accesses to the lines that hold n bytes from an offset after a line. -/
def bytesAt (write : Bool) (tick : Nat) (line : Int) (off n : Nat) : List Access :=
  (rangeFrom (off / 64) (ceilDiv (off % 64 + n) 64)).map (fun (m : Nat) =>
    ⟨tick, line + (m : Int), write, spanMask (off - 64 * m) (off + n - 64 * m)⟩)

/-- An entry of the scale register file as a number. -/
def entryKey (row : Bool) (i : Nat) : Nat := if row then 4096 + i else i

/-! ## MMA (R113, R114) -/

/-- Head and product ticks of an MMA. -/
def mmaHead (d : MmaDesc) : Nat := if d.seatGathered then 256 else 64

def mmaTicks (d : MmaDesc) (m : MmaMode) : Nat := d.k.toNat * m.den / m.num

/-- Line period of an operand. -/
def linePeriod (f : Nat) (m : MmaMode) : Nat := fmtLineElems f * m.den / m.num

/-- Reads of the activation rows. -/
def mmaRows (t : Nat) (l : List LoopFrame) (d : MmaDesc) (m : MmaMode) : List Access :=
  let bytes := fmtBytes d.aFmt.toNat d.k.toNat
  let p := linePeriod d.aFmt.toNat m
  (List.range (d.rowsM1.toNat + 1)).flatMap (fun i => (List.range (ceilDiv bytes 64)).map (fun n =>
    ⟨if n = 0 then t + (if d.seatGathered then 4 * i else i) else t + mmaHead d + (n - 1) * p + i * p / 64,
     lineIn l d.aAddr + (i * d.aStride.toNat + n : Nat), false, spanMask 0 (bytes - 64 * n)⟩))

/-- Reads of the weight channels in the normal direction, of each panel when seat-gathered. -/
def mmaChannels (t : Nat) (l : List LoopFrame) (d : MmaDesc) (m : MmaMode) : List Access :=
  let bytes := fmtBytes d.wFmt.toNat d.k.toNat
  let p := linePeriod d.wFmt.toNat m
  let r := d.rowsM1.toNat + 1
  let c := d.colsM1.toNat + 1
  (List.range (if d.seatGathered then r else 1)).flatMap (fun i => (List.range c).flatMap (fun j =>
    (List.range (ceilDiv bytes 64)).map (fun n =>
      ⟨if d.seatGathered then t + 256 * n + (i * c + j) * 256 / (r * c)
        else if n = 0 then t + j else t + mmaHead d + (n - 1) * p + j * p / 64,
       lineIn l d.wAddr + (i * d.seatStride.toNat + j * d.wStride.toNat + n : Nat), false, spanMask 0 (bytes - 64 * n)⟩)))

/-- Reads of the weight segments in the transposed direction. -/
def mmaSegments (t : Nat) (l : List LoopFrame) (d : MmaDesc) (m : MmaMode) : List Access :=
  let f := d.wFmt.toNat
  let e := 64 * d.k064.toNat % fmtLineElems f
  (List.range (if d.seatGathered then d.rowsM1.toNat + 1 else 1)).flatMap (fun i => (List.range d.k.toNat).flatMap (fun k =>
    (List.range (ceilDiv (fmtBytes f (e + 64)) 64)).map (fun n =>
      ⟨if d.seatGathered then t + 8 * k + i / 8 else t + 48 + k * m.den / m.num,
       lineIn l d.wAddr + (i * d.seatStride.toNat + k * d.wStride.toNat + n : Nat), false,
       spanMask (fmtByteOf f e - 64 * n) (fmtBytes f (e + d.colsM1.toNat + 1) - 64 * n)⟩)))

def mmaLine (t : Nat) (l : List LoopFrame) (d : MmaDesc) (m : MmaMode) (buf : Nat) (clear : Bool) : Timeline :=
  let h := mmaHead d
  let n := mmaTicks d m
  let r := d.rowsM1.toNat + 1
  let c := d.colsM1.toNat + 1
  { Timeline.bare 0 t (max n h) (t + h + n + 4) (n * (r * c * m.laneFj + (4096 - r * c) * 8)) with
    acc := mmaRows t l d m ++ (if d.transposed then mmaSegments t l d m else mmaChannels t l d m)
    bufs := [.mma buf r c d.k.toNat m clear (t + h + 4) (t + h + n + 3)] }

/-! ## ROTATE and QUANTISE -/

/-- A row's codes written, a line when it is full; chunks are a conversion tick and the elements before and after it. -/
def codeWrites (line : Int) (f n : Nat) (chunks : List (Nat × Nat × Nat)) : List Access :=
  chunks.flatMap (fun c =>
    let lo := fmtBytes f c.2.1 / 64
    let hi := if c.2.2 = n then ceilDiv (fmtBytes f n) 64 else fmtBytes f c.2.2 / 64
    (rangeFrom lo (hi - lo)).map (fun (m : Nat) => (⟨c.1 + 6, line + (m : Int), true, spanMask 0 (fmtBytes f n - 64 * m)⟩ : Access)))

/-- The 64-element chunks of a row converted from a tick on. -/
def convChunks (t n : Nat) : List (Nat × Nat × Nat) := (List.range (ceilDiv n 64)).map (fun q => (t + q, 64 * q, min n (64 * q + 64)))

/-- The last tick of a list of accesses, or a tick. -/
def lastAccess (t : Nat) (l : List Access) : Nat := l.foldl (fun n a => max n a.tick) t

def quantLine (t : Nat) (l : List LoopFrame) (d : QuantDesc) : Timeline :=
  let n := d.width.toNat
  let f := d.fmt.toNat
  let chunks := ceilDiv n 64
  let passes := if d.dynamic then 2 else 1
  let eb := elemBytes d.srcBf16
  let rows := List.range d.rows.toNat
  let start := fun r => t + r * passes * chunks
  let reads := rows.flatMap (fun r => (List.range passes).flatMap (fun p => (List.range chunks).flatMap (fun q =>
    bytesAt false (start r + p * chunks + q) (lineIn l d.src + (r * d.srcStride.toNat : Nat)) (64 * q * eb) (min 64 (n - 64 * q) * eb))))
  let writes := rows.flatMap (fun r =>
    codeWrites (lineIn l d.dst + (r * d.dstStride.toNat : Nat)) f n (convChunks (start r + (passes - 1) * chunks) n))
  { Timeline.bare 1 t (d.rows.toNat * passes * chunks) (lastAccess t writes + 1) (d.rows.toNat * n * 500 * passes) with
    acc := reads ++ writes
    entries := rows.map (fun r => (if d.dynamic then start r + chunks + 3 else start r + 6, entryKey true (d.rowBase.toNat + r))) }

/-- ROTATE, with the QUANTISE it feeds on the direct path. -/
def rotLine (t : Nat) (l : List LoopFrame) (d : RotateDesc) (q : QuantDesc) : Timeline :=
  let n := d.width.toNat
  let ms := rotBlocks d
  let blocks := blockStarts 0 0 ms
  let row := sum (ms.map blockTicks)
  let extra := if d.direct && q.dynamic then ceilDiv n 64 else 0
  let rows := List.range d.rows.toNat
  let start := fun r => t + r * (row + extra)
  let outAt := fun r (b : Nat × Nat × Nat) => start r + b.1 + blockTicks b.2.2 + 2 * b.2.2 + 4
  let reads := rows.flatMap (fun r => blocks.flatMap (fun b => (List.range (blockTicks b.2.2)).flatMap (fun k =>
    bytesAt false (start r + b.1 + k) (lineIn l d.src + (r * d.srcStride.toNat : Nat)) ((b.2.1 + 64 * k) * elemBytes d.srcBf16)
      (min 64 (2 ^ b.2.2) * elemBytes d.srcBf16))))
  let plain := rows.flatMap (fun r => blocks.flatMap (fun b => (List.range (blockTicks b.2.2)).flatMap (fun k =>
    bytesAt true (outAt r b + k) (lineIn l d.dst + (r * d.dstStride.toNat : Nat)) ((b.2.1 + 64 * k) * elemBytes d.dstBf16)
      (min 64 (2 ^ b.2.2) * elemBytes d.dstBf16))))
  let outChunks := fun r => blocks.flatMap (fun b => (List.range (blockTicks b.2.2)).map (fun k =>
    (outAt r b + k, b.2.1 + 64 * k, b.2.1 + 64 * k + min 64 (2 ^ b.2.2))))
  let lastOut := fun r => (outChunks r).foldl (fun x c => max x c.1) 0
  let codes := rows.flatMap (fun r => codeWrites (lineIn l q.dst + (r * q.dstStride.toNat : Nat)) q.fmt.toNat n
    (if q.dynamic then convChunks (lastOut r + 1) n else outChunks r))
  let entry := fun r => if q.dynamic then lastOut r + 4 else ((outChunks r).head?.map (fun c => c.1)).getD 0 + 6
  let writes := if d.direct then codes else plain
  let fj := d.rows.toNat * (sum (ms.map (fun m => 2 ^ m * m * 600)) + (if d.smooth then n * 800 else 0) +
    (if d.direct then n * 500 * (if q.dynamic then 2 else 1) else 0))
  { Timeline.bare 1 t (d.rows.toNat * (row + extra)) (lastAccess t writes + 1) fj with
    acc := reads ++ writes
    entries := if d.direct then rows.map (fun r => (entry r, entryKey true (q.rowBase.toNat + r))) else [] }

/-! ## SCALE and VEC -/

def scaleLine (t : Nat) (l : List LoopFrame) (d : ScaleDesc) : Timeline :=
  let r := d.rowsM1.toNat + 1
  let c := d.colsM1.toNat + 1
  let rows := List.range r
  { Timeline.bare 2 t r (t + r + 6) (r * c * 1200) with
    acc := rows.flatMap (fun i => (List.range (elemBytes d.bf16)).map (fun (n : Nat) =>
      (⟨t + i + 6, lineIn l d.dst + (i * d.dstStride.toNat + n : Nat), true, spanMask 0 (c * elemBytes d.bf16 - 64 * n)⟩ : Access)))
    bufs := rows.flatMap (fun i =>
      .read (t + i) d.baseBuf.toNat false :: (if d.adapter then [.read (t + i) d.adapterBuf.toNat true] else [])) }

/-- Latency of a vector of VEC, and its energy. -/
def vecCost (f : Nat) : Nat × Nat :=
  if f = 0x04 then (4, 96000)
  else if f = 0x05 ∨ f = 0x06 then (12, 160000)
  else if f = 0x0A then (4, 32000)
  else if f < 0x10 then (4, 64000)
  else if f < 0x20 then (8, 160000)
  else (10, 48000)

/-- Sources a VEC function uses (R110). -/
def vecUses (f : Nat) : Nat :=
  if f = 0x04 then 3
  else if f ≤ 0x05 ∨ (0x07 ≤ f ∧ f ≤ 0x09) then 2
  else 1

/-- The line reads of a VEC source. The lines of one that the function does not use are fetched, and no byte of them counts as
read (R103). -/
def vecReads (t n : Nat) (l : List LoopFrame) (kind : BitVec 2) (f : Nat) (w : BitVec 32) (used : Bool) : List Access :=
  if kind = 0 then
    ((List.range n).flatMap (fun q =>
      bytesAt false (t + q) (lineIn l (addrOfBits w) + (q * vecLines f : Nat)) 0 (fmtBytes f 64))).map
        (fun a => if used then a else { a with mask := 0 })
  else []

def vecLine (t : Nat) (l : List LoopFrame) (d : VecDesc) : Timeline :=
  let n := d.count.toNat
  let cost := vecCost d.func.toNat
  let bytes := if (vecRed d.func.toNat).isSome then 4 else fmtBytes d.fmtD.toNat 64
  { Timeline.bare 3 t n (t + n + cost.1) (n * cost.2) with
    acc := vecReads t n l d.kind0 d.fmt0.toNat d.src0 true ++
      vecReads t n l d.kind1 d.fmt1.toNat d.src1 (decide (2 ≤ vecUses d.func.toNat)) ++
      vecReads t n l d.kind2 d.fmt2.toNat d.src2 (decide (3 ≤ vecUses d.func.toNat)) ++
      (if d.kindD = 0 then (List.range n).flatMap (fun q =>
        bytesAt true (t + q + cost.1) (lineIn l (addrOfBits d.dst) + (q * vecLines d.fmtD.toNat : Nat)) 0 bytes) else [])
    entries := if d.kindD = 1 then (List.range n).map (fun q => (t + q + cost.1, entryKey (bit d.dst.toNat 12) (bits d.dst.toNat 0 12))) else [] }

/-! ## Move operations (R114, R115, R117) -/

/-- Load latency and memory tick of a class. -/
def loadTimes (cls : Nat) : Nat × Nat :=
  match cls with
  | 0 => (48, 24)
  | 1 => (224, 120)
  | 2 => (368, 124)
  | 3 => (496, 220)
  | _ => (624, 300)

/-- Store latency of a class. -/
def storeLatency (cls : Nat) : Nat :=
  match cls with
  | 0 => 48
  | 1 => 224
  | 2 => 256
  | 3 => 400
  | _ => 640

/-- Energy of a tile of a class. -/
def tileFj (cls : Nat) : Nat :=
  match cls with
  | 0 => 4000000
  | 1 => 16400000
  | 2 => 36800000
  | 3 => 49200000
  | _ => 110000000

/-- The 64 lines of a tile in the eight ticks from a tick. -/
def tileLines (write : Bool) (tick : Nat) (line : Int) : List Access :=
  (List.range 64).map (fun i => ⟨tick + i / 8, line + i, write, 2 ^ 64 - 1⟩)

def loadAccess (m : Move) : List Access :=
  match m.kind with
  | .load => tileLines true (m.done - 8) m.line
  | .gather => tileLines true (m.done - 8) m.line
  | .info => [⟨m.done - 1, m.line, true, spanMask 0 12⟩]
  | .store => tileLines false (m.tick + 1) m.line
  | .atomic => tileLines false (m.tick + 1) m.line
  | .cas => [⟨m.tick + 1, m.line, false, spanMask 0 16⟩, ⟨m.done - 1, m.line, true, spanMask 0 8⟩]

/-- A timeline of transfers. -/
def movesLine (t occ fj : Nat) (ms : List Move) : Timeline :=
  { Timeline.bare 4 t occ (ms.foldl (fun n m => max n m.done) (t + 1)) fj with
    acc := ms.flatMap loadAccess
    moves := ms }

/-- LOAD, STORE and SCATTER (R467, R470). -/
def xferLine (t : Nat) (l : List LoopFrame) (d : XferDesc) (isLoad : Bool) : Timeline :=
  let n := d.tiles.toNat
  let c := d.cls.toNat
  let first : Int := (d.offset.toNat : Int) + d.memStep.toInt * iterIn l d.memLevel.toNat
  let one := fun k =>
    let tk := t + k * d.spacing.toNat
    let tile := (first + (if d.seatIndexed then 0 else 4096 * k : Nat)) / 4096
    let line := lineIn l d.spad + (d.tileStep.toNat * k : Nat)
    if isLoad then (⟨.load, tk, c, d.seatIndexed, d.slot.toNat, tile, d.lane.toNat, line, tk + (loadTimes c).2, tk + (loadTimes c).1⟩ : Move)
    else ⟨.store, tk, c, d.seatIndexed, d.slot.toNat, tile, d.lane.toNat, line, tk + storeLatency c - 1, tk + storeLatency c⟩
  movesLine t ((n - 1) * d.spacing.toNat + 1) (n * tileFj c) ((List.range n).map one)

/-- GATHER (R89, R467). -/
def gatherLine (t : Nat) (l : List LoopFrame) (d : GatherDesc) : Timeline :=
  let per := d.tilesPerSeat.toNat
  let n := d.seatCount.toNat * per
  let c := d.cls.toNat
  let info := d.kind = 3
  let one := fun i =>
    let tk := t + 16 + i * d.spacing.toNat
    let line := lineIn l d.spad + (i / per * d.seatStride.toNat + (if info then 0 else 64 * (i % per)) : Nat)
    (⟨if info then .info else .gather, tk, c, true, 0, 0, d.lane.toNat, line, tk + (loadTimes c).2, tk + (loadTimes c).1⟩ : Move)
  movesLine t (16 + (n - 1) * d.spacing.toNat + 1) (n * (tileFj c + 200000)) ((List.range n).map one)

/-- ATOMIC (R117). How long it occupies the move slot no rule gives: one tick (log entry 108). -/
def atomicLine (t : Nat) (l : List LoopFrame) (d : AtomicDesc) : Timeline :=
  let c := d.cls.toNat
  let cas := d.op.toNat = 4
  let lat := if cas then (loadTimes c).1 else if c = 0 then 56 else 264
  let mem := if cas then (loadTimes c).2 else if c = 0 then 47 else 239
  let fj := if cas then (if c = 0 then 200000 else 1000000) else (if c = 0 then 6000000 else 38800000)
  movesLine t 1 fj [⟨if cas then .cas else .atomic, t, c, false, d.slot.toNat, (d.offset.toNat : Int) / 4096, d.lane.toNat,
    lineIn l d.spad, t + mem, t + lat⟩]

/-- ACC_EXPORT and ACC_IMPORT. An export reads a row of its buffer in the tick in which it writes that row's lines: no rule gives
another (log entry 109). -/
def rowsLine (t : Nat) (l : List LoopFrame) (d : LocalDesc) (isIn : Bool) : Timeline :=
  let n := d.rowsM1.toNat + 1
  let at' := fun r => lineIn l d.spad + (r * d.stride.toNat : Nat)
  { Timeline.bare 4 t n (t + n + (if isIn then 2 else 1)) (n * 40000) with
    acc := (List.range n).flatMap (fun r => bytesAt (!isIn) (t + 1 + r) (at' r) 0 512)
    bufs := (List.range n).map (fun r =>
      if isIn then .rowIn (t + 1 + r) d.buffer.toNat (d.firstRow.toNat + r) (at' r)
      else .rowOut (t + 1 + r) d.buffer.toNat (d.firstRow.toNat + r) (at' r)) }

/-- SREG_LOAD. -/
def sregLine (t : Nat) (l : List LoopFrame) (d : LocalDesc) : Timeline :=
  let n := d.entriesM1.toNat + 1
  { Timeline.bare 4 t 1 (t + 3) 20000 with
    acc := bytesAt false (t + 1) (lineIn l d.spad) 0 (4 * n)
    entries := (List.range n).map (fun e => (t + 2, entryKey d.rowEntries (d.entry.toNat + e))) }

/-- CLIP_SAVE. -/
def clipLine (t : Nat) (l : List LoopFrame) (d : LocalDesc) : Timeline :=
  { Timeline.bare 4 t 32 (t + 33) 2000000 with
    acc := (List.range 256).map (fun i => ⟨t + 1 + i / 8, lineIn l d.spad + i, true, 2 ^ 64 - 1⟩) }

/-! ## An issued operation -/

/-- The timeline of a slot operation with its descriptor; none for a matrix operation of no listed mode. -/
def opLine (descs : List (BitVec 256)) (t : Nat) (l : List LoopFrame) (o : SlotOp) (d : BitVec 256) : Option Timeline :=
  match o.slot, o.op with
  | 0, _ =>
    let x := mmaOfBits d
    (mmaMode x.wFmt.toNat x.aFmt.toNat).map (fun m => mmaLine t l x m (bits o.word 6 4) (bit o.word 5))
  | 1, 1 => some (rotLine t l (rotateOfBits d) (quantOfBits (descs.getD (rotateOfBits d).qdesc.toNat 0)))
  | 1, _ => some (quantLine t l (quantOfBits d))
  | 2, _ => some (scaleLine t l (scaleOfBits d))
  | 3, _ => some (vecLine t l (vecOfBits d))
  | _, 1 => some (xferLine t l (xferOfBits d) true)
  | _, 3 => some (gatherLine t l (gatherOfBits d))
  | _, 5 => some (rowsLine t l (localOfBits d) false)
  | _, 6 => some (rowsLine t l (localOfBits d) true)
  | _, 7 => some (sregLine t l (localOfBits d))
  | _, 8 => some (atomicLine t l (atomicOfBits d))
  | _, 9 => some (clipLine t l (localOfBits d))
  | _, _ => some (xferLine t l (xferOfBits d) false)

end Sys2Proof.Machine
end

