-- ==== Sys2Proof/Machine/Jobs.lean ====
section
/-!
DEFINITION. What an issued operation does in which tick (R99, R113 to R115): the accesses of its timeline, and the ticks in which it
makes its results and sets registers. The tiles of transfers and atomics as work (R115, R117).
-/

namespace Sys2Proof.Machine

open Sys2Proof

/-! ## Order of work -/

/-- The order of a core's work: by tick, the reads of a tick before its writes (R99). -/
def workTime (w : Work) : Nat := 2 * w.tick + (if w.late then 1 else 0)

/-- Work put in order among what a core has still to do; of equal times the earlier issued comes first. -/
def addWork (c : Core) (l : List Work) : Core := { c with work := mergeBy workTime c.work (orderBy workTime l) }

/-! ## Schedules of jobs -/

/-- Bytes of a line that a write's mask names, from its first on. -/
def maskLen (mask : Nat) : Nat := Nat.log2 (mask + 1)

/-- A part made at a tick's start, and one whose registers are set at its end. -/
def making (id tick part : Nat) : Work := ⟨tick, false, .make id part⟩

def setting (id tick part : Nat) : Work := ⟨tick, true, .set id part⟩

/-- The lines a timeline reads and writes, numbered in its order. -/
def lineWork (id : Nat) (acc : List Access) : List Work :=
  let reads := acc.filter (fun a => !a.write)
  let writes := acc.filter (fun a => a.write)
  ((List.range reads.length).zip reads).map (fun e => ⟨e.2.tick, false, .fetch id e.1 e.2.line.toNat e.2.mask⟩) ++
  ((List.range writes.length).zip writes).map (fun e => ⟨e.2.tick, true, .put id e.1 e.2.line.toNat (maskLen e.2.mask)⟩)

/-- A job ends after the last of its work. -/
def closed (id : Nat) (l : List Work) : List Work := l ++ [⟨l.foldl (fun n w => max n w.tick) 0, true, .drop id⟩]

/-- MMA (R113): the clear before the first landing; the products, which nothing can tell apart by their ticks (R100), at the last. -/
def mmaParts (id t : Nat) (d : MmaDesc) (m : MmaMode) (clear : Bool) : List Work :=
  let h := mmaHead d
  (if clear then [setting id (t + h + 4) 0] else []) ++ [setting id (t + h + mmaTicks d m + 3) 1]

/-- A row's parts of a quantisation, from part `first` on: its scale is made in tick `made` and set in tick `entry`, its chunks are
converted from tick `conv` on. -/
def rowWork (id first n made entry : Nat) (conv : List Nat) : List Work :=
  making id made (first + n) ::
    ((List.range n).zip conv).flatMap (fun e => [making id e.2 (first + e.1), setting id e.2 (first + e.1)]) ++
    [setting id entry (first + n)]

/-- QUANTISE (R79, R114). -/
def quantWork (id t : Nat) (d : QuantDesc) : List Work :=
  let n := ceilDiv d.width.toNat 64
  let passes := quantPasses d
  (List.range d.rows.toNat).flatMap (fun r =>
    let start := t + r * passes * n
    rowWork id (r * (n + 1)) n (if d.dynamic then start + n - 1 else start) (if d.dynamic then start + n + 3 else start + 6)
      (rangeFrom (start + (passes - 1) * n) n))

/-- ROTATE (R78, R79, R114): input chunks as they are read, blocks as their output begins, and the QUANTISE of the direct path. -/
def rotWork (id t : Nat) (d : RotateDesc) (q : QuantDesc) : List Work :=
  let n := d.width.toNat
  let ticks := rotTicks d
  let blocks := rotStarts d
  let extra := if d.direct && q.dynamic then ceilDiv n 64 else 0
  (List.range d.rows.toNat).flatMap (fun r =>
    let start := t + r * (ticks + extra)
    let first := r * rotParts d q
    let outAt := fun (b : Nat × Nat × Nat) => start + b.1 + blockTicks b.2.2 + 2 * b.2.2 + 4
    let outs := blocks.flatMap (fun b => rangeFrom (outAt b) (blockTicks b.2.2))
    let lastOut := outs.foldl max 0
    let firstOut := outs.headD 0
    (List.range ticks).map (fun k => making id (start + k) (first + k)) ++
    ((List.range blocks.length).zip blocks).flatMap (fun e =>
      [making id (outAt e.2) (first + ticks + e.1), setting id (outAt e.2) (first + ticks + e.1)]) ++
    (if d.direct then
      rowWork id (first + ticks + blocks.length) (directChunks d q).length (if q.dynamic then lastOut else firstOut)
        (if q.dynamic then lastOut + 4 else firstOut + 6) (if q.dynamic then rangeFrom (lastOut + 1) (ceilDiv n 64) else outs)
     else []))

/-- The timeline of an operation, none for an MMA of no listed mode. -/
def jobLineOf (t : Nat) (l : List LoopFrame) (op : CoreOp) : Option Timeline :=
  match op with
  | .mma d buf clear => (mmaMode d.wFmt.toNat d.aFmt.toNat).map (fun m => mmaLine t l d m buf clear)
  | .rotate d q => some (rotLine t l d q)
  | .quantise d => some (quantLine t l d)
  | .scale d => some (scaleLine t l d)
  | .vec d => some (vecLine t l d)
  | .accExport d => some (rowsLine t l d false)
  | .accImport d => some (rowsLine t l d true)
  | .sregLoad d => some (sregLine t l d)
  | .clipSave d => some (clipLine t l d)

/-- The parts an operation makes and sets, with their ticks. -/
def jobParts (id t : Nat) (op : CoreOp) : List Work :=
  match op with
  | .mma d _ clear =>
    match mmaMode d.wFmt.toNat d.aFmt.toNat with
    | some m => mmaParts id t d m clear
    | none => []
  | .rotate d q => rotWork id t d q
  | .quantise d => quantWork id t d
  | .scale d => (List.range (d.rowsM1.toNat + 1)).map (fun i => making id (t + i) i)
  | .vec d =>
    let n := d.count.toNat
    (List.range n).map (fun q => making id (t + q) q) ++
      (if d.kindD = 1 then (List.range n).map (fun q => setting id (t + q + (vecCost d.func.toNat).1) q) else [])
  | .accExport d => (List.range (d.rowsM1.toNat + 1)).map (fun r => making id (t + 1 + r) r)
  | .accImport d => (List.range (d.rowsM1.toNat + 1)).map (fun r => setting id (t + 2 + r) r)
  | .sregLoad _ => [setting id (t + 2) 0]
  | .clipSave _ => (List.range 32).map (fun q => making id (t + 1 + q) q)

/-- Whether an operation's descriptor is one whose schedule the contract gives; any other never reaches a core. -/
def jobOk (op : CoreOp) : Bool :=
  match op with
  | .quantise d => d.fmt == 2 || d.fmt == 4 || d.fmt == 5
  | .rotate d q =>
    sum ((rotBlocks d).map (fun m => 2 ^ m)) == d.width.toNat &&
      (!d.direct || (decide (d.width.toNat ≤ 16384) && (q.fmt == 2 || q.fmt == 4 || q.fmt == 5)))
  | _ => true

/-- The work of an operation that issues at a tick. -/
def jobWork (id t : Nat) (l : List LoopFrame) (op : CoreOp) : List Work :=
  match jobLineOf t l op with
  | some tl => if jobOk op then closed id (lineWork id tl.acc ++ jobParts id t op) else []
  | none => []

/-- An operation issued: it is in work from its tick on. -/
def issueJob (t : Nat) (l : List LoopFrame) (op : CoreOp) (c : Core) : Core :=
  addWork { c with jobs := c.jobs ++ [⟨c.nextJob, op, [], []⟩], nextJob := c.nextJob + 1 } (jobWork c.nextJob t l op)

/-! ## Transfers as work (R115, R117) -/

/-- The ticks in which a transfer reads the scratchpad, reaches memory and writes the scratchpad. A tile atomic applies in the eight
ticks that end with its memory tick. -/
def xferWork (x : Xfer) : List Work :=
  match x.kind with
  | .load => ⟨x.memTick, false, .read x.id⟩ :: (List.range 8).map (fun q => ⟨x.lastTick - 7 + q, true, .land x.id q⟩)
  | .seatInfo _ => [⟨x.lastTick, true, .land x.id 0⟩]
  | .store => (List.range 8).map (fun q => ⟨x.issue + 1 + q, false, .take x.id q⟩) ++ [⟨x.memTick, true, .write x.id⟩]
  | .atomicTile _ =>
    (List.range 8).map (fun q => ⟨x.issue + 1 + q, false, .take x.id q⟩) ++
      (List.range 8).map (fun q => ⟨x.memTick - 7 + q, true, .apply x.id q⟩)
  | .cas => [⟨x.issue + 1, false, .take x.id 0⟩, ⟨x.memTick, true, .apply x.id 0⟩]

end Sys2Proof.Machine
end

