-- ==== Sys2Proof/Machine/Transfers.lean ====
section
/-!
DEFINITION. The work of the cores between bundles: what a transfer reaches (R89 to R94, R166, R200, R201, R352, R470), its lookups (R97,
R123, R288, R323), and what operations and transfers do in each tick (R99, R113 to R117, R119, R320).
-/

namespace Sys2Proof.Machine

open Sys2Proof

/-! ## The trick a core runs -/

/-- The run whose unit covers a core. -/
def runAt (b : Block) (core : Nat) : Option UnitRun :=
  b.dealer.running.find? (fun u => decide (u.base ≤ core) && decide (core < u.base + 4 ^ u.order))

/-- The step whose trick a core runs. -/
def coreStep (b : Block) (core : Nat) : Option Step :=
  match runAt b core with
  | some u => stepById b u.step
  | none => none

/-! ## Faults of a core -/

/-- A block fault of a core (R412): kind, reason, status, tag it is attributed to, address, whether an access wrote. -/
def raise (b : Block) (core kind reason : Nat) (st : BitVec 16) (tag : BitVec 16) (address : Nat) (write : Bool) : Block :=
  let cmd := match coreStep b core with
    | some s => commandField s.cid s.cq
    | none => 0
  coreFault b core kind reason st tag.toNat address cmd write (if kind = 1 then 1 else 0)

/-- The address of a record whose fault has no failing tile that a rule names. -/
def anyPage (kind reason : Nat) : Nat := (Config.faultPage kind reason).toNat * 4096

/-- The tag of the step a core runs. -/
def stepTag (b : Block) (core : Nat) : BitVec 16 := ((runAt b core).map (fun u => u.tag)).getD 0

/-! ## What a transfer reaches -/

/-- The die of a core, and the first die of its group. -/
def coreDie (core : Nat) : Nat := core / 64

def groupDie (core peer : Nat) : Nat := core / 256 * 4 + peer

/-- A seat of a step's deal. -/
def seatAt (s : Step) (n : Nat) : Seat :=
  match s.deal with
  | some d => d.seats.getD n dummySeat
  | none => dummySeat

/-- A KV page of a seat; one at or beyond its list behaves as for a dummy seat (R90, R201). -/
def kvPage (s : Step) (n t : Nat) : XferTo :=
  match s.deal with
  | some d =>
    match (d.kvPages.getD n [])[t]? with
    | some v => .va v.toNat
    | none => .dummy
  | none => .dummy

/-- A place of a seat at a byte offset of a seat kind: input, KV list, or adapter. -/
def seatTo (s : Step) (kind n off : Nat) (write : Bool) : XferTo :=
  let q := seatAt s n
  if kind = 8 then .va (q.inputVa.toNat + off)
  else if kind = 9 then kvPage s n (off / 4096)
  else .va ((if write then q.adapterWriteVa.toNat else q.adapterReadVa.toNat) + off)

/-- The seat tag entry of a core: none for a dummy seat (R89). -/
def seatTag (c : Core) (n : Nat) : Option (BitVec 16) :=
  let e := tabGetD c.seats n ⟨0, false, 0⟩
  if e.valid then some e.tag else none

/-- What an operand slot gives at a byte offset that is not seat-indexed (R166, R352). -/
def slotTo (b : Block) (core : Nat) (s : Step) (x : BoundSlot) (off : Nat) : XferTo :=
  if x.kind = 1 then .va (x.va + off)
  else if x.kind = 2 then .va (x.va + coreDie core * x.stride * 4096 + off)
  else if x.kind = 3 then .va (x.va + groupDie core x.peer * x.stride * 4096 + off)
  else if x.kind = 4 then
    match partAt b s.fn with
    | some p =>
      match partBase b p with
      | some set => .base (if set.dieMask.getLsbD (coreDie core) then some (coreDie core) else none) (off / 4096)
      | none => .base none (off / 4096)
    | none => .base none (off / 4096)
  else if x.kind = 5 then .base (some (coreDie core)) (off / 4096)
  else .base (some (groupDie core x.peer)) (off / 4096)

/-- A transfer put in flight: it holds a credit from its issue tick. -/
def putXfer (b : Block) (core : Nat) (kind : XferKind) (cls issue mem last : Nat) (dst : XferTo) (tag payer : BitVec 16)
    (line : Nat) (info : Nat × Nat × Nat) : Block :=
  modCore b core (fun c =>
    let x : Xfer := ⟨c.nextXfer, kind, cls, issue, mem, last, dst, tag, payer, line, [], false, 0, none, none, false, info⟩
    addWork { c with inflight := c.inflight ++ [x], nextXfer := c.nextXfer + 1 } (xferWork x))

/-- What a transfer that is seat-indexed reaches, the tag it runs under, and who pays for it (R93, R432). -/
def seated (b : Block) (core : Nat) (s : Step) (kind n off : Nat) (write : Bool) : XferTo × BitVec 16 × BitVec 16 :=
  match seatTag (coreAt b core) n with
  | none => (.dummy, s.tag, s.tag)
  | some tag =>
    let to' := seatTo s kind n off write
    (to', tag, if to' = .dummy then s.tag else tag)

/-- LOAD, STORE and SCATTER put their tiles in flight (R467, R470). -/
def startXfer (old : Core) (core t : Nat) (d : XferDesc) (isLoad : Bool) (b : Block) : Block :=
  match coreStep b core with
  | none => b
  | some s =>
    let cls := d.cls.toNat
    let first := ((d.offset.toNat : Int) + d.memStep.toInt * loopIter old d.memLevel.toNat).toNat
    let slot := s.slots.getD d.slot.toNat ⟨0, false, false, 0, 0, 0, 0, false, []⟩
    (List.range d.tiles.toNat).foldl (fun c k =>
      let tk := t + k * d.spacing.toNat
      let line := lineOf old d.spad + d.tileStep.toNat * k
      let off := if d.seatIndexed then first else first + 4096 * k
      let r := if d.seatIndexed then seated b core s slot.kind (d.seatFirst.toNat + k) off (!isLoad)
        else (slotTo b core s slot off, s.tag, s.tag)
      let info := (d.slot.toNat, off / 4096, if d.seatIndexed then d.seatFirst.toNat + k else 0)
      if isLoad then putXfer c core .load cls tk (tk + (loadTimes cls).2) (tk + (loadTimes cls).1 - 1) r.1 r.2.1 r.2.2 line info
      else putXfer c core .store cls tk (tk + storeLatency cls - 1) (tk + storeLatency cls - 1) r.1 r.2.1 r.2.2 line info) b

/-- The words of a seat's information: position, KV length and valid bit; zero for a dummy seat (R89, R90). -/
def seatWords (s : Step) (c : Core) (n : Nat) : List (BitVec 32) :=
  if (seatTag c n).isSome then [(seatAt s n).position, (seatAt s n).kvLength, 1] else [0, 0, 0]

/-- GATHER puts its tiles in flight, after a head of 16 ticks (R89, R467). -/
def startGather (old : Core) (core t : Nat) (d : GatherDesc) (b : Block) : Block :=
  match coreStep b core with
  | none => b
  | some s =>
    let cls := d.cls.toNat
    let per := d.tilesPerSeat.toNat
    (List.range (d.seatCount.toNat * per)).foldl (fun c i =>
      let tk := t + 16 + i * d.spacing.toNat
      let seat := d.seatFirst.toNat + i / per
      let line := lineOf old d.spad + i / per * d.seatStride.toNat
      let mem := tk + (loadTimes cls).2
      let last := tk + (loadTimes cls).1 - 1
      if d.kind = 3 then putXfer c core (.seatInfo (seatWords s old seat)) cls tk mem last .dummy s.tag s.tag line (0, 0, seat)
      else
        let off := if d.kind = 1 then 4096 * (d.src.toNat + i % per) else d.src.toNat + 4096 * (i % per)
        let r := seated b core s (d.kind.toNat + 8) seat off false
        putXfer c core .load cls tk mem last r.1 r.2.1 r.2.2 (line + 64 * (i % per)) (0, off / 4096, seat)) b

/-- Ticks from the issue of an ATOMIC to its memory tick, and to the tick in which its target is read: that of a CAS64, the first of
the eight in which a tile atomic applies (R117). -/
def atomicTimes (cas : Bool) (cls : Nat) : Nat × Nat :=
  if cas then ((loadTimes cls).2, (loadTimes cls).2) else if cls = 0 then (47, 40) else (239, 232)

/-- ATOMIC puts its tile or word in flight (R117, R320). -/
def startAtomic (old : Core) (core t : Nat) (d : AtomicDesc) (b : Block) : Block :=
  match coreStep b core with
  | none => b
  | some s =>
    let slot := s.slots.getD d.slot.toNat ⟨0, false, false, 0, 0, 0, 0, false, []⟩
    let at' := atomicTimes (d.op == 4) d.cls.toNat
    putXfer b core (if d.op = 4 then .cas else .atomicTile d.op.toNat) d.cls.toNat t (t + at'.1) (t + at'.2)
      (slotTo b core s slot d.offset.toNat) s.tag s.tag (lineOf old d.spad) (d.slot.toNat, d.offset.toNat / 4096, 0)

/-! ## Lookups (R97, R98, R123, R288, R323, R352, R353) -/

/-- The first-level entry that holds a VA. -/
def l1Find (c : Core) (tag : BitVec 16) (va : Nat) : Option L1Entry :=
  c.l1.find? (fun e => e.tag == tag && decide (e.vpn * pageBytes e.pageLog ≤ va) && decide (va < (e.vpn + e.count) * pageBytes e.pageLog))

/-- The second-level entry of a core's die that holds a VA; the step's own pins come first. -/
def l2Find (b : Block) (s : Step) (core : Nat) (tag : BitVec 16) (va : Nat) : Option PinReq :=
  let hit := fun (r : PinReq) => r.die == coreDie core && r.tag == tag && decide (r.va ≤ va) &&
    decide (va < r.va + r.count * pageBytes r.pageLog)
  match s.pins.find? (fun r => hit r && b.xlat.l2.any (fun e => e.vf == s.fn && e.req == r)) with
  | some r => some r
  | none => (b.xlat.l2.find? (fun e => e.vf == s.fn && hit e.req)).map (fun e => e.req)

/-- An entry filled into the first-level buffer, at its round-robin pointer. -/
def l1Fill (c : Core) (r : PinReq) : Core :=
  let e : L1Entry := ⟨r.tag, r.va / pageBytes r.pageLog, r.pageLog, r.count, r.out⟩
  if c.l1.length < 32 then { c with l1 := c.l1 ++ [e], l1Next := (c.l1.length + 1) % 32 }
  else { c with l1 := c.l1.set c.l1Next e, l1Next := (c.l1Next + 1) % 32 }

/-- A VA looked up: the core's buffer, its die's, a fill on a hit there; none is a miss. -/
def lookup (b : Block) (core : Nat) (tag : BitVec 16) (va : Nat) : Block × Option Nat :=
  match l1Find (coreAt b core) tag va with
  | some e => (b, some (e.out + (va - e.vpn * pageBytes e.pageLog)))
  | none =>
    match coreStep b core with
    | none => (b, none)
    | some s =>
      match l2Find b s core tag va with
      | some r => (modCore b core (fun c => l1Fill c r), some (r.out + (va - r.va)))
      | none => (b, none)

/-- The base set of the partition whose step a core runs, with its index. -/
def coreBase (b : Block) (core : Nat) : Option (Nat × BaseSet) :=
  match coreStep b core with
  | some s =>
    match partAt b s.fn with
    | some p => (partBase b p).map (fun set => (p.desc.baseSet.toNat % 4, set))
    | none => none
  | none => none

/-- The physical address of a tile of the base image, in a die's replica or the golden image, by the base entry of the core's die that
covers it (R287, R352). -/
def baseTile (b : Block) (core : Nat) (die : Option Nat) (tile : Nat) : Option Nat :=
  match coreBase b core with
  | none => none
  | some (i, set) =>
    (b.xlat.base.find? (fun e => e.die == coreDie core && e.index == i && e.source == die && e.part == tile / 262144)).map (fun e =>
      if e.source.isSome then e.out + 4096 * (tile % 262144) else goldenTile b set tile)

/-- Whether an address lies in the memory its class names (R117, R123). -/
def classHolds (b : Block) (core cls pa : Nat) : Bool :=
  let d := coreDie core
  match regionOf b pa with
  | some (.gallery g) => (cls == 0 && g == d) || (cls == 2 && g != d && g / 4 == d / 4)
  | some (.stack k) => (cls == 1 && k == d) || (cls == 3 && k != d && k / 4 == d / 4)
  | some (.far _) => cls == 4
  | none => false

/-- The frame of a tick (R323). -/
def farFrame (t : Nat) : Nat := min ((t - 2048) / 4096) 29

/-- A class-4 transfer counted against its partition's share of a channel; whether it lies within the share. -/
def countFar (b : Block) (vf pa t : Nat) : Block × Bool :=
  match regionOf b pa, partAt b vf with
  | some (.far ch), some p =>
    let u := farFrame t
    let k := p.desc.farShare.getD ch 0
    let key := (u * 64 + vf) * 16 + ch
    let n := tabGetD b.mem.farUsed key 0
    (modMem b (fun m => { m with farUsed := tabSet m.farUsed key (n + 1) }), decide (n < (if u = 29 then k * 3144 / 4096 else k)))
  | _, _ => (b, true)

/-- A transfer of a core changed. -/
def setXfer (b : Block) (core : Nat) (x : Xfer) : Block :=
  modCore b core (fun c => { c with inflight := c.inflight.map (fun y => if y.id = x.id then x else y) })

/-- A transfer whose lookups fail: its fault falls 13 ticks after its issue. -/
def failXfer (b : Block) (core : Nat) (x : Xfer) (kind reason address : Nat) : Block :=
  setXfer b core { x with issued := true, lastTick := x.issue + 13, fault := some ⟨kind, reason, address⟩ }

/-- A transfer with its address: wrong memory first, then its far share (R123). -/
def placeXfer (b : Block) (core : Nat) (x : Xfer) (pa : Nat) : Block :=
  if !classHolds b core x.cls pa then failXfer b core x 3 3 (pa / 4096 * 4096)
  else if x.cls = 4 then
    let r := countFar b (ctxVf b x.tag.toNat) pa x.issue
    if r.2 then setXfer r.1 core { x with issued := true, pa := pa } else failXfer r.1 core x 3 4 (pa / 4096 * 4096)
  else setXfer b core { x with issued := true, pa := pa }

/-- The trace detail of a transfer (R442). -/
def xferDetail (x : Xfer) : List Byte := leBytes 1 x.cls ++ leBytes 1 x.info.1 ++ leBytes 6 x.info.2.1 ++ leBytes 2 x.info.2.2

/-- A transfer issues: its trace record, and its lookups. -/
def issueXfer (b0 : Block) (e : Nat × Xfer) : Block :=
  let core := e.1
  let x := e.2
  let b := ltEvent x.issue evIssue core x.tag (xferDetail x) b0
  match x.dst with
  | .dummy => setXfer b core { x with issued := true }
  | .va a =>
    let r := lookup b core x.tag a
    match r.2 with
    | some pa => placeXfer r.1 core x pa
    | none => failXfer r.1 core x 1 5 (a / 4096 * 4096)
  | .base die tile =>
    match baseTile b core die tile with
    | some pa => placeXfer b core x pa
    | none => failXfer b core x 1 5 (anyPage 1 5)

/-- The transfers that issue before a tick looked up, in order of their issue ticks and then their cores. None issues after a
block fault (R417). -/
def lookupsTo (t : Nat) (b : Block) : Block :=
  let ok := fun (x : Xfer) => !x.issued && decide (x.issue < t) && (match b.recov.faultTick with
    | some f => decide (x.issue ≤ f)
    | none => true)
  let l := b.cores.flatMap (fun e => (e.2.inflight.filter ok).map (fun x => (e.1, x)))
  (sortBy (fun (e : Nat × Xfer) => e.2.issue * 1024 + e.1) l).foldl issueXfer b

/-! ## What a core's work does in its tick -/

/-- The memory and base tile effects of transfers use the tile their address lies in. -/
def xferTile (x : Xfer) : Nat := x.pa / 4096 * 4096

/-- A transfer of a core by its serial number. -/
def xferAt (b : Block) (core id : Nat) : Option Xfer := (coreAt b core).inflight.find? (fun x => x.id == id)

/-- Whether a transfer reaches memory: its lookups gave it an address. -/
def xferReaches (x : Xfer) : Bool := x.issued && x.fault.isNone && x.dst != .dummy

/-- A transfer's credit returns (R126). -/
def dropXfer (b : Block) (core : Nat) (x : Xfer) : Block :=
  modCore b core (fun c => { c with inflight := c.inflight.filter (fun z => z.id != x.id) })

/-- Bytes written from a line of a core's scratchpad on; an engine's local store has them on its port (R459). -/
def putLines (b : Block) (core line : Nat) (bs : List Byte) : Block :=
  let b1 := modCore b core (fun c => spadPut c (64 * line) bs)
  if 768 ≤ core then offer b1 (.engineWrite core line bs) else b1

/-- Lines as a store takes them from the scratchpad; those of an engine that has run are its own (log entry 29). -/
def takeLines (b0 : Block) (core : Nat) (line n : Nat) : Block × List Byte :=
  let b := if 768 ≤ core then offer b0 (.engineRead core line (ceilDiv n 64)) else b0
  let c := coreAt b core
  if c.engineRan then (nextFree b, (List.range n).map (Config.engineByte b.freeCtr)) else (b, memReadN c.spad (64 * line) n)

/-- A store or atomic takes eight lines, a CAS64 its 16 bytes. -/
def takeAct (b : Block) (core id q : Nat) : Block :=
  match xferAt b core id with
  | none => b
  | some x =>
    let r := if x.kind = .cas then takeLines b core x.line 16 else takeLines b core (x.line + 8 * q) 512
    setXfer r.1 core { x with data := x.data ++ r.2 }

/-- A load takes its tile at its memory tick, with what its check says, from its cache line or into it (R119, R319). -/
def readAct (b : Block) (core id : Nat) : Block :=
  match xferAt b core id with
  | none => b
  | some x =>
    if xferReaches x then
      let line := (cacheHit b x.pa).map (fun e => e.1)
      setXfer (cacheFill b x.pa) core { x with seen := some ⟨tileBytes b (xferTile x), tileOk b x.pa, line⟩ }
    else b

/-- Eight lines of a loaded tile land, a dummy seat's as zeros (R90); they hold what its tag's load brought (R34). A seat's
information lands in one line. -/
def landAct (b : Block) (core id q : Nat) : Block :=
  match xferAt b core id with
  | none => b
  | some x =>
    if x.fault.isSome then b
    else
      match x.kind with
      | .seatInfo ws => putLines b core x.line (ws.flatMap (fun w => leBytes 4 w.toNat))
      | _ =>
        let bs := match x.seen with
          | some t => t.bytes
          | none => zeros 4096
        let first := x.line + 8 * q
        modCore (putLines b core first ((bs.drop (512 * q)).take 512)) core (fun c =>
          { c with lineTags := (rangeFrom first 8).foldl (fun t n => tabSet t n x.tag) c.lineTags })

/-- The codec attribute of a stored far tile is its object's. -/
def farCoded (b : Block) (x : Xfer) : Bool :=
  match x.dst with
  | .va a =>
    match resolve b x.tag.toNat a false 0 with
    | .ok r => r.object.attrs.getLsbD 1
    | _ => false
  | _ => false

/-- A store writes its tile at its memory tick (R119). -/
def writeAct (b : Block) (core id : Nat) : Block :=
  match xferAt b core id with
  | none => b
  | some x => if xferReaches x then writeTile b (xferTile x) (farCoded b x) x.data else b

/-- Two lists of numbers combined. -/
def zipN (f : Nat → Nat → Nat) : List Nat → List Nat → List Nat
  | a :: s, b :: t => f a b :: zipN f s t
  | _, _ => []

/-- An atomic on bytes of its target and of its source (R320). -/
def atomicBytes (op : Nat) (m s : List Byte) : List Byte :=
  let f32 := fun (g : F32 → F32 → F32) => (zipN (fun a b => (g (BitVec.ofNat 32 a) (BitVec.ofNat 32 b)).toNat) (wordsOf 4 m) (wordsOf 4 s)).flatMap (leBytes 4)
  let w64 := fun (g : Nat → Nat → Nat) => (zipN g (wordsOf 8 m) (wordsOf 8 s)).flatMap (leBytes 8)
  match op with
  | 0 => f32 f32Add
  | 1 => w64 (fun a b => (a + b) % 2 ^ 64)
  | 2 => f32 f32Max
  | 3 => w64 (fun a b => if signed 64 a < signed 64 b then b else a)
  | _ => m

/-- Bytes of a target put back into its tile, with the tile's new check. -/
def putTarget (b : Block) (x : Xfer) (off : Nat) (bs : List Byte) : Block :=
  let t := tileBytes b (xferTile x)
  writeTile b (xferTile x) (farCoded b x) (t.take off ++ bs ++ t.drop (off + bs.length))

/-- Part q of an atomic applies: 512 bytes of a tile, whose credit returns with the last; a CAS64's word, whose old value returns to
the scratchpad (R117, R320). -/
def applyAct (b : Block) (core id q : Nat) : Block :=
  match xferAt b core id with
  | none => b
  | some x =>
    match x.kind with
    | .atomicTile op =>
      let part := fun (l : List Byte) => (l.drop (512 * q)).take 512
      let b1 := if xferReaches x then putTarget b x (512 * q) (atomicBytes op (part (tileBytes b (xferTile x))) (part x.data)) else b
      if q = 7 then dropXfer b1 core x else b1
    | .cas =>
      if xferReaches x then
        let off := x.pa % 4096
        let old := leAt (tileBytes b (xferTile x)) off 8
        let b1 := if old = leAt x.data 0 8 then putTarget b x off ((x.data.drop 8).take 8) else b
        modCore b1 core (fun c => addWork c [⟨x.issue + (loadTimes x.cls).1 - 1, true, .back x.line old⟩])
      else b
    | _ => b

/-- A job of a core. -/
def jobAt (c : Core) (id : Nat) : Option Job := c.jobs.find? (fun j => j.id == id)

def setJob (c : Core) (j : Job) : Core := { c with jobs := c.jobs.map (fun k => if k.id = j.id then j else k) }

def dropJob (c : Core) (id : Nat) : Core := { c with jobs := c.jobs.filter (fun k => k.id != id) }

/-- A line read: an invalid T byte raises a block fault, and the MMA lands no product of it (R34). -/
def fetchAct (b : Block) (core id key line mask : Nat) : Block :=
  let c := coreAt b core
  match jobAt c id with
  | none => b
  | some j =>
    let bs := memReadN c.spad (64 * line) 64
    if fetchBad j.op key mask bs then
      raise (modCore b core (fun x => dropJob x id)) core 3 5 stInvalidField (tabGetD c.lineTags line (stepTag b core)) (anyPage 3 5) false
    else modCore b core (fun x => setJob x { j with latch := tabSet j.latch key bs })

/-- A part made of what the tick starts with. -/
def makeAct (b : Block) (core id part : Nat) : Block :=
  let c := coreAt b core
  match jobAt c id with
  | none => b
  | some j =>
    let b1 := modCore b core (fun x =>
      setJob x { j with res := tabSet j.res part (jobMake c j ((Config.freeValue b.freeCtr).setWidth 32) part) })
    if makeFree c j part then nextFree b1 else b1

/-- What work does to the block; only `raise` needs the clock. -/
def doAct (b : Block) (core : Nat) (a : Act) : Block :=
  match a with
  | .fetch id key line mask => fetchAct b core id key line mask
  | .make id part => makeAct b core id part
  | .put id key line n => modCore b core (fun c => match jobAt c id with
    | some j => spadPut c (64 * line) ((jobLine j key).take n)
    | none => c)
  | .set id part => modCore b core (fun c => match jobAt c id with
    | some j => jobSet j part c
    | none => c)
  | .drop id => modCore b core (fun c => dropJob c id)
  | .take id q => takeAct b core id q
  | .read id => readAct b core id
  | .write id => writeAct b core id
  | .apply id q => applyAct b core id q
  | .land id q => landAct b core id q
  | .back line v => putLines b core line (leBytes 8 v)

/-! ## Work in order (R99, R119, R425) -/

/-- The order of work on the block: by tick, a tick's reads before its writes, each in ascending core index. -/
def workKey (e : Nat × Work) : Nat := workTime e.2 * 1024 + e.1

/-- The work of every core that comes before a limit, in order. -/
def workBefore (limit : Nat) (b : Block) : List (Nat × Work) :=
  orderBy workKey (b.cores.flatMap (fun e => (e.2.work.takeWhile (fun w => decide (workKey (e.1, w) < limit))).map (fun w => (e.1, w))))

/-- Work done in its tick. -/
def doWork (b : Block) (e : Nat × Work) : Block := doAct (toTick b e.2.tick) e.1 e.2.act

/-- The work before a limit done. -/
def runWork (limit : Nat) (b : Block) : Block :=
  (workBefore limit b).foldl doWork { b with cores := tabMap b.cores (fun i c =>
    { c with work := c.work.dropWhile (fun w => decide (workKey (i, w) < limit)) }) }

/-- Everything the cores do before a tick: lookups, and work. -/
def workTo (t : Nat) (b : Block) : Block := runWork (2048 * t) (lookupsTo t b)

/-! ## Errors of the cores' memories (R88) -/

/-- Whether a diagnostic partition owns a core's quad in this round (R384, R439). -/
def diagnosed (b : Block) (core : Nat) : Bool :=
  match partAt b (quadOwner b b.tb.round (core / 4)) with
  | some p => p.desc.diagnostic
  | none => false

/-- The SEC-DED errors of a core in a tick (R88): those corrected are counted in the rounds of a diagnostic partition (R439),
a double-bit error is a block fault of no context (R413). -/
def coreErr (core : Nat) (err : CoreErr) (b : Block) : Block :=
  let b1 := if diagnosed b core && err.corrected != 0 then
      modCore b core (fun c => { c with eccCount := min 0xFFFFFFFF (c.eccCount + err.corrected) })
    else b
  if err.double.isSome then raise b1 core 2 4 stChecksum 0 0 false else b1

/-- What cores' memories report in ticks up to one, each in its tick and a tick's in ascending core order. -/
def tickErrs (t : Nat) (errs : List TickErr) (b : Block) : Block :=
  (orderBy (fun (e : TickErr) => e.tick * 1024 + e.core) (errs.filter (fun e => decide (e.tick ≤ t)))).foldl
    (fun c e => coreErr e.core e.err (toTick (workTo e.tick c) e.tick)) b

end Sys2Proof.Machine
end

