-- ==== Sys2Proof/Machine/Mover.lean ====
section
/-!
DEFINITION. The tile mover: MEM_COPY, MEM_FILL, MEM_IMPORT and QUERY (R274, R275, R331 to R334), tiles read and written with
their checks and indexes (R316, R325, R326), and the mover slots (R328 to R330).
-/

namespace Sys2Proof.Machine

open Sys2Proof

/-! ## Ranges of a command (R295) -/

/-- A command's own resolution stops: it ends, or waits for an invalidation (R297). -/
def onStop (b : Block) (id : Nat) : Stop → Block
  | .fail st detail => finish b id st detail
  | .wait => setCmd b id .waiting

/-- Whether a VA is mapped from a read-only object (R246). -/
def readOnlyAt (b : Block) (tag va : Nat) : Bool :=
  match ctxAt b tag with
  | none => false
  | some c =>
    match partAt b c.fn, mappingAt c.mappings va with
    | some p, some m =>
      match tabGet p.objects m.object with
      | some o => o.attrs.getLsbD 2
      | none => false
    | _, _ => false

/-- A tile of a command's range: its place and its object. A destination in a read-only object is not permitted; an index
tile is no data (R325). -/
def cmdTile (b : Block) (tag cmd range : Nat) (write : Bool) (va : Nat) : Except Stop (TilePlace × Nat) :=
  match resolveTile b tag va write cmd range 0xFFFF with
  | .error .wait => .error .wait
  | .error (.fail st detail) =>
    if write && st == stTranslationFault && detail.toNat / 2 ^ 24 == 2 && readOnlyAt b tag va then
      .error (.fail stNotPermitted 0)
    else .error (.fail st detail)
  | .ok x => if isIndexTile x va then .error (.fail stInvalidField 0) else .ok (placeOf b x va, x.map.object)

/-- Every tile of a range. -/
def cmdTiles (b : Block) (tag cmd range : Nat) (write : Bool) (va n : Nat) : Except Stop (List (TilePlace × Nat)) :=
  collect (cmdTile b tag cmd range write) (tilesOf va n)

def places (l : List (TilePlace × Nat)) : List TilePlace := l.map (fun e => e.1)

def objectsOf (l : List (TilePlace × Nat)) : List Nat := (l.map (fun e => e.2)).eraseDups

/-- The resolution of a command's ranges ends in this tick (R297). -/
def markResolved (b : Block) (id : Nat) : Block :=
  modDealer b (fun d => { d with cmds := d.cmds.map (fun c => if c.id = id then { c with resolvedAt := now b } else c) })

/-- A resolved command given to the mover, with the objects it references. -/
def startJob (b : Block) (id : Nat) (refs : List Nat) (ops : List MoverOp) (detail : Nat) (imp : Option ImportJob) : Block :=
  setCmd (markResolved (setRefs b id refs) id) id (.mover ⟨ops, [], detail, imp, []⟩)

/-! ## Tiles (R316, R325, R326) -/

/-- A host tile through its index entry, whose reserved bits must be zero (R10, R321): its bytes, or ST_CHECKSUM where its stream or
check does not hold. -/
def readHostTile (b : Block) (p : TilePlace) : Except (BitVec 16) (List Byte) :=
  match p.entry with
  | none => .ok (hostRead b p.out 4096)
  | some a =>
    let e := hostLE b a 8
    let n := bits e 32 5
    let t := if n = 0 then some (zeros 4096)
      else if bit e 37 then decodeTile (hostRead b p.out (256 * min n 16))
      else some (hostRead b p.out 4096)
    if e / 2 ^ 38 ≠ 0 then .error stInvalidField
    else
      match t with
      | none => .error stChecksum
      | some bs => if p.checksum && BitVec.ofNat 32 (bits e 0 32) != storedCheck bs then .error stChecksum else .ok bs

/-- A source tile, if it passes its check (R316). -/
def readPlace (b : Block) (p : TilePlace) : Except (BitVec 16) (List Byte) :=
  if p.host then readHostTile b p else if tileOk b p.out then .ok (tileBytes b p.out) else .error stChecksum

/-- Source tiles read in order. -/
def readPlaces (b : Block) : List TilePlace → Except (BitVec 16) (List Byte)
  | [] => .ok []
  | p :: l =>
    match readPlace b p, readPlaces b l with
    | .error st, _ => .error st
    | .ok _, .error st => .error st
    | .ok t, .ok u => .ok (t ++ u)

/-- A host tile written with its index entry, coded where its object says so (R326); `err` is what its check is wrong by. -/
def writeHostTile (b : Block) (p : TilePlace) (t : List Byte) (err : BitVec 32) : Block :=
  match p.entry with
  | none => hostWrite b p.out t
  | some a =>
    let cs := if p.compressed then codedSectors t else (16, false)
    let e := (if p.checksum then (storedCheck t ^^^ err).toNat else 0) + cs.1 * 2 ^ 32 + (if cs.2 then 2 ^ 37 else 0)
    let data := if cs.2 then padTo (256 * cs.1) (codeTile t) else t
    hostWrite (hostWrite b p.out data) a (leBytes 8 e)

/-- A tile written whose check is wrong by `err`. -/
def writePlaceErr (b : Block) (p : TilePlace) (t : List Byte) (err : BitVec 32) : Block :=
  if p.host then writeHostTile b p t err else writeTileErr b p.out p.compressed t err

def writePlace (b : Block) (p : TilePlace) (t : List Byte) : Block := writePlaceErr b p t 0

/-- What a tile that is written in part holds before, and what its check is wrong by, which the mover passes through (R316). -/
def oldPlace (b : Block) (p : TilePlace) : List Byte × BitVec 32 :=
  if p.host then
    match readHostTile b { p with checksum := false } with
    | .error _ => (zeros 4096, 0)
    | .ok t =>
      match p.entry with
      | some a => (t, if p.checksum then BitVec.ofNat 32 (bits (hostLE b a 8) 0 32) ^^^ storedCheck t else 0)
      | none => (t, 0)
  else (tileBytes b p.out, checkError b p.out)

/-- A tile with some of its bytes replaced; the others stay as they read. -/
def patchPlace (b : Block) (p : TilePlace) (off : Nat) (data : List Byte) : Block :=
  if data.length = 4096 then writePlace b p data
  else
    let old := oldPlace b p
    writePlaceErr b p (old.1.take off ++ data ++ old.1.drop (off + data.length)) old.2

/-- A source tile read by the mover: it fills a cache line (R319), or is asked of the host. -/
def touchRead (b : Block) (p : TilePlace) : Block := if p.host then hostAsk p.out 4096 b else cacheFill b p.out

/-! ## MEM_COPY and MEM_FILL -/

/-- MEM_COPY (R331): whole tiles, in ascending order. -/
def doMemCopy (q : QRef) (srcVa dstVa bytes : BitVec 64) (id : Nat) (b : Block) : Block :=
  if bytes = 0 ∨ bytes.toNat % 4096 ≠ 0 ∨ srcVa.toNat % 4096 ≠ 0 ∨ dstVa.toNat % 4096 ≠ 0 then finish b id stInvalidField 0
  else
    match cmdTiles b q.tag.toNat id 0xF5 false srcVa.toNat bytes.toNat with
    | .error e => onStop b id e
    | .ok from' =>
      match cmdTiles b q.tag.toNat id 0xF6 true dstVa.toNat bytes.toNat with
      | .error e => onStop b id e
      | .ok to' =>
        startJob b id (objectsOf (from' ++ to')) (((places from').zip (places to')).map (fun e => .copy e.1 e.2)) 0 none

/-- MEM_COPY. -/
def execMemCopy (q : QRef) (h : Hdr) (srcVa dstVa bytes : BitVec 64) (s : State) : Host.Outcome State Fault Refusal :=
  onBlock (fetchPacket (.memCopy q h srcVa dstVa bytes) q h 0x12 (doMemCopy q srcVa dstVa bytes)) s

/-- The bytes of a tile that a range covers: offset in the tile, offset in the range, length. -/
def tileSpan (va n tile : Nat) : Nat × Nat × Nat :=
  let lo := max va tile
  (lo - tile, lo - va, min (va + n) (tile + 4096) - lo)

/-- MEM_FILL (R331): the pattern from dst_va on. -/
def doMemFill (q : QRef) (dstVa bytes pattern : BitVec 64) (id : Nat) (b : Block) : Block :=
  if bytes = 0 ∨ bytes.toNat % 8 ≠ 0 ∨ dstVa.toNat % 8 ≠ 0 then finish b id stInvalidField 0
  else
    match cmdTiles b q.tag.toNat id 0xF6 true dstVa.toNat bytes.toNat with
    | .error e => onStop b id e
    | .ok to' =>
      startJob b id (objectsOf to') ((places to').map (fun p =>
        let sp := tileSpan dstVa.toNat bytes.toNat p.va
        .put p sp.1 ((List.replicate (sp.2.2 / 8) (leBytes 8 pattern.toNat)).flatten))) 0 none

/-- MEM_FILL. -/
def execMemFill (q : QRef) (h : Hdr) (dstVa bytes pattern : BitVec 64) (s : State) : Host.Outcome State Fault Refusal :=
  onBlock (fetchPacket (.memFill q h dstVa bytes pattern) q h 0x13 (doMemFill q dstVa bytes pattern)) s

/-! ## MEM_IMPORT (R332 to R334) -/

/-- Whether MEM_IMPORT makes a conversion (R334). -/
def importPair (src dst : Nat) : Bool :=
  decide (src ≤ 7) && decide (dst ≤ 7) && (src == dst || dst == 7 || (src == 7 && dst == 6))

/-- Element count and payload bytes of a container whose header keeps the rules of R332, for a packet's format, flag and
length. -/
def importHeader (bs : List Byte) (src : Nat) (encrypted : Bool) (n : Nat) : Option (Nat × Nat) :=
  let count := leAt bs 8 8
  let payload := leAt bs 0x10 8
  if leAt bs 0 4 = 0x504D4954 ∧ leAt bs 4 2 = 0x0100 ∧ leAt bs 6 1 = src ∧ leAt bs 7 1 = (if encrypted then 1 else 0) ∧
      count ≠ 0 ∧ payload = fmtBytes src count ∧ allZero ((bs.drop 0x24).take 28) = true ∧
      (encrypted = true ∨ leAt bs 0x18 12 = 0) ∧ n = 64 + payload + (if encrypted then 16 else 0) then some (count, payload)
  else none

/-- The header of a container at the start of a resolved range, its tiles checked and decoded as any source tile (R316, R325). -/
def headerBytes (b : Block) (l : List TilePlace) (va : Nat) : Except (BitVec 16) (List Byte) :=
  match readPlaces b (l.take (if va % 4096 ≤ 4032 then 1 else 2)) with
  | .error st => .error st
  | .ok bs => .ok ((bs.drop (va % 4096)).take 64)

/-- The session key of a partition (R370). -/
def sessionKey (b : Block) (vf : Nat) : Option (BitVec 256) := tabGet b.grotto.sessionKeys vf

def lastNonce (b : Block) (vf : Nat) : Nat := (tabGetD b.grotto.lastNonce vf 0).toNat

/-- Tiles of the staging area of a partition. -/
def stagingTiles (b : Block) (vf : Nat) : Nat :=
  match partAt b vf with
  | some p => (areaOf p.desc 4).tiles
  | none => 0

/-- The key register of a partition's mover work loaded for one command (R361). -/
def loadKey (b : Block) (vf cmd : Nat) (k : BitVec 256) : Block :=
  { b with grotto := { b.grotto with cipherKeys := tabSet b.grotto.cipherKeys vf ⟨cmd, k⟩ } }

/-- The key the register holds for a command. -/
def cipherKey (b : Block) (vf cmd : Nat) : Option (BitVec 256) :=
  match tabGet b.grotto.cipherKeys vf with
  | some e => if e.cmd = cmd then some e.key else none
  | none => none

/-- The Grotto loads the session key at the start of an encrypted import, while there is one. -/
def startKey (b : Block) (vf cmd : Nat) (encrypted : Bool) : Block :=
  match encrypted && (cipherKey b vf cmd).isNone, sessionKey b vf with
  | true, some k => loadKey b vf cmd k
  | _, _ => b

/-- The operations of an import: an unencrypted container is read and then converted; an encrypted one is staged, read back
and authenticated, and read back again to be converted (R333). -/
def importOps (encrypted : Bool) (src dst : List TilePlace) (dstVa dbytes : Nat) : List MoverOp :=
  let conv := dst.map (fun p =>
    let lo := max dstVa p.va
    .conv p (lo - p.va) (lo - dstVa) (p.va + 4096 - lo))
  if encrypted then
    src.map (fun p => .stage p 0) ++ src.map (fun _ => .readStaged 0) ++ [.auth] ++ src.map (fun _ => .readStaged 0) ++ conv
  else if dbytes = 0 then [] else src.map (fun p => .read p) ++ conv

/-- The rest of MEM_IMPORT once its header is read. -/
def importStart (q : QRef) (src : List (TilePlace × Nat)) (srcVa dstVa : Nat) (sf df : Nat) (encrypted : Bool)
    (count payload id : Nat) (b : Block) : Block :=
  let dbytes := fmtBytes df count
  match cmdTiles b q.tag.toNat id 0xF6 true dstVa dbytes with
  | .error e => onStop b id e
  | .ok dst =>
    startJob b id (objectsOf (src ++ dst)) (importOps encrypted (places src) (places dst) dstVa dbytes) dst.length
      (some ⟨sf, df, srcVa % 4096, payload, count, encrypted⟩)

/-- MEM_IMPORT: its ranges are resolved, its header checked, and for an encrypted container the session key, the nonce and the
staging area (R333). -/
def doMemImport (q : QRef) (srcVa dstVa srcBytes : BitVec 64) (formats flags : BitVec 8) (id : Nat) (b : Block) : Block :=
  let sf := bits formats.toNat 0 4
  let df := bits formats.toNat 4 4
  let enc := flags.getLsbD 0
  if importPair sf df = false ∨ 2 ≤ flags.toNat ∨ srcBytes.toNat < 64 then finish b id stInvalidField 0
  else
    match cmdTiles b q.tag.toNat id 0xF5 false srcVa.toNat srcBytes.toNat with
    | .error e => onStop b id e
    | .ok src =>
      match headerBytes b (places src) srcVa.toNat with
      | .error st => finish b id st 0
      | .ok hd =>
        match importHeader hd sf enc srcBytes.toNat with
        | none => finish b id stInvalidField 0
        | some (count, payload) =>
          if enc && (sessionKey b q.fn).isNone then finish b id stNotPermitted 0
          else if enc && (decide (stagingTiles b q.fn < src.length) || decide (leAt hd 0x18 12 ≤ lastNonce b q.fn)) then
            finish b id stInvalidField 0
          else importStart q src srcVa.toNat dstVa.toNat sf df enc count payload id b

/-- MEM_IMPORT. -/
def execMemImport (q : QRef) (h : Hdr) (srcVa dstVa srcBytes : BitVec 64) (formats flags : BitVec 8) (s : State) :
    Host.Outcome State Fault Refusal :=
  onBlock (fetchPacket (.memImport q h srcVa dstVa srcBytes formats flags) q h 0x14
    (doMemImport q srcVa dstVa srcBytes formats flags)) s

/-! ## QUERY (R274, R275) -/

/-- Bytes mapped in a context from objects of a tier. -/
def mappedBytes (p : Part) (c : Ctx) (tier : Nat) : Nat :=
  sum (c.mappings.map (fun m => match tabGet p.objects m.object with
    | some o => if o.tier = tier then m.bytes else 0
    | none => 0))

/-- The closed figures a QUERY reports: those of the epoch before the current one (R275). -/
def queryFigures (b : Block) (c : Ctx) : Nat × Nat :=
  match c.closed with
  | some f => if f.epoch = b.tb.epoch - 1 then (f.unitTicks, f.chargedNj / 1000000000) else (0, 0)
  | none => (0, 0)

/-- The usage record (R274). -/
def usageRecord (b : Block) (tag : BitVec 16) : List Byte :=
  match ctxAt b tag.toNat with
  | none => zeros 256
  | some c =>
    match partAt b c.fn with
    | none => zeros 256
    | some p =>
      let mine := p.objects.filter (fun (e : Nat × Obj) => e.2.creator == tag)
      let f := queryFigures b c
      leBytes 2 0x0100 ++ leBytes 2 tag.toNat ++ leBytes 4 (b.tb.epoch - 1).toNat ++ leBytes 8 f.1 ++ leBytes 8 f.2 ++
      leBytes 8 (now b).toNat ++
      (List.range 4).flatMap (fun t => leBytes 8 (mappedBytes p c t)) ++
      (List.range 4).flatMap (fun t => leBytes 8 (sum ((mine.filter (fun e => e.2.tier == t)).map (fun e => e.2.bytes)))) ++
      (List.range 4).flatMap (fun t => leBytes 8 (freeBytes b c.fn p t)) ++
      leBytes 4 mine.length ++
      leBytes 4 (b.dealer.seqs.filter (fun (e : Nat × Seq) => e.2.tag == tag && e.2.state != .free)).length ++
      leBytes 2 c.plans.length ++
      leBytes 2 (b.dealer.adapters.filter (fun (e : Nat × Adapter) => e.2.bound && e.2.tag == tag)).length ++
      leBytes 4 c.mappings.length ++ zeros 112

/-- QUERY: its result range is resolved; the mover writes the record as it stands at the write. -/
def doQuery (q : QRef) (kind : BitVec 8) (resultVa : BitVec 64) (id : Nat) (b : Block) : Block :=
  if kind ≠ 0 ∨ resultVa.toNat % 64 ≠ 0 then finish b id stInvalidField 0
  else
    match cmdTiles b q.tag.toNat id 0xF8 true resultVa.toNat 256 with
    | .error e => onStop b id e
    | .ok to' =>
      startJob b id (objectsOf to') ((places to').map (fun p =>
        let sp := tileSpan resultVa.toNat 256 p.va
        .put p sp.1 (zeros sp.2.2))) 256 none

/-- QUERY. -/
def execQuery (q : QRef) (h : Hdr) (kind : BitVec 8) (resultVa : BitVec 64) (s : State) : Host.Outcome State Fault Refusal :=
  onBlock (fetchPacket (.query q h kind resultVa) q h 0x50 (doQuery q kind resultVa)) s

/-! ## Capacity (R328, R432) -/

/-- The resource a place uses: the host port by direction, a stack, a Gallery slice or a far channel. -/
def addrRes (b : Block) (pa : Nat) : Nat :=
  match regionOf b pa with
  | some (.stack k) => 16 + k
  | some (.gallery d) => 32 + d
  | some (.far c) => 48 + c
  | none => 2

def placeRes (b : Block) (p : TilePlace) (write : Bool) : Nat := if p.host then (if write then 1 else 0) else addrRes b p.out

/-- The resources an operation's tile counts against, each once (log entry 39). -/
def opRes (b : Block) (op : MoverOp) : List Nat :=
  (match op with
    | .copy s d => [placeRes b s false, placeRes b d true]
    | .put d _ _ => [placeRes b d true]
    | .read s => [placeRes b s false]
    | .stage s pa => [placeRes b s false, addrRes b pa]
    | .readStaged pa => [addrRes b pa]
    | .auth => []
    | .conv d _ _ _ => [placeRes b d true]).eraseDups

/-- Tiles a slot may move on a resource (R328). -/
def capacity (trim : Bool) (res : Nat) : Nat :=
  if res < 16 then 122
  else if res < 32 then (if trim then 2048 else 232)
  else if res < 48 then 512
  else (if trim then 64 else 2)

/-- Whether the tile of an operation finds capacity, `used` counting what the slot has moved. -/
def hasRoom (trim : Bool) (used : Tab Nat) (l : List Nat) : Bool := l.all (fun r => decide (tabGetD used r 0 < capacity trim r))

def useRes (used : Tab Nat) (l : List Nat) : Tab Nat := l.foldl (fun u r => tabSet u r (tabGetD u r 0 + 1)) used

/-- 4,096 bytes charged to a context's tier of a resource (R432). -/
def chargeTier (x : Counters) (tier n : Nat) : Counters :=
  if tier = tierHost then { x with hostBytes := x.hostBytes + n }
  else if tier = tierFar then { x with farBytes := x.farBytes + n }
  else if tier = tierStack then { x with stackBytes := x.stackBytes + n }
  else { x with galleryBytes := x.galleryBytes + n }

def resTier (r : Nat) : Nat := if r < 16 then tierHost else if r < 32 then tierStack else if r < 48 then tierGallery else tierFar

/-- A moved tile counted once against every tier it reads or writes. -/
def chargeMove (b : Block) (tag : Nat) (l : List Nat) : Block :=
  modCtx b tag (fun c => { c with counters := ((l.map resTier).eraseDups).foldl (fun x t => chargeTier x t 4096) c.counters })

/-! ## Operations -/

/-- A job in the middle of a slot: the block, the job, what the slot has moved. -/
structure Moving where
  b : Block
  job : MoverJob
  used : Tab Nat
  deriving DecidableEq, Repr

/-- The converted bytes of an import, padded with zeros to a length (R334). A BF16 NaN keeps its payload when it becomes FP32,
R52 appending 16 zero bits where R40 propagates no payload (log entry 82). -/
def importBytes (i : ImportJob) (buf : List Byte) (n : Nat) : List Byte :=
  let payload := (buf.drop (i.start + 64)).take i.payload
  let m := memWriteN [] 0 payload
  let out := if i.srcFmt = i.dstFmt then payload
    else if i.dstFmt = fmtFP32 then (List.range i.count).flatMap (fun k => leBytes 4 (elemF32 m 0 i.srcFmt k).toNat)
    else (List.range i.count).flatMap (fun k => leBytes 2 (bf16OfF32 (elemF32 m 0 fmtFP32 k)).toNat)
  padTo n out

/-- Whether a T payload holds an invalid byte (R34). -/
def badTrits (i : ImportJob) (buf : List Byte) : Bool :=
  i.srcFmt == fmtT && ((buf.drop (i.start + 64)).take i.payload).any (fun x => decide (243 ≤ x.toNat))

/-- The header in the buffer still says what the job was made from. -/
def headerHolds (i : ImportJob) (buf : List Byte) : Bool :=
  importHeader ((buf.drop i.start).take 64) i.srcFmt i.encrypted (64 + i.payload + (if i.encrypted then 16 else 0)) ==
    some (i.count, i.payload)

/-- A decrypted container: header, then plaintext. -/
def decrypted (k : BitVec 256) (i : ImportJob) (buf : List Byte) : List Byte :=
  let iv := BitVec.ofNat 96 (leAt buf (i.start + 0x18) 12)
  buf.take (i.start + 64) ++ (List.range i.payload).map (fun n => buf.getD (i.start + 64 + n) 0 ^^^ Config.gcmStream k iv n)

/-- The bytes in the buffer as an import converts them. -/
def importPlain (b : Block) (vf cmd : Nat) (i : ImportJob) (buf : List Byte) : List Byte :=
  match i.encrypted, cipherKey b vf cmd with
  | true, some k => decrypted k i buf
  | _, _ => buf

/-- Authentication (R247, R333): the nonce, then the tag, under the key the Grotto loaded; the T bytes of what it protects are checked
before the nonce is taken (R34). -/
def authStatus (b : Block) (vf cmd : Nat) (i : ImportJob) (buf : List Byte) : BitVec 16 :=
  let hd := (buf.drop i.start).take 64
  let ct := (buf.drop (i.start + 64)).take i.payload
  let tag := BitVec.ofNat 128 (leAt buf (i.start + 64 + i.payload) 16)
  let nonce := leAt hd 0x18 12
  match cipherKey b vf cmd with
  | none => stNotPermitted
  | some k =>
    if headerHolds i buf = false ∨ nonce ≤ lastNonce b vf then stInvalidField
    else if Config.gcmTag k (BitVec.ofNat 96 nonce) hd ct ≠ tag then stChecksum
    else if badTrits i (decrypted k i buf) then stInvalidField
    else stOk

/-- One tile of an import converted and written; the header and the T bytes are checked first. -/
def convOp (m : Moving) (vf cmd : Nat) (i : ImportJob) (p : TilePlace) (off start len : Nat) : Except (BitVec 16) Moving :=
  let plain := importPlain m.b vf cmd i m.job.buf
  if headerHolds i m.job.buf = false ∨ badTrits i plain = true then .error stInvalidField
  else .ok { m with b := patchPlace m.b p off (((importBytes i plain (start + len)).drop start).take len) }

/-- One operation of a command of R295. -/
def runOp (c : Cmd) (m : Moving) (op : MoverOp) : Except (BitVec 16) Moving :=
  match op with
  | .copy s d =>
    match readPlace m.b s with
    | .error st => .error st
    | .ok t => .ok { m with b := writePlace (touchRead m.b s) d t }
  | .put d off data =>
    let bs := if c.opcode = 0x50 then ((usageRecord m.b c.q.tag).drop (if off = 0 then 256 - data.length else 0)).take data.length
      else data
    .ok { m with b := patchPlace m.b d off bs }
  | .read s =>
    match readPlace m.b s with
    | .error st => .error st
    | .ok t => .ok { m with b := touchRead m.b s, job := { m.job with buf := m.job.buf ++ t } }
  | .stage s pa =>
    match readPlace m.b s with
    | .error st => .error st
    | .ok t => .ok { m with b := writeTile (touchRead m.b s) pa true t }
  | .readStaged pa =>
    if tileOk m.b pa then .ok { m with job := { m.job with buf := m.job.buf ++ tileBytes m.b pa } } else .error stChecksum
  | .auth =>
    match m.job.imp with
    | none => .ok m
    | some i =>
      let st := authStatus m.b c.q.fn c.id i m.job.buf
      if st = stOk then
        let nonce := BitVec.ofNat 96 (leAt m.job.buf (i.start + 0x18) 12)
        .ok { m with b := { m.b with grotto := { m.b.grotto with lastNonce := tabSet m.b.grotto.lastNonce c.q.fn nonce } },
                     job := { m.job with buf := [] } }
      else .error st
  | .conv d off start len =>
    match m.job.imp with
    | none => .ok m
    | some i => convOp m c.q.fn c.id i d off start len

/-- What the arrays report of a source tile in device memory (R317; log entry 106). -/
def notePlace (errs : List (Nat × ReadErr)) (b : Block) (p : TilePlace) : Block :=
  if p.host then b else noteRead b p.out (errAt errs p.out)

/-- What the arrays report of the tile an operation reads; a tile written in part is read first. -/
def noteOp (errs : List (Nat × ReadErr)) (b : Block) (op : MoverOp) : Block :=
  match op with
  | .copy s _ => notePlace errs b s
  | .put d _ data => if data.length = 4096 then b else notePlace errs b d
  | .conv d _ _ len => if len = 4096 then b else notePlace errs b d
  | .read s => notePlace errs b s
  | .stage s _ => notePlace errs b s
  | .readStaged pa => noteRead b pa (errAt errs pa)
  | _ => b

/-- The operations of a command run while each next tile finds capacity (R329). -/
def runOps (c : Cmd) (trim : Bool) (errs : List (Nat × ReadErr)) : List MoverOp → Moving → Except (BitVec 16 × Block) Moving
  | [], m => .ok { m with job := { m.job with ops := [] } }
  | op :: ops, m =>
    let res := opRes m.b op
    if hasRoom trim m.used res then
      let m0 := { m with b := noteOp errs m.b op }
      match runOp c m0 op with
      | .error st => .error (st, m0.b)
      | .ok m1 => runOps c trim errs ops { m1 with b := chargeMove m1.b c.q.tag.toNat res, used := useRes m1.used res }
    else .ok { m with job := { m.job with ops := op :: ops } }

/-! ## The staging area (R330, R333) -/

/-- Physical addresses of staging tiles in use: staged slots of steps and staging copies of imports. -/
def stagingUsed (b : Block) (vf : Nat) : List Nat :=
  (b.dealer.steps.filter (fun s => s.fn == vf)).flatMap (fun s => s.slots.flatMap (fun x => x.staged)) ++
  (b.dealer.cmds.filter (fun c => c.q.fn == vf)).flatMap (fun c => match c.stage with
    | .mover j => j.staging
    | _ => [])

/-- Physical addresses of a partition's free staging tiles, ascending by IPA. -/
def stagingFree (b : Block) (vf : Nat) : List Nat :=
  match partAt b vf with
  | none => []
  | some p =>
    let r := areaRange (areaOf p.desc 4)
    let used := stagingUsed b vf
    ((List.range (areaOf p.desc 4).tiles).filterMap (fun i => (stage2 b p (r.ipa + 4096 * i)).map (fun h => h.out))).filter
      (fun a => !used.contains a)

/-- The staging addresses of an import's operations filled in from its tiles, in order, for each pass. -/
def placeStaged (tiles : List Nat) : List MoverOp → Nat → List MoverOp
  | [], _ => []
  | op :: ops, i =>
    match op with
    | .stage s _ => .stage s (tiles.getD (i % tiles.length) 0) :: placeStaged tiles ops (i + 1)
    | .readStaged _ => .readStaged (tiles.getD (i % tiles.length) 0) :: placeStaged tiles ops (i + 1)
    | o => o :: placeStaged tiles ops i

/-- Tiles an import stages. -/
def stagedCount (ops : List MoverOp) : Nat :=
  (ops.filter (fun o => match o with
    | .stage _ _ => true
    | _ => false)).length

/-- A job with its staging tiles: an import waits until they are free. -/
def readyJob (b : Block) (vf : Nat) (j : MoverJob) : Option MoverJob :=
  match j.imp with
  | some i =>
    if i.encrypted && j.staging.isEmpty then
      let n := stagedCount j.ops
      let free := stagingFree b vf
      if free.length < n then none else some { j with staging := free.take n, ops := placeStaged (free.take n) j.ops 0 }
    else some j
  | none => some j

/-! ## Slots -/

/-- The opcodes the mover serves one at a time in fetch order (R232, R329). -/
def moverOp (op : BitVec 8) : Bool := op == 0x12 || op == 0x13 || op == 0x14 || op == 0x50

/-- Whether a command of R295 keeps its place before those fetched after it: one held for its CQ entry that passed its checks, one
that waits for an invalidation, one in the mover. -/
def keepsPlace (c : Cmd) : Bool :=
  moverOp c.opcode &&
    match c.stage with
    | .held none => true
    | .mover _ => true
    | .waiting => true
    | _ => false

/-- The function's current command of R295: the first fetched that has not ended. -/
def currentCmd (b : Block) (fn : Nat) : Option Cmd := b.dealer.cmds.find? (fun c => c.q.fn == fn && keepsPlace c)

/-- A command of the mover ends in a slot: its record follows the slot's end, and a key register that served it is erased (R329,
R361). -/
def endMoved (b : Block) (id : Nat) (st : BitVec 16) (detail : BitVec 32) : Block :=
  eraseKeys (finish (modDealer b (fun d => { d with cmds := d.cmds.map (fun c =>
    if c.id = id then { c with after := some (now b) } else c) })) id st detail)

/-- The current command of a partition served in a slot. -/
def serveCmd (b : Block) (fn : Nat) (trim : Bool) (errs : List (Nat × ReadErr)) (used : Tab Nat) : Block :=
  match currentCmd b fn with
  | none => b
  | some c =>
    match c.stage with
    | .mover j =>
      match readyJob b fn j with
      | none => b
      | some j1 =>
        let b0 := startKey b fn c.id (j1.imp.any (fun i => i.encrypted))
        match runOps c trim errs j1.ops ⟨b0, j1, used⟩ with
        | .error (st, b1) => endMoved b1 c.id st 0
        | .ok m =>
          if m.job.ops.isEmpty then endMoved m.b c.id stOk (BitVec.ofNat 32 m.job.detail)
          else setCmd m.b c.id (.mover m.job)
    | _ => b

/-- A step's admission completes in the tick after the slot in which its last tile was staged (R330); one whose base set is under
repair stays staged, one whose set has failed ends (R423). -/
def stagingEnds (b : Block) (s : Step) : Block :=
  let b1 := modStep b s.id (fun x => { x with stageOps := [] })
  match partAt b s.fn, stepPlan b s with
  | some p, some pl =>
    if imgUsesBase pl.image && baseWaits b p then b1
    else if imgUsesBase pl.image && !baseOk b p pl.image then failBase b1 s
    else modStep b1 s.id (fun x =>
      { x with stage := .admitted, admittedAt := some (x.admittedAt.getD (stampAt b.tb (b.tb.tick + 1))) })
  | _, _ => b1

/-- Staging operations of a step run while each next tile finds capacity; a host tile that fails its check raises a block fault
attributed to the step's context (R316, R330). -/
def stageOps (s : Step) (trim : Bool) : List MoverOp → Block → Tab Nat → Block × Tab Nat
  | [], b, used => (stagingEnds b s, used)
  | op :: ops, b, used =>
    let res := opRes b op
    if hasRoom trim used res then
      match op with
      | .stage p pa =>
        match readPlace b p with
        | .error _ =>
          (blockFault (modStep b s.id (fun x => { x with stageOps := op :: ops }))
            ⟨2, 3, stChecksum, s.tag.toNat, s.fn, 0, false, busOf p.out, commandField s.cid s.cq, agMover, 0⟩, used)
        | .ok t => stageOps s trim ops (chargeMove (writeTile (touchRead b p) pa true t) s.tag.toNat res) (useRes used res)
      | _ => stageOps s trim ops b used
    else (modStep b s.id (fun x => { x with stageOps := op :: ops }), used)

/-- A pin counted on an entry, which is made where there is none (R291). -/
def pinAdd (l : List L2Entry) (vf : Nat) (r : PinReq) : List L2Entry :=
  if l.any (fun e => e.vf == vf && e.req == r) then
    l.map (fun e => if e.vf = vf ∧ e.req = r then { e with pins := e.pins + 1 } else e)
  else l ++ [⟨vf, r, 1⟩]

/-- VA and staging address of a staging operation. -/
def stagedTo : MoverOp → Option (Nat × Nat)
  | .stage p pa => some (p.va, pa)
  | _ => none

/-- A device pin of a staged tile with its copy's address. -/
def stagedPin (ops : List MoverOp) (r : PinReq) : PinReq :=
  match (ops.filterMap stagedTo).find? (fun e => e.1 == r.va) with
  | some e => if r.die < 16 ∧ r.out = 0 ∧ r.count = 1 ∧ r.pageLog = 12 then { r with out := e.2 } else r
  | none => r

/-- The staged copies of a slot. -/
def stagedSlot (ops : List MoverOp) (x : BoundSlot) : BoundSlot :=
  if x.host then
    { x with staged := (ops.filterMap stagedTo).filterMap (fun e =>
               if x.va ≤ e.1 ∧ e.1 < x.va + 4096 * x.extent then some e.2 else none) }
  else x

/-- Staging tiles given to a step when its copies fit the free part of the area; until then its staging waits (R330). -/
def allocStaging (b : Block) (id : Nat) : Block :=
  match stepById b id with
  | none => b
  | some s =>
    let free := stagingFree b s.fn
    if s.stage ≠ .staging ∨ s.slots.any (fun x => !x.staged.isEmpty) = true ∨ free.length < s.stageOps.length then b
    else
      let ops := placeStaged free s.stageOps 0
      let pins := s.pins.map (stagedPin ops)
      let l2 := pins.foldl (fun l r => pinAdd l s.fn r) (s.pins.foldl (fun l r => unpin l s.fn r) b.xlat.l2)
      modStep { b with xlat := { b.xlat with l2 := l2 } } id
        (fun x => { x with pins := pins, stageOps := ops, slots := x.slots.map (stagedSlot ops) })

/-- The staging of a partition's steps served in a slot, in the order their pins were installed (R329). -/
def serveStaging (b : Block) (fn : Nat) (trim : Bool) : Block × Tab Nat :=
  let l := (b.dealer.steps.filter (fun s => s.fn == fn && s.stage == .staging)).filter (fun _ => (fnAt b fn).state != .frozen)
  (sortBy (fun s => (s.pinnedAt.getD 0).toNat) l).foldl (fun st s0 =>
    let b1 := allocStaging st.1 s0.id
    match stepById b1 s0.id with
    | some s => if s.slots.any (fun x => !x.staged.isEmpty) then stageOps s trim s.stageOps b1 st.2 else (b1, st.2)
    | none => (b1, st.2)) (b, [])

/-- The tiles of a BASE_LOAD moved in a slot; `n` bounds the tiles left (R351). -/
def serveBase (trim : Bool) : Nat → Block → Nat → Nat → Nat → Nat → Tab Nat → Block × Tab Nat
  | 0, b, _, _, _, _, used => (b, used)
  | n + 1, b, id, index, source, moved, used =>
    match tabGet b.dealer.bases index with
    | none => (b, used)
    | some s =>
      let res := (0 :: (baseTargets b s moved).map (addrRes b)).eraseDups
      if hasRoom trim used res then
        let b1 := moveBaseTile b s source moved
        let used1 := useRes used res
        if tileIsT s moved && (hostRead b (source + 4096 * moved) 4096).any (fun x => decide (243 ≤ x.toNat)) then
          (baseFails b1 id index, used1)
        else if moved + 1 = s.tiles then (baseEnds b1 id index, used1)
        else serveBase trim n (setCmd b1 id (.baseLoad index source (moved + 1))) id index source (moved + 1) used1
      else (b, used)

/-- The BASE_LOAD in progress, if one is. -/
def serveBaseLoad (b : Block) (trim : Bool) : Block × Tab Nat :=
  match b.dealer.cmds.findSome? (fun c => match c.stage with
    | .baseLoad i src moved => some (c.id, i, src, moved)
    | _ => none) with
  | some (id, i, src, moved) => serveBase trim 4096 b id i src moved []
  | none => (b, [])

/-- Tiles of a Lantern dump moved in a slot: written to the host with no index and no codec (R443). -/
def serveDump (trim : Bool) (errs : List (Nat × ReadErr)) : Nat → Block → Tab Nat → Block × Tab Nat
  | 0, b, used => (b, used)
  | n + 1, b, used =>
    let l := b.lantern
    if l.dumping then
      let a := ltBase l + 4096 * l.dumped
      let res := [1, addrRes b a]
      if hasRoom trim used res then
        let b1 := hostWrite (noteRead b a (errAt errs a)) (l.dumpAddress.toNat + 4096 * l.dumped) (tileBytes b a)
        let done := decide (ltTiles l ≤ l.dumped + 1)
        serveDump trim errs n
          { b1 with lantern := { l with dumped := l.dumped + 1, dumping := !done, result := if done then 0 else l.result } } (useRes used res)
      else (b, used)
    else (b, used)

/-- Pieces of 4 KiB of a PART_SAVE's image written in a slot while the host port has room (R357; log entry 115). -/
def serveSave (trim : Bool) : Nat → Block → Nat → Tab Nat → Block
  | 0, b, _, _ => b
  | n + 1, b, id, used =>
    match ((cmdById b id).map (fun c => c.stage)).getD .waiting with
    | .saving vf a left detail =>
      if left.isEmpty then endMoved b id stOk (BitVec.ofNat 32 detail)
      else if hasRoom trim used [1] then
        serveSave trim n (setCmd (hostWrite b a (left.take 4096)) id (.saving vf (a + 4096) (left.drop 4096) detail)) id (useRes used [1])
      else b
    | _ => b

/-- The PART_SAVE that a slot of a partition, or of none, serves. -/
def saveServed (b : Block) (owner : Option Nat) : Option Nat :=
  b.dealer.cmds.findSome? (fun c => match c.stage with
    | .saving vf _ _ _ => if owner.getD vf = vf then some c.id else none
    | _ => none)

def serveSaves (b : Block) (owner : Option Nat) (trim : Bool) (used : Tab Nat) : Block :=
  match saveServed b owner with
  | some id => serveSave trim 4096 b id used
  | none => b

/-- The partition whose mover mask holds a slot. -/
def slotOwner (b : Block) (i : Nat) : Option Nat :=
  (b.parts.find? (fun e => e.2.desc.moverMask.getLsbD (i % 16))).map (fun e => e.1)

/-- One mover slot, whole, at its last tick, after what cores have done by then (R328, R329, R425); `errs` are the device tiles whose read
in it an array reports on. -/
def moverSlot (i : Nat) (errs : List (Nat × ReadErr)) (b : Block) : Block :=
  if alive b && ticking b && decide (b.tb.moverSlots ≤ i) && decide (7808 * i + 7807 ≤ lastTick b.tb) &&
      decide (b.tb.tick ≤ 7808 * i + 7807) then
    let b0 := toTick (workTo (7808 * i + 7808) b) (7808 * i + 7807)
    let b1 := { b0 with tb := { b0.tb with moverSlots := i + 1 } }
    let trim := decide (b1.tb.round = trimRound)
    match slotOwner b1 i with
    | some fn =>
      let st := serveStaging b1 fn trim
      serveSaves (serveCmd st.1 fn trim errs st.2) (some fn) trim st.2
    | none =>
      let st := serveBaseLoad b1 trim
      let dump := serveDump trim errs 4096 st.1 st.2
      serveSaves dump.1 none trim dump.2
  else b

/-- MOVER_SLOT. -/
def execMoverSlot (slot : Nat) (errs : List (Nat × ReadErr)) (s : State) : Host.Outcome State Fault Refusal :=
  onBlock (fun b => settle (moverSlot slot errs b)) s

end Sys2Proof.Machine
end

