-- ==== Sys2Proof/Machine/Placement.lean ====
section
/-!
DEFINITION. Calendars (R146 to R150), the skip pattern (R154), pins installed (R287, R291, R292), and the placement of tricks
on the units of the next round (R19, R178 to R180, R184 to R186, R216).
-/

namespace Sys2Proof.Machine

open Sys2Proof

/-! ## Calendars and skips -/

/-- Whether a partition owns every core of a unit in a round; a number from 10,000 on is a round of the next epoch, whose
table is the staged one. -/
def unitOwned (b : Block) (vf n base order : Nat) : Bool :=
  (unitQuads base order).all (fun q =>
    (if n < 10000 then quadOwner b n q else ownerIn b.cal.staged (n - 10000) q) == vf)

/-- The rounds a throttled die skips (R154). -/
def skipRound (n : Nat) : Bool := (n + n / 1000) % 2 == 1

/-- Whether the current round is skipped on a unit (R154). -/
def unitSkipped (b : Block) (base order : Nat) : Bool :=
  skipRound b.tb.round && (unitDies base order).any (fun d => decide (d < 12) && b.tb.throttled.getLsbD d)

/-- The rounds after n up to m of R178, the trim round left out. -/
def carryRounds (n : Nat) : List Nat :=
  let l := ((List.range 4).map (fun i => n + 1 + i)).filter (fun r => r != trimRound)
  let odd := l.takeWhile (fun r => skipRound (r % 10000))
  l.take (odd.length + 1)

/-- R178: whether a carried trick that is not the last of its deck, or a fill, may run on a unit in round n. -/
def carryOk (b : Block) (vf n base order : Nat) : Bool :=
  n != 9998 && (carryRounds n).all (fun r => unitOwned b vf r base order)

/-! ## PIN_INSTALL (R291, R292, R330) -/

/-- A partition's share on a die, or of the host pin table (R287, R289). -/
def pinShare (p : Part) (die : Nat) : Nat := if die = 16 then p.desc.hostPins else p.desc.l2Entries

/-- Entries a partition holds on a die. -/
def pinsHeld (b : Block) (vf die : Nat) : Nat :=
  (b.xlat.l2.filter (fun e => e.vf == vf && e.req.die == die)).length

/-- Entries a pin set needs on a die. -/
def pinsNeeded (s : Step) (die : Nat) : Nat := (s.pins.filter (fun r => r.die == die)).length

/-- New entries a pin set takes on a die: those no admitted step of the partition holds. -/
def pinsNew (b : Block) (s : Step) (die : Nat) : Nat :=
  (s.pins.filter (fun r => r.die == die && !(b.xlat.l2.any (fun e => e.vf == s.fn && e.req == r)))).length

/-- The first table a pin set can never fit. -/
def tooWide (s : Step) (p : Part) : Option Nat :=
  (List.range 17).find? (fun d => decide (pinShare p d < pinsNeeded s d))

/-- Whether a pin set fits the free entries now. -/
def pinsFit (b : Block) (s : Step) (p : Part) : Bool :=
  (List.range 17).all (fun d => decide (pinsHeld b s.fn d + pinsNew b s d ≤ pinShare p d))

/-- The detail of ST_STEP_TOO_WIDE: needed, saturating, then the share. -/
def wideDetail (need share : Nat) : BitVec 32 := BitVec.ofNat 32 (min need 0xFFFF * 65536 + min share 0xFFFF)

/-- Whether a pin of a step lies in the scope of an outstanding invalidation (R297). -/
def pinsHeldBack (b : Block) (s : Step) : Bool :=
  b.xlat.invals.any (fun v => s.pins.any (fun r => pinInScope b v.scope s.fn r))

/-- Every pin of a step installed in this tick; its staging begins, or its admission completes. -/
def installPins (b : Block) (s : Step) : Block :=
  let b1 := { b with xlat := { b.xlat with l2 := s.pins.foldl (fun l r => pinAdd l s.fn r) b.xlat.l2 } }
  if s.stageOps.isEmpty then
    modStep b1 s.id (fun x => { x with stage := .admitted, pinnedAt := some (now b), admittedAt := some (x.admittedAt.getD (now b)) })
  else
    allocStaging (modStep b1 s.id (fun x => { x with stage := .staging, pinnedAt := some (now b) })) s.id

/-- A walked pin set is installed when room exists, waits, or fails the step as too wide (R292, R330); a set that an
invalidation reaches is walked anew (R297), and one whose base set has failed ends the step (R423). -/
def pinInstall (id : Nat) (b : Block) : Block :=
  match stepById b id with
  | none => b
  | some s =>
    match partAt b s.fn, stepPlan b s, ctxAt b s.tag.toNat with
    | some p, some pl, some c =>
      if alive b && s.stage == .walked && admits b s.fn p && swapDone b c && !(imgUsesBase pl.image && baseWaits b p) then
        if imgUsesBase pl.image && !baseOk b p pl.image then failBase b s
        else if pinsHeldBack b s then modStep b id (fun x => { x with stage := .walking, pins := [] })
        else
          match tooWide s p with
          | some d => failWalk b s stStepTooWide (wideDetail (pinsNeeded s d) (pinShare p d))
          | none =>
            if stagingTiles b s.fn < s.stageOps.length then
              failWalk b s stStepTooWide (wideDetail s.stageOps.length (stagingTiles b s.fn))
            else if pinsFit b s p then installPins b s
            else b
      else b
    | _, _, _ => b

/-- PIN_INSTALL. -/
def execPinInstall (step : Nat) (s : State) : Host.Outcome State Fault Refusal :=
  onBlock (fun b => settle (pinInstall step b)) s

/-! ## Choosing units (R19, R178 to R180, R216) -/

/-- A run chosen for the next round. -/
structure Place where
  step : Step
  image : ByteMem
  base : Nat
  kind : RunKind
  deriving DecidableEq, Repr

def placeOrder (p : Place) : Nat := imgOrder p.image

/-- Whether a unit overlaps a run's unit. -/
def meetsPlace (base order : Nat) (p : Place) : Bool := overlap base (4 ^ order) p.base (4 ^ placeOrder p)

/-- Whether a step's next trick is the last of its deck. -/
def lastTrick (m : ByteMem) (s : Step) : Bool := decide ((imgPhase m s.phase).2 ≤ s.next + 1)

/-- Whether R178 binds a step's next run: a fill, or a carried trick that is not the last of its deck. -/
def bound178 (m : ByteMem) (s : Step) : Bool := imgCarried m && (s.needsFill || !lastTrick m s)

/-- Whether a step's next run may take a unit in round n. -/
def unitAllowed (b : Block) (n : Nat) (m : ByteMem) (s : Step) (base : Nat) : Bool :=
  unitOwned b s.fn n base (imgOrder m) && (!bound178 m s || carryOk b s.fn n base (imgOrder m))

/-- What is being placed: the runs chosen so far and the steps pre-empted. -/
structure Placing where
  runs : List Place
  out : List Nat
  deriving DecidableEq, Repr

/-- Whether the carried state of a step of a list other than one lies in a unit. -/
def othersHold (l : List (Step × ByteMem)) (id base order : Nat) : Bool :=
  l.any (fun e => e.1.id != id && e.1.holdsState && (match e.1.unit with
    | some v => overlap base (4 ^ order) v (4 ^ imgOrder e.2)
    | none => false))

/-- A step whose previous trick ran on a unit keeps it, unless another's carried state lies there now; one that holds carried state
and may not run its next trick runs its save trick (R179, R216). `l` are the steps that R216 considers. -/
def keepUnit (b : Block) (n : Nat) (l : List (Step × ByteMem)) (runs : List Place) (e : Step × ByteMem) : List Place :=
  let s := e.1
  match s.unit with
  | none => runs
  | some u =>
    if runs.any (meetsPlace u (imgOrder e.2)) || othersHold l s.id u (imgOrder e.2) then runs
    else if unitAllowed b n e.2 s u then runs ++ [⟨s, e.2, u, .trick⟩]
    else if s.holdsState && unitOwned b s.fn n u (imgOrder e.2) then runs ++ [⟨s, e.2, u, .save⟩]
    else runs

/-- The units a step that has none in this round may take: its own, or any of its order; none that holds a carried state whose step
does not run in the round (R19, R216). -/
def seekUnits (b : Block) (n : Nat) (l : List (Step × ByteMem)) (st : Placing) (p : Part) (e : Step × ByteMem) : List Nat :=
  let s := e.1
  let o := imgOrder e.2
  let idle := l.filter (fun x => !(st.runs.any (fun r => r.step.id == x.1.id)))
  (match s.unit with
    | some u => [u]
    | none => partUnits b p (imgEngine e.2) o).filter (fun u => unitAllowed b n e.2 s u && !othersHold idle s.id u o)

/-- A step without a run takes the lowest free unit it may, or one whose runs are all of strictly higher classes; where such a unit
holds carried state its save trick runs first (R19, R216). -/
def seekUnit (b : Block) (n : Nat) (l : List (Step × ByteMem)) (st : Placing) (e : Step × ByteMem) : Placing :=
  let s := e.1
  let o := imgOrder e.2
  if st.out.contains s.id || st.runs.any (fun r => r.step.id == s.id) then st
  else
    match partAt b s.fn with
    | none => st
    | some p =>
      let cands := seekUnits b n l st p e
      let kind : RunKind := if s.needsFill then .fill else .trick
      match cands.find? (fun u => !(st.runs.any (meetsPlace u o))) with
      | some u => { st with runs := st.runs ++ [⟨s, e.2, u, kind⟩] }
      | none =>
        match cands.find? (fun u => st.runs.all (fun r => !meetsPlace u o r || decide (s.cls < r.step.cls))) with
        | none => st
        | some u =>
          let hit := st.runs.filter (meetsPlace u o)
          if hit.any (fun r => r.step.holdsState) then
            { st with runs := st.runs.map (fun r => if meetsPlace u o r && r.step.holdsState then { r with kind := .save } else r) }
          else
            ⟨st.runs.filter (fun r => !meetsPlace u o r) ++ [⟨s, e.2, u, kind⟩], st.out ++ hit.map (fun r => r.step.id)⟩

/-- The order in which R216 takes steps. -/
def placeKey (e : Step × ByteMem) : Nat := e.1.cls * 2 ^ 64 + (e.1.admittedAt.getD 0).toNat

/-- The admitted steps of a partition that have a trick left, in that order. -/
def placeable (b : Block) (vf : Nat) : List (Step × ByteMem) :=
  sortBy placeKey (b.dealer.steps.filterMap (fun s =>
    match stepPlan b s with
    | some pl =>
      if s.fn = vf ∧ s.stage = .admitted ∧ s.aborted = false ∧ s.lost = false ∧ s.next < (imgPhase pl.image s.phase).2 then
        some (s, pl.image) else none
    | none => none))

/-- The save tricks of a FROZEN partition, which runs no other (R356). -/
def saveOnly (b : Block) (n : Nat) (l : List (Step × ByteMem)) : List Place :=
  l.filterMap (fun e => match e.1.unit with
    | some u => if e.1.holdsState && unitOwned b e.1.fn n u (imgOrder e.2) then some ⟨e.1, e.2, u, .save⟩ else none
    | none => none)

/-- The runs of a partition in round n. -/
def placePart (b : Block) (n vf : Nat) : Placing :=
  let l := placeable b vf
  if (fnAt b vf).state = .frozen then ⟨saveOnly b n l, []⟩
  else l.foldl (seekUnit b n l) ⟨l.foldl (keepUnit b n l) [], []⟩

/-! ## Loading (R68, R174, R184 to R186) -/

/-- Whether a segment issues a class-4 transfer or atomic. -/
def segFar (m : ByteMem) (e : SegEntry) : Bool :=
  (segBundles m e).any (fun w =>
    let s := wideSlot (moveWord w)
    let d := segDesc m e s.desc
    [1, 2, 3, 4, 8].contains s.op && decide (s.desc < e.descs) && bits d.toNat 8 3 == 4)

/-- Empty bundles before a trick (R186). -/
def prefixLen (m : ByteMem) (t base : Nat) : Nat :=
  if imgOrder m ≤ 1 ∧ (List.range (4 ^ imgOrder m)).any (fun j => segFar m (imgSeg m t j)) = true then 64 * (base % 64 % 16) else 0

/-- The bit at which the lane field of a descriptor lies, if it has one. -/
def laneBit (d : BitVec 256) : Option Nat :=
  if descType d = 6 ∨ descType d = 7 then some 24 else if descType d = 9 then some 32 else none

/-- The lane fields of class 2 to 4 operations rewritten for a base core (R185). -/
def relocate (base : Nat) (d : BitVec 256) : BitVec 256 :=
  match laneBit d with
  | none => d
  | some i => if 2 ≤ bits d.toNat 8 3 ∧ bits d.toNat 8 3 ≤ 4 then d + BitVec.ofNat 256 (base % 64 / 16 * 2 ^ i) else d

/-- The segment of a core of a placed trick. -/
def loadSegment (m : ByteMem) (p : Place) (t j : Nat) : Segment :=
  let e := imgSeg m t j
  ⟨(segDescs m e).map (relocate p.base), segBundles m e, prefixLen m t p.base, e.energyNj, p.step.id, t⟩

/-- The trick of the image a run stands for: the next of its deck, or for a save or fill the last that ran. -/
def placeTrick (p : Place) : Nat :=
  (imgPhase p.image p.step.phase).1 + (if p.kind = .trick then p.step.next else p.step.next - 1)

/-- A chosen trick loaded into the spare halves of its cores. -/
def loadPlace (b : Block) (p : Place) : Block :=
  let t := placeTrick p
  let b1 := if p.kind = .trick then
      (List.range (4 ^ placeOrder p)).foldl (fun c j =>
        modCore c (p.base + j) (fun x => { x with spare := some (loadSegment p.image p t j) })) b
    else b
  modDealer b1 (fun d => { d with
    loaded := d.loaded ++ [{
      order := placeOrder p, base := p.base, step := p.step.id, tag := p.step.tag, trick := t, kind := p.kind, sems := p.step.sems
      semOps := [], moved := [] }] })

/-- A segment that fails its CRC at its load (R174): a block fault of no context; where the plan store holds the image is not
stated, so the address is free (log entry 36). -/
def planStoreFault (b : Block) : Block :=
  let a := (Config.freeValue b.freeCtr).toNat % 2 ^ 52 / 4096 * 4096
  blockFault (nextFree b) ⟨2, 5, stChecksum, 0, 0, 0, false, a, 0, agDealer, 0⟩

/-- The round that follows the current one, in its epoch. -/
def nextRound (tb : TimeBase) : Nat := if tb.round = trimRound then 0 else tb.round + 1

/-- PLACEMENT for the next round; `bad` are the plans, by context tag and table index, whose segments fail their CRC as they
are read from the plan store. In the trim round, in which R137 places nothing, the tricks of round 0 are placed at tick 50,001, after
the new epoch's tables are known (log entry 94). -/
def placement (bad : List (Nat × Nat)) (b : Block) : Block :=
  if alive b && ticking b && b.tb.boundaryDone && b.recov.faultTick == none then
    let b1 := toTick b (if b.tb.round = trimRound then 50001 else 2048)
    let b2 := modDealer b1 (fun d => { d with loaded := [] })
    if nextRound b.tb = trimRound then b2
    else
      let all := b2.parts.map (fun e => placePart b2 (nextRound b.tb) e.1)
      let runs := all.flatMap (fun x => x.runs)
      let out := all.flatMap (fun x => x.out)
      let faults := bad.filter (fun e => runs.any (fun r => r.kind == .trick && r.step.tag.toNat == e.1 && r.step.plan.toNat % 256 == e.2))
      if faults.isEmpty then
        modDealer (runs.foldl loadPlace b2) (fun d => { d with steps := d.steps.map (fun s => if out.contains s.id then { s with unit := none } else s) })
      else faults.foldl (fun c _ => planStoreFault c) b2
  else b

/-- PLACEMENT. -/
def execPlacement (bad : List (Nat × Nat)) (s : State) : Host.Outcome State Fault Refusal := onBlock (placement bad) s

end Sys2Proof.Machine
end

