-- ==== Sys2Proof/Machine/Capability.lean ====
section
/-!
DEFINITION. The capability table of a function (R223).
-/

namespace Sys2Proof.Machine

open Sys2Proof

/-- The fields of the table that differ from one function to another. -/
structure CapFields where
  function : Nat
  resident : Nat
  contexts : Nat
  seqs : Nat × Nat
  adapters : Nat × Nat
  planKib : Nat
  units : List Nat
  far : Nat
  stack : Nat
  gallery : Nat

/-- The highest order of which there is a whole unit. -/
def highestOrder (units : List Nat) : Nat := ([4, 3, 2, 1].find? (fun n => units.getD n 0 != 0)).getD 0

/-- The 256 bytes of a capability table. -/
def capBytes (f : CapFields) : List Byte :=
  padTo 256 (leBytes 4 0x524C414A ++ leBytes 2 0x0102 ++ leBytes 2 0x0104 ++ leBytes 4 2 ++ leBytes 2 1 ++ leBytes 2 1 ++
    leBytes 1 f.function ++ zeros 1 ++ leBytes 2 0x0C0C ++ leBytes 1 8 ++ leBytes 1 8 ++ leBytes 2 64 ++
    leBytes 2 f.resident ++ zeros 2 ++ leBytes 4 f.contexts ++ leBytes 2 f.seqs.1 ++ leBytes 2 f.seqs.2 ++
    leBytes 2 f.adapters.1 ++ leBytes 2 f.adapters.2 ++ leBytes 4 f.planKib ++ leBytes 1 (highestOrder f.units) ++
    leBytes 1 4 ++ leBytes 2 1024 ++ (List.range 5).flatMap (fun n => leBytes 2 (f.units.getD n 0)) ++ zeros 6 ++
    leBytes 8 f.far ++ leBytes 8 f.stack ++ leBytes 8 f.gallery ++ leBytes 1 48 ++ leBytes 1 7 ++ leBytes 2 0x00FF ++
    leBytes 4 125000 ++ leBytes 4 1250000 ++ leBytes 2 10000)

/-- A VF's table, of its partition's carve-out. -/
def capOfPart (b : Block) (vf : Nat) (p : Part) : List Byte :=
  let d := p.desc
  capBytes ⟨vf, d.residentContexts, d.maxContexts, (d.seqBase, d.seqCount), (d.adapterBase, d.adapterCount),
    (areaOf d 3).tiles * 4, (List.range 5).map (fun n => (partUnits b p 0 n).length), d.farChannels * d.farGib * gib,
    d.stackDies * d.stackGib * gib, d.galleryDies * d.galleryMib * mib⟩

/-- PF0's table, of the whole build. -/
def capOfBuild (b : Block) : List Byte :=
  capBytes ⟨0, 0, 0, (0, 16384), (0, 1024), 0, (List.range 5).map (fun n => (unitBases b 0 n).length),
    (farChannels b).length * farGranules b * gib, popcount 12 (bld b).stackMask.toNat * 64 * gib,
    if (bld b).memside then (bld b).dies * (bld b).galleryMib * mib else 0⟩

end Sys2Proof.Machine
end

