-- ==== Sys2Proof/Machine/Frontend.lean ====
section
/-!
DEFINITION. Function control (R224, R225), the admin queue's registers (R227), and the ring doorbells (R233 to R237).
-/

namespace Sys2Proof.Machine

open Sys2Proof

/-! ## Function control -/

/-- A VF ignores writes of enable while its TDISP state is CONFIG_LOCKED or ERROR (R373, R376). -/
def enableIgnored (b : Block) (fn : Nat) : Bool :=
  match tabGet b.grotto.tdisp fn with
  | some t => t.state == .locked || t.state == .error
  | none => false

/-- Whether FE_AQ_CTRL is valid: a supported level and ring sizes of 2^4 to 2^12 entries (R227, R243). -/
def aqValid (x : Fn) : Bool :=
  x.aqLevel == 1 && decide (4 ≤ x.aqSqLog2.toNat) && decide (x.aqSqLog2.toNat ≤ 12) &&
  decide (4 ≤ x.aqCqLog2.toNat) && decide (x.aqCqLog2.toNat ≤ 12)

/-- A write of enable = 1 (R224, R225): the function runs from the ring positions it holds, or aq_error is set. -/
def fnEnable (fn : Nat) (b : Block) : Block :=
  let x := fnAt b fn
  if alive b && x.state == .ready && !enableIgnored b fn then
    if aqValid x then
      setFnState (modFn b fn (fun y => { y with enable := true, aqError := false, aqHostError := false, cqArmed := true })) fn
        .running
    else modFn b fn (fun y => { y with enable := false, aqError := true })
  else b

/-- FN_ENABLE: enable of FE_FN_CTRL written 1 with reset 0. -/
def execFnEnable (fn : Nat) (s : State) : Host.Outcome State Fault Refusal := onBlock (fnEnable fn) s

/-- Fetch of a RUNNING function stops as at a write of enable = 0 (R224). -/
def stopFn (b : Block) (fn : Nat) : Block :=
  if (fnAt b fn).state = .running then setFnState (modFn b fn (fun y => { y with enable := false })) fn .stopping else b

/-- A breaking event of a partition that is locked or running as a device interface: it enters ERROR and its fetch stops as at
a write of enable = 0 (R376). -/
def tdispError (b : Block) (vf : Nat) : Block :=
  match tabGet b.grotto.tdisp vf with
  | some t =>
    if t.state = .locked ∨ t.state = .run then
      stopFn { b with grotto := { b.grotto with tdisp := tabSet b.grotto.tdisp vf { t with state := .error } } } vf
    else b
  | none => b

/-- A write of enable = 0 (R225). -/
def fnDisable (fn : Nat) (b : Block) : Block :=
  if alive b && !enableIgnored b fn then stopFn b fn else b

/-- FN_DISABLE: enable of FE_FN_CTRL written 0 with reset 0. -/
def execFnDisable (fn : Nat) (s : State) : Host.Outcome State Fault Refusal := onBlock (fnDisable fn) s

/-- The last fetched command of a STOPPING function has completed (R224, R225). -/
def stoppingDone (fn : Nat) (b : Block) : Block :=
  if alive b && (fnAt b fn).state == .stopping && !(b.dealer.cmds.any (fun c => c.q.fn == fn)) then
    setFnState (modFn b fn aqReset) fn .ready
  else b

/-- STOPPING_DONE. -/
def execStoppingDone (fn : Nat) (s : State) : Host.Outcome State Fault Refusal := onBlock (stoppingDone fn) s

/-- One 32-bit word written at an offset of the admin queue's registers; RZ bits are discarded (R9, R227). -/
def aqWord (x : Fn) (offset : Nat) (w : BitVec 32) : Fn :=
  if offset = 0x1110 then
    { x with aqLevel := w.extractLsb' 12 4, aqCqLog2 := w.extractLsb' 8 4, aqSqLog2 := w.extractLsb' 4 4 }
  else if offset = 0x1118 then { x with aqSqBase := x.aqSqBase.extractLsb' 32 32 ++ (w &&& 0xFFFFF000) }
  else if offset = 0x111C then { x with aqSqBase := w ++ x.aqSqBase.extractLsb' 0 32 }
  else if offset = 0x1120 then { x with aqCqBase := x.aqCqBase.extractLsb' 32 32 ++ (w &&& 0xFFFFF000) }
  else if offset = 0x1124 then { x with aqCqBase := w ++ x.aqCqBase.extractLsb' 0 32 }
  else x

/-- Whether a register access has a width and an alignment that R222 allows. -/
def aligned (offset width : Nat) : Bool :=
  (width == 32 && decide (offset % 4 = 0)) || (width == 64 && decide (offset % 8 = 0))

/-- A write of a width made of its 32-bit words, the lower first. -/
def byWords {α : Type} (f : α → Nat → BitVec 32 → α) (x : α) (offset width : Nat) (v : BitVec 64) : α :=
  let y := f x offset (v.extractLsb' 0 32)
  if width = 64 then f y (offset + 4) (v.extractLsb' 32 32) else y

/-- A write to FE_AQ_CTRL or an admin ring base in FUNCTION_READY; it sets the ring positions to 0 (R225). -/
def aqConfigWrite (fn offset width : Nat) (v : BitVec 64) (b : Block) : Block :=
  if alive b && (fnAt b fn).state == .ready && aligned offset width && decide (0x1110 ≤ offset) && decide (offset < 0x1128) &&
      offset != 0x1114 then
    modFn b fn (fun x => aqReset (byWords aqWord x offset width v))
  else b

/-- AQ_CONFIG_WRITE. -/
def execAqConfigWrite (fn offset width : Nat) (value : BitVec 64) (s : State) : Host.Outcome State Fault Refusal :=
  onBlock (aqConfigWrite fn offset width value) s

/-! ## Ring doorbells -/

/-- The log2 of an SQ's entries, if it has been created; the admin SQ's from FE_AQ_CTRL. -/
def sqLog2 (b : Block) (q : QRef) : Option Nat :=
  match sqOf b q with
  | some s => some s.log2
  | none => none

def cqLog2 (b : Block) (q : QRef) (i : Nat) : Option Nat :=
  match cqOf b q i with
  | some c => some c.log2
  | none => none

/-- FE_DB_SQ (R233 to R235): the tail is recorded whatever the states, and a context that is not resident is to be swapped
in. -/
def sqDoorbell (fn width : Nat) (v : BitVec 64) (b : Block) : Block :=
  if takesDoorbells b fn then
    let q : QRef := ⟨fn, dbTag v, dbQueue v⟩
    match ringReason b fn width v (sqLog2 b q) with
    | some r => doorbellError b fn 0 r v
    | none =>
      let b1 := setSqTail b q (dbIndex v)
      if dbTag v = 0 then b1
      else modCtx b1 (dbTag v).toNat (fun c => { c with lastDoorbell := some (now b), wantsSwapIn := c.wantsSwapIn || !c.resident,
                                                         wantsSince := if c.resident || c.wantsSwapIn then c.wantsSince else some (now b) })
  else b

/-- SQ_DOORBELL: a write to FE_DB_SQ. `width` is 64 for an aligned 64-bit write (log entry 33). -/
def execSqDoorbell (fn width : Nat) (value : BitVec 64) (s : State) : Host.Outcome State Fault Refusal :=
  onBlock (sqDoorbell fn width value) s

/-- FE_DB_CQ (R233, R237): records before the head are released; an arm with records left sends the vector at once. -/
def cqDoorbell (fn width : Nat) (v : BitVec 64) (b : Block) : Block :=
  if takesDoorbells b fn then
    let q : QRef := ⟨fn, dbTag v, 0⟩
    let i := (dbQueue v).toNat
    match ringReason b fn width v (cqLog2 b q i) with
    | some r => doorbellError b fn 1 r v
    | none =>
      match cqOf b q i with
      | none => b
      | some c =>
        let c1 := { c with head := dbIndex v }
        if v.getLsbD 31 then
          let c2 := { c1 with armed := true }
          if cqUnreleased c2 = 0 then setCq b q i c2 else cqInterrupt b q i c2
        else setCq b q i c1
  else b

/-- CQ_DOORBELL: a write to FE_DB_CQ. `width` is 64 for an aligned 64-bit write (log entry 33). -/
def execCqDoorbell (fn width : Nat) (value : BitVec 64) (s : State) : Host.Outcome State Fault Refusal :=
  onBlock (cqDoorbell fn width value) s

/-- NOP (R246). -/
def doNop (id : Nat) (b : Block) : Block := finish b id stOk 0

/-- NOP. -/
def execNop (q : QRef) (h : Hdr) (s : State) : Host.Outcome State Fault Refusal :=
  onBlock (fetchPacket (.nop q h) q h 0x01 doNop) s

/-! ## Opcodes that are not assigned (R244) -/

/-- UNASSIGNED_OPCODE: a packet whose opcode is assigned to nothing at its level. -/
def execUnassignedOpcode (q : QRef) (h : Hdr) (opcode : BitVec 8) (s : State) : Host.Outcome State Fault Refusal :=
  if assigned opcode then .next s
  else onBlock (fetchPacket (.unassignedOpcode q h opcode) q h opcode (fun id b => finish b id stInvalidOpcode 0)) s

end Sys2Proof.Machine
end

