-- ==== Sys2Proof/Machine/Debug.lean ====
section
/-!
DEFINITION. Key derivation (R364, R365, R370), the attestation key, and stages 3 to 5 of DEBUG_UNLOCK (R386).
-/

namespace Sys2Proof.Machine

open Sys2Proof

/-! ## HKDF-SHA-384 (R364, R365; log entry 7) -/

/-- A digest's 48 bytes. -/
def digestBytes (d : BitVec 384) : List Byte := leBytes 48 d.toNat

/-- The n-th and later blocks of HKDF-Expand after the block before them. -/
def hkdfBlocks (prk info : List Byte) : Nat → Nat → List Byte → List Byte
  | 0, _, _ => []
  | fuel + 1, n, last =>
    let t := digestBytes (Config.hmac384 prk (last ++ info ++ [BitVec.ofNat 8 n]))
    t ++ hkdfBlocks prk info fuel (n + 1) t

/-- HKDF-Expand to a length. -/
def hkdfExpand (prk info : List Byte) (length : Nat) : List Byte := (hkdfBlocks prk info (ceilDiv length 48) 1 []).take length

/-- HKDF with a salt. -/
def hkdf (salt ikm info : List Byte) (length : Nat) : List Byte := hkdfExpand (digestBytes (Config.hmac384 salt ikm)) info length

/-- A label's bytes. -/
def ascii (s : String) : List Byte := s.toList.map (fun c => BitVec.ofNat 8 c.toNat)

/-- Bytes read as a big-endian integer. -/
def bigEndian (bs : List Byte) : Nat := bs.foldl (fun n x => 256 * n + x.toNat) 0

/-- The order of P-384 (log entry 119). -/
def orderP384 : Nat :=
  0xFFFFFFFFFFFFFFFFFFFFFFFFFFFFFFFFFFFFFFFFFFFFFFFFC7634D81F4372DDF581A0DB248B0A77AECEC196ACCC52973

/-- The P-384 private key of a secret and a label (R365). -/
def keyOf (secret : List Byte) (label : String) : BitVec 384 :=
  BitVec.ofNat 384 (bigEndian (hkdf (zeros 48) secret (ascii label) 64) % (orderP384 - 1) + 1)

/-- The partition session key of a session (R370). -/
def importKey (secret : BitVec 384) : BitVec 256 :=
  BitVec.ofNat 256 (le (hkdfExpand (Config.exportSecret secret) (ascii "PLYNELL IMPORT") 32))

/-! ## Layers 1 and 2 (R364, R367) -/

/-- Measurement 6 as a digest: that of the debug-state byte (log entry 45). -/
def digest6 (s : BitVec 8) : BitVec 384 := Config.sha384 [s]

/-- The four measurements that CDI_2 covers. -/
def covered (g : Grotto) : List Byte :=
  digestBytes (g.m3.getD 0) ++ digestBytes (g.m4.getD 0) ++ digestBytes (g.m5.getD 0) ++ digestBytes (digest6 g.debugState)

/-- CDI_2, the attestation key and its certificate, signed by the alias key; CDI_2 is erased. -/
def attest (g : Grotto) : Grotto :=
  match g.cdi1, g.aliasKey with
  | some c, some a =>
    let k := keyOf (digestBytes (Config.hmac384 (digestBytes c) (covered g))) "PLYNELL ATTEST"
    let pub := Config.publicKey k
    let body := leBytes 97 pub.toNat ++ covered g
    { g with attestKey := some k, attestCert := Config.certificate pub (covered g) (Config.sign a body), cdi2 := none }
  | _, _ => g

/-! ## Stages 3 to 5 of DEBUG_UNLOCK (R386) -/

/-- Stage 3: every key of R361 except CDI_1, the alias key and the certificates of the DeviceID chain; every session ends. -/
def unlockKeys (b : Block) : Block :=
  { b with grotto := { b.grotto with attestKey := none, attestCert := [], blockFarKey := none, farKeys := [], sessionKeys := []
                                     migrationKeys := [], lastNonce := [], cipherKeys := [], sessions := [] } }

/-- Stages 4 and 5: debug state 0x01, a new attestation key, and the debug instructions opened. -/
def unlockDebug (b : Block) : Block :=
  { b with grotto := attest { b.grotto with debugState := 0x01, unlocking := false }, jtag := { b.jtag with debugOpen := true } }

/-- A DEBUG_UNLOCK whose stage 2 has run to a round's sample of DBG_CABLE_N that finds it asserted ends (R389, R391; log entry 120). -/
def finishUnlock (b : Block) : Block :=
  match b.dealer.cmds.find? (fun c => c.stage == .unlocking true) with
  | none => b
  | some c => if b.grotto.cable then finish (unlockDebug (unlockKeys b)) c.id stOk 0 else b

end Sys2Proof.Machine
end

