-- ==== Sys2Proof/Machine/Spill.lean ====
section
/-!
DEFINITION. What save and fill tricks move and cost (R181 to R183, R430 to R432), and their far transfers (R323).
-/

namespace Sys2Proof.Machine

open Sys2Proof

/-! ## Charges (R430) -/

def addCharge (b : Block) (tag ticks nj : Nat) : Block :=
  modCtx b tag (fun c => { c with counters := { c.counters with unitTicks := c.counters.unitTicks + ticks
                                                                plannedNj := c.counters.plannedNj + nj } })

/-- Unit-ticks of a unit in a round. -/
def runTicks (order : Nat) : Nat := 4 ^ order * 121928

/-! ## What is moved (R164, R181) -/

/-- Live tiles of a core in a trick's live maps (R164). -/
def liveTiles (m : ByteMem) (t j : Nat) : List Nat :=
  if imgLiveAt m t = 0 then []
  else (List.range 256).filter (fun i => bit (imgLE m (imgLiveAt m t + 40 * j + i / 8) 1) (i % 8))

/-- Live accumulator buffers of a core. -/
def liveBufs (m : ByteMem) (t j : Nat) : List Nat :=
  if imgLiveAt m t = 0 then [] else maskBits 16 (imgLE m (imgLiveAt m t + 40 * j + 32) 2)

/-- Tiles of a core's spill space a save or fill moves, in ascending order. -/
def spillTilesOf (m : ByteMem) (t j : Nat) : List Nat :=
  liveTiles m t j ++ (liveBufs m t j).flatMap (fun k => rangeFrom (256 + 6 * k) 6)

/-- Offset of tile i of core j in a spill area. -/
def spillOff (j i : Nat) : Nat := 4096 + (j * 352 + i) * 4096

/-- The place of a tile of a partition's own memory. -/
def ipaPlace (b : Block) (vf ipa : Nat) : Option Nat :=
  match partAt b vf with
  | some p => (stage2 b p ipa).map (fun h => h.out)
  | none => none

/-! ## Cost (R183, R430, R432) -/

/-- Energy per tile of a spill area's tier, in fJ (R127). -/
def spillTileFj (tier : Nat) : Nat := if tier = tierGallery then 4000000 else if tier = tierStack then 16400000 else 110000000

/-- The tier of a step's spill area. -/
def spillTier (b : Block) (s : Step) : Nat :=
  match ctxAt b s.tag.toNat, partAt b s.fn with
  | some c, some p => (tierOf p.desc c.spill.toNat (c.spillTiles * 4096)).getD tierFar
  | _, _ => tierFar

/-- Tiles that core j moves: its live tiles, and core 0 the header tile besides (log entry 41). -/
def spillLoad (m : ByteMem) (t j : Nat) : Nat := (spillTilesOf m t j).length + if j = 0 then 1 else 0

/-- Planned energy of a core's segment of a save or fill (R127, R128), in nJ. -/
def spillNj (tier tiles bundles : Nat) : Nat := ceilDiv (tiles * spillTileFj tier + bundles * 32000) 1000000

/-- The charge of a save or fill trick for its round: unit-ticks, and each core's tiles and the bundles firmware issues there,
whose number no rule gives and is free (R183; log entry 41). -/
def chargeSpill (b : Block) (s : Step) (u : UnitRun) (m : ByteMem) : Block :=
  let r := (List.range (4 ^ u.order)).foldl (fun (a : Block × Nat) j =>
    (nextFree a.1, a.2 + spillNj (spillTier b s) (spillLoad m u.trick j) (Config.freeValue a.1.freeCtr).toNat)) (b, 0)
  addCharge r.1 s.tag.toNat (runTicks u.order) r.2

/-! ## Moving (R183, R323) -/

/-- Issue tick, core and place of the far tiles each core moves, in the order of R323: a core's tiles in order, each in a slot
that no rule gives and is free (log entry 97). -/
def farIssues (b : Block) (vf : Nat) (parts : List (Nat × List Nat)) : List (Nat × Nat × Nat) :=
  sortBy (fun (e : Nat × Nat × Nat) => e.1 * 1024 + e.2.1) (parts.flatMap (fun p =>
    let slots := sortBy (fun n => n) ((List.range p.2.length).map (fun n => Config.spillSlot (b.freeCtr * 1024 + p.1) n % 1905))
    (slots.zip (p.2.filterMap (ipaPlace b vf))).map (fun e => (2048 + 64 * e.1, p.1, e.2))))

/-- Far transfers counted against their partition's shares: the block, how many lie within them before the first that does not, and
that one's core and place. -/
def countMoves (vf : Nat) : List (Nat × Nat × Nat) → Block → Nat → Block × Nat × Option (Nat × Nat)
  | [], b, n => (b, n, none)
  | e :: l, b, n =>
    let r := countFar b vf e.2.2 e.1
    if r.2 then countMoves vf l r.1 (n + 1) else (r.1, n, some e.2)

/-- Tiles a save or fill moves, by core and IPA, counted and charged against their tier; the core and place of a far transfer
beyond the share, if there is one. -/
def spillMoves (b : Block) (s : Step) (parts : List (Nat × List Nat)) : Block × Option (Nat × Nat) :=
  let tier := spillTier b s
  let r := if tier = tierFar then countMoves s.fn (farIssues b s.fn parts) (nextFree b) 0
    else (b, sum (parts.map (fun p => p.2.length)), none)
  (modCtx r.1 s.tag.toNat (fun c => { c with counters := chargeTier c.counters tier (4096 * r.2.1) }), r.2.2)

/-- The IPAs of the tiles each core of a run moves that STATE_SAVE has not moved; the header tile is the first of core 0's. -/
def spillParts (u : UnitRun) (m : ByteMem) (spill : Nat) : List (Nat × List Nat) :=
  (List.range (4 ^ u.order)).map (fun j =>
    (u.base + j, (if j = 0 then [spill] else []) ++
      (if u.moved.contains (u.base + j) then [] else (spillTilesOf m u.trick j).map (fun i => spill + spillOff j i))))

end Sys2Proof.Machine
end

