-- ==== Sys2Proof/Machine/Rounds.lean ====
section
/-!
DEFINITION. Round boundaries (R133, R135, R150, R154, R155), the start of the trick window, charges of tricks (R430, R431),
completion records (R231), context swap-ins (R134, R217), and the samples of a round's last tick (R153, R433).
-/

namespace Sys2Proof.Machine

open Sys2Proof

/-! ## Charges (R430, R431) -/

/-- Seats of a deal that belong to a context. -/
def seatsOf (d : Deal) (tag : BitVec 16) : Nat := (d.seats.filter (fun s => s.valid && s.tag == tag)).length

/-- A charge divided among the contexts seated in a step's deal; the stepping context takes the remainder. -/
def chargeStep (b : Block) (s : Step) (ticks nj : Nat) : Block :=
  match s.deal with
  | none => addCharge b s.tag.toNat ticks nj
  | some d =>
    let others := ((d.seats.filter (fun q => q.valid && q.tag != s.tag)).map (fun q => q.tag)).eraseDups
    let part := fun x t => x * seatsOf d t / d.seats.length
    let b1 := others.foldl (fun c t => addCharge c t.toNat (part ticks t) (part nj t)) b
    addCharge b1 s.tag.toNat (ticks - sum (others.map (part ticks))) (nj - sum (others.map (part nj)))

/-! ## Scrubs (R101, R125, R192, R380) -/

/-- A core scrubbed at an owner change: scratchpad, accumulators with their states, and the half of bundle memory that held the
previous round's segment. -/
def coreScrub (c : Core) : Core := { c with spad := [], acc := [], bufs := [], lineTags := [], spare := none }

/-- A core scrubbed for recovery: both halves are cleared (R417), but for the segment just swapped in where the scrub falls in
the round 0 whose tricks the trim round loaded (`keep`; log entry 117). -/
def coreClear (keep : Bool) (c : Core) : Core :=
  { coreScrub c with active := if keep then c.active else none, inflight := [], jobs := [], work := [], seq := Sequencer.idle }

/-- Base positions of the engine units whose quads a predicate holds of. -/
def engineBases (b : Block) (p : Nat → Bool) : List Nat :=
  (b.boot.engines.flatMap (fun e => (List.range e.units).map (fun k => e.base + k * 4 ^ e.order))).filter (fun u => p (u / 4))

/-- The cores of chosen quads scrubbed, attached engines by the port's scrub command. -/
def scrubQuads (b : Block) (p : Nat → Bool) : Block :=
  let b1 := { b with cores := tabMap b.cores (fun i c => if p (i / 4) then coreScrub c else c)
                     cal := { b.cal with scrubbing := b.cal.scrubbing ++ (List.range 256).filter (fun q => p q && !b.cal.scrubbing.contains q) } }
  (engineBases b p).foldl (fun c u => offer c (.engineScrub u)) b1

/-- Every core and engine scrubbed for recovery, once (R419). -/
def scrubAll (keep : Bool) (b : Block) : Block :=
  let b1 := { b with cores := tabMap b.cores (fun _ c => coreClear keep c)
                     cal := { b.cal with scrubbing := List.range 256 }
                     recov := { b.recov with scrubbed := true } }
  (engineBases b (fun _ => true)).foldl (fun c u => offer c (.engineScrub u)) b1

/-- Whether a quad's owner changes in the current round (R150). -/
def ownerChanges (b : Block) (q : Nat) : Bool :=
  quadOwner b b.tb.round q != 0 && quadOwner b b.tb.round q != (tabGetD b.cal.lastOwner q 0).toNat

/-- The owner-change scrubs of the current round; the round's owners become the most recent ones. -/
def ownerScrub (b : Block) : Block :=
  let changed := (List.range 256).filter (ownerChanges b)
  let cores := (changed.flatMap (fun q => rangeFrom (4 * q) 4)).filter (coreExists b)
  let b1 := cores.foldl (fun c i => ltEvent 0 evOwner i 0 [] c) (scrubQuads b (fun q => changed.contains q))
  { b1 with cal := { b1.cal with lastOwner := changed.foldl (fun t q => tabSetD t q (BitVec.ofNat 6 (quadOwner b b.tb.round q)) 0) b1.cal.lastOwner } }

/-- The calendar entries of partitions being destroyed read 0 from this boundary on, and their quads' cores are scrubbed
(R355), in round 0 where the boundary begins a trim round, which scrubs none (R138; log entry 116). -/
def clearCalendars (b : Block) : Block :=
  (b.parts.filter (fun (e : Nat × Part) => match e.2.ending with
    | some (.destroy _ false) => true
    | _ => false)).foldl (fun c e =>
      let off := fun (t : Tab (BitVec 6)) => t.filter (fun x => x.2.toNat != e.1)
      let c1 := { c with cal := { c.cal with active := off c.cal.active, staged := off c.cal.staged } }
      if c.tb.round = trimRound then c1
      else
        modPart (scrubQuads c1 (fun q => e.2.desc.quads.contains q)) e.1 (fun p =>
          { p with ending := p.ending.map (fun x => match x with
            | .destroy id _ => .destroy id true
            | y => y) })) b

/-! ## The end of a round -/

/-- A semaphore's count after the operations of a trick. -/
def semAfter (ops : List SemOp) (sem start : Nat) : Nat :=
  let l := ops.filter (fun o => o.sem == sem)
  start + sum ((l.filter (fun o => o.signal)).map (fun o => o.amount)) - sum ((l.filter (fun o => !o.signal)).map (fun o => o.amount))

/-- The 16 semaphores at the end of a run. -/
def runSems (u : UnitRun) : List Nat := (List.range 16).map (fun i => semAfter u.semOps i (u.sems.getD i 0))

/-- A run's step when its round ends: a carried step keeps its semaphores, one whose last trick ran has ended (R26, R125). -/
def runEnds (b : Block) (u : UnitRun) : Block :=
  match stepById b u.step with
  | none => b
  | some s =>
    match u.kind, stepPlan b s with
    | .trick, some pl =>
      modStep b s.id (fun x => { x with sems := if x.holdsState then runSems u else []
                                        stage := if x.stage = .admitted ∧ (imgPhase pl.image x.phase).2 ≤ x.next then .ended else x.stage })
    | _, _ => b

/-- The diagnostic figures of a core in the round that ends (R439). -/
def diagOf (b : Block) (vf core : Nat) : Diag :=
  let u := b.dealer.running.find? (fun r => decide (r.base ≤ core) && decide (core < r.base + 4 ^ r.order))
  { plannedNj := match u, (coreAt b core).active with
      | some r, some g => if r.kind = .trick then g.energyNj else 0
      | _, _ => 0
    tag := (u.map (fun r => r.tag)).getD 0, owner := BitVec.ofNat 6 vf, ran := u.isSome,
    skipped := (skipRound b.tb.round && decide (core < 768) && b.tb.throttled.getLsbD (core / 64)) ||
      b.dealer.skipped.any (fun r => decide (r.base ≤ core) && decide (core < r.base + 4 ^ r.order)) }

/-- Cores of a partition in the rounds it owns their quads. -/
def ownedCores (b : Block) (vf : Nat) (p : Part) : List Nat :=
  ((p.desc.quads.filter (fun q => quadOwner b b.tb.round q == vf)).flatMap (fun q => rangeFrom (4 * q) 4)).filter (coreExists b)

/-- Diagnostic figures of every core, for the rounds of diagnostic partitions alone (R384, R439). -/
def setDiags (b : Block) : Block :=
  let zero := { b with cores := tabMap b.cores (fun _ c => { c with diag := ⟨0, 0, 0, false, false⟩ }) }
  (b.parts.filter (fun e => e.2.desc.diagnostic)).foldl (fun c e =>
    (ownedCores b e.1 e.2).foldl (fun d i => modCore d i (fun x => { x with diag := diagOf b e.1 i })) c) zero

/-- The round ends: its tricks have run, every credit is home or reclaimed, and the sequencers stop. -/
def endRound (b : Block) : Block :=
  let b1 := b.dealer.running.foldl runEnds (setDiags b)
  { b1 with dealer := { b1.dealer with running := [] }
            cores := tabMap b1.cores (fun _ c => { c with inflight := [], jobs := [], work := [], seq := Sequencer.idle }) }

/-! ## The start of a round -/

/-- The seat tag table a deal gives (R89). -/
def seatTable (d : Deal) : Tab SeatTag :=
  ((List.range d.seats.length).zip (d.seats.map (fun s => (⟨s.tag, s.valid, s.adapterSlot⟩ : SeatTag)))).filter
    (fun e => e.2 != ⟨0, false, 0⟩)

/-- The buffer states a trick begins with: those of the buffers live in the state its step carries, no other cleared yet
(R164, R181). -/
def bufsAtStart (s : Step) (m : ByteMem) (u : UnitRun) (j : Nat) (bufs : Tab BufState) : Tab BufState :=
  if s.holdsState then bufs.filter (fun e => (liveBufs m (u.trick - 1) j).contains e.1) else []

/-- A run takes the semaphores its step holds as it begins (R125). -/
def runTakesSems (b : Block) (u : UnitRun) (s : Step) : Block :=
  modDealer b (fun d => { d with running := d.running.map (fun r => if r = u then { r with sems := s.sems } else r) })

/-- A loaded run begins: its cores take the seat tags, it is charged for the round, and a trick is counted off its deck. -/
def runBegins (b : Block) (u : UnitRun) : Block :=
  match stepById b u.step with
  | none => b
  | some s =>
    match stepPlan b s with
    | none => b
    | some pl =>
      let seats := match s.deal with
        | some d => seatTable d
        | none => []
      let b1 := (unitCores u.base u.order).foldl (fun c i => modCore c i (fun x => { x with seats := seats })) b
      if u.kind = .trick then
        let b2 := (unitCores u.base u.order).foldl (fun c i =>
          modCore c i (fun x => { x with bufs := bufsAtStart s pl.image u (i - u.base) x.bufs })) b1
        let b3 := chargeStep (runTakesSems b2 u s) s (runTicks u.order) (imgTrickEnergy pl.image u.trick)
        modStep b3 s.id (fun x => { x with next := x.next + 1, unit := some u.base, lastRan := some (now b)
                                           holdsState := imgCarried pl.image && decide (x.next + 1 < (imgPhase pl.image x.phase).2) })
      else modStep (chargeSpill b1 s u pl.image) s.id (fun x => { x with unit := some u.base, lastRan := some (now b) })

/-- The stack temperatures read at tick 0 (R312, R313); the highest of the epoch starts anew in round 0. -/
def readTemps (b : Block) (temps : List Nat) : Block :=
  let one := fun (m : Mem) k =>
    let t := temps.getD k 0
    let s := tabGetD m.stackRegs k ⟨false, 0, 0, 0⟩
    let hot := s.hot || decide (100 ≤ t)
    let highest := if b.tb.round = 0 then t else max s.epochMax t
    { m with stackRegs := tabSet m.stackRegs k { s with hot := hot, last := t, epochMax := highest } }
  modMem { b with pins := { b.pins with temps := temps } } (fun m => ((List.range 12).filter (stackHere b)).foldl one m)

/-- PRESENCE_N and DBG_CABLE_N sampled at tick 0 (R385, R389). -/
def samplePresence (b : Block) (presence cable : Bool) : Block :=
  let g := b.grotto
  { b with pins := { b.pins with presence := presence, cable := cable }
           grotto := { g with
             presence := presence
             cable := cable
             presenceRun := if presence then g.presenceRun + 1 else 0
             releasedRun := if g.grant && (decide (0 < g.releasedRun) || !presence) then g.releasedRun + 1 else 0 } }

/-- Whether what PART_FREEZE waits for has happened (R356). -/
def frozenStill (b : Block) (vf : Nat) : Bool :=
  !(b.dealer.steps.any (fun s => s.fn == vf && (s.holdsState || stepOnUnit b s.id || s.stage == .ended || s.stage == .finished))) &&
  !(b.dealer.cmds.any (fun c => c.q.fn == vf && moverOp c.opcode && (match c.stage with
    | .mover _ => true
    | .waiting => true
    | _ => false)))

/-- PART_FREEZEs whose partitions have come to rest complete in the changeover window. -/
def freezeDone (b : Block) : Block :=
  finishAll b (fun c => match c.stage with
    | .freezing vf => frozenStill b vf
    | _ => false) stOk 0

/-- The clock stands at tick 0 and the halves of bundle memory swap; a block fault of the round before makes the round a recovery
round, which scrubs unless that round was one and scrubbed (R417, R419). -/
def openRound (b : Block) : Block :=
  let again := b.recov.faultTick.isSome
  { b with
    tb := { b.tb with tick := 0, boundaryDone := true, moverSlots := 0, sampled := false, throttled := b.tb.nextThrottled }
    recov := { b.recov with faultTick := none, recovering := again, ended := false
                            scrubbed := again && b.recov.recovering && b.recov.scrubbed }
    cal := { b.cal with scrubbing := [] }
    cores := tabMap b.cores (fun _ c => { c with active := c.spare, spare := c.active })
    mem := { b.mem with farUsed := [] } }

/-- The scrubs of the changeover window: that of a recovery whose round was the trim round, those of destroyed partitions and those of
owner changes. -/
def changeoverScrubs (recovered : Bool) (b : Block) : Block :=
  ownerScrub (clearCalendars (if recovered then scrubAll true b else b))

/-- The loaded runs begin, but for those whose units skip the round; in a recovery round none does. -/
def beginRuns (b : Block) : Block :=
  let l := if b.recov.recovering then [] else b.dealer.loaded
  let runs := l.filter (fun u => !unitSkipped b u.base u.order)
  let skips := l.filter (fun u => unitSkipped b u.base u.order)
  runs.foldl runBegins (modDealer b (fun d => { d with loaded := [], running := runs, skipped := skips }))

/-- Tick 0 of the round the clock stands in (R68, R133). -/
def beginRound (b : Block) (presence cable : Bool) (temps : List Nat) : Block :=
  let recovered := b.tb.round == 0 && b.recov.recovering && b.recov.faultTick.isNone && !b.recov.scrubbed
  let b1 := beginRuns (changeoverScrubs recovered (openRound b))
  let b2 := readTemps (finishUnlock (samplePresence b1 presence cable)) temps
  if b2.tb.round = 0 then { b2 with parts := tabMap b2.parts (fun _ p => { p with restrained := false }) } else b2

/-! ## The samples of a round's last tick (R153, R433, R461) -/

/-- The dies of the build, as a mask. -/
def dieMask (b : Block) : BitVec 12 := BitVec.ofNat 12 (2 ^ (bld b).dies - 1)

/-- A value of PWR_SAMPLE added to the epoch's, or missing (R433, R462). -/
def samplePower (a : Acct) (p : Pins) : Acct :=
  if p.pwrValid ∧ p.pwr.toNat ≤ 1000000 then { a with sampleSum := a.sampleSum + p.pwr.toNat, samples := a.samples + 1 }
  else { a with sampleMissing := true }

/-- THERM_ALERT_N as it stands decides the throttling of the next round. -/
def sampleTherm (b : Block) : Block :=
  let a := b.pins.therm &&& dieMask b
  { b with tb := { b.tb with nextThrottled := a, alertSeen := b.tb.alertSeen ||| a } }

/-- The pins sampled at the last tick of the round. -/
def samplePins (b : Block) : Block :=
  let b1 := sampleTherm (toTick b (lastTick b.tb))
  { b1 with tb := { b1.tb with sampled := true }, acct := samplePower b1.acct b1.pins }

/-- The round's last tick passes: pins whose levels no THERM_SAMPLE told are sampled as they last stood. -/
def lastSample (b : Block) : Block := if b.tb.sampled then b else samplePins b

/-- ROUND_BOUNDARY: the round ends and the next begins; after a trim round, which TRIM_ROUND_END ends, and at epoch 0, the new
round stands at tick 0 already. `errs` is what cores' memories reported in ticks of the round that nothing told (R88; log entry 107). -/
def roundBoundary (presence cable : Bool) (temps : List Nat) (errs : List TickErr) (b : Block) : Block :=
  if alive b && ticking b then
    if b.tb.boundaryDone then
      if b.tb.round = trimRound then b
      else
        let b1 := freezeDone (endRound (lastSample (workTo 125000 (tickErrs 124999 errs b))))
        settle (beginRound { b1 with tb := { b1.tb with round := b1.tb.round + 1 } } presence cable temps)
    else settle (beginRound (freezeDone b) presence cable temps)
  else b

/-- ROUND_BOUNDARY. -/
def execRoundBoundary (presence cable : Bool) (report : RoundReport) (s : State) : Host.Outcome State Fault Refusal :=
  onBlock (roundBoundary presence cable report.temps report.errs) s

/-! ## The trick window -/

/-- What every core holds at tick 2,048 (R62, R80, R97, R102); an engine's local store reads zero (R192). -/
def coreWindow (i : Nat) (c : Core) : Core :=
  { c with clip := [], sregChannel := [], sregRow := [], rotBuf := [], l1 := [], lineTags := [], engineRan := false
           spad := if i < 768 then c.spad else [] }

/-- The sequencer of a core whose trick begins (R66, R186). -/
def coreStarts (c : Core) : Core :=
  { c with seq := match c.active with
      | some g => ⟨true, 2048, 0, g.lead, []⟩
      | none => Sequencer.idle }

/-- TRICK_WINDOW_START: tick 2,048 of an ordinary round; after a block fault in the changeover no sequencer starts (R66). -/
def trickWindowStart (b : Block) : Block :=
  if alive b && ticking b && b.tb.boundaryDone && b.tb.round != trimRound && decide (b.tb.tick ≤ 2048) then
    let b1 := toTick b 2048
    let b2 := { b1 with cores := tabMap b1.cores coreWindow }
    let runs := b2.dealer.running.filter (fun u => u.kind == .trick && b2.recov.faultTick == none)
    let b3 := runs.foldl (fun c u => (unitCores u.base u.order).foldl (fun d i => ltEvent 2048 evStart i u.tag [] (modCore d i coreStarts)) c) b2
    (b3.dealer.running.filter (fun u => decide (768 ≤ u.base))).foldl (fun c u => offer c (.engineRound u.base)) b3
  else b

/-- TRICK_WINDOW_START. -/
def execTrickWindowStart (s : State) : Host.Outcome State Fault Refusal := onBlock trickWindowStart s

/-! ## Completion records (R231) -/

/-- Status and detail of a command that may be recorded now: one that has ended, or a forward or backward STEP whose last
trick has ended, which commits nothing (R206). -/
def recordOf (b : Block) (c : Cmd) : Option (BitVec 16 × BitVec 32) :=
  match c.stage with
  | .done st detail => some (st, detail)
  | .step id =>
    match stepById b id with
    | some s =>
      if s.stage = .ended ∧ (s.phase = 1 ∨ s.phase = 2) ∧ s.lost = false ∧ s.aborted = false then
        some (stOk, BitVec.ofNat 32 ((s.deal.map realSeats).getD 0)) else none
    | none => none
  | _ => none

/-- The command of a function recorded next: the first fetched of those that may be (log entry 40). -/
def nextRecord (b : Block) (fn : Nat) : Option Cmd :=
  b.dealer.cmds.find? (fun c => c.q.fn == fn && !c.suppressed && (recordOf b c).isSome)

/-- The held deal's stage when a phase completes (R206). -/
def phaseDone (b : Block) (s : Step) : Block :=
  if s.phase = 1 then modCtx b s.tag.toNat (fun c => { c with held := c.held.map (fun h => { h with stage := .forwardDone }) })
  else if s.phase = 2 then modCtx b s.tag.toNat (fun c => { c with held := c.held.map (fun h => { h with stage := .backwardDone }) })
  else b

/-- A command's step, if it has one left, retires: its pins are released (R294), and the phase it ended takes the held deal on. -/
def retireStep (b : Block) (cmd : Nat) : Block :=
  match b.dealer.steps.find? (fun s => s.cmd == cmd) with
  | none => b
  | some s =>
    let b1 := releasePins b s
    modDealer (if s.stage = .ended then phaseDone b1 s else b1) (fun d => { d with steps := d.steps.filter (fun x => x.id != s.id) })

/-- Lost steps are counted when they complete (R437). -/
def countLost (b : Block) (c : Cmd) (st : BitVec 16) : Block :=
  if st = stStepLost then modCtx b c.tag.toNat (fun x => { x with counters := { x.counters with lost := x.counters.lost + 1 } }) else b

/-- A command recorded, with its status and detail, at a tick. -/
def recordCmd (b : Block) (fn tick : Nat) (c : Cmd) (st : BitVec 16) (detail : BitVec 32) : Block :=
  let b1 := toTick b tick
  let b2 := modFn b1 fn (fun x => { x with lastRecord := some (now b1) })
  let b3 := dropCmd (retireStep (countLost (writeRecord b2 c st detail) c st) c.id) c.id
  settle (noteEnded b3 c.id)

/-- The next record of a function written in its next completion tick. -/
def completionRecordWrite (fn : Nat) (b : Block) : Block :=
  match nextRecord b fn with
  | none => b
  | some c =>
    match recordOf b c with
    | none => b
    | some (st, detail) =>
      if alive b && ticking b && decide (fn < 64) && decide (cmdRecordTick b fn c ≤ lastTick b.tb) then
        recordCmd b fn (cmdRecordTick b fn c) c st detail
      else b

/-- COMPLETION_RECORD_WRITE. -/
def execCompletionRecordWrite (fn : Nat) (s : State) : Host.Outcome State Fault Refusal := onBlock (completionRecordWrite fn) s

/-! ## Swap-ins (R134, R217, R257) -/

/-- A context whose swap-in a doorbell from before this changeover window asked for (R217). -/
def wantsSlot (b : Block) (fn : Nat) (c : Ctx) : Bool :=
  c.fn == fn && c.wantsSwapIn && !c.resident && c.state != .destroying &&
    match c.wantsSince with
    | some t => decide (t.toNat < (mkStamp b.tb.epoch b.tb.round 0).toNat)
    | none => false

/-- A resident context whose slot may be taken: no admitted step, no fetched and unfinished command. -/
def givesSlot (b : Block) (fn : Nat) (e : Nat × Ctx) : Bool :=
  e.2.fn == fn && e.2.resident && !(b.dealer.cmds.any (fun c => c.q.tag.toNat == e.1))

/-- Oldest doorbell first, then the lower tag. -/
def doorbellKey (e : Nat × Ctx) : Nat :=
  (match e.2.lastDoorbell with
    | some t => t.toNat + 1
    | none => 0) * 2 ^ 16 + e.1

/-- The context whose doorbell asked first, then the lower tag. -/
def wantKey (e : Nat × Ctx) : Nat :=
  (match e.2.wantsSince with
    | some t => t.toNat
    | none => 0) * 2 ^ 16 + e.1

/-- A context takes a slot. -/
def makeResident (b : Block) (fn tag : Nat) : Block :=
  modFn (modCtx b tag (fun c => { c with resident := true, wantsSwapIn := false, wantsSince := none
                                         swapRound := some (roundCount b.tb) })) fn
    (fun x => { x with lastSwap := some (roundCount b.tb) })

/-- CONTEXT_SWAP_IN of a function, once in a changeover window. -/
def contextSwapIn (fn : Nat) (b : Block) : Block :=
  match partAt b fn, (sortBy wantKey (b.ctxs.filter (fun (e : Nat × Ctx) => wantsSlot b fn e.2))).head? with
  | some p, some (tag, _) =>
    if alive b && ticking b && b.tb.boundaryDone && decide (b.tb.tick ≤ 2047) && (fnAt b fn).lastSwap != some (roundCount b.tb) then
      if (b.ctxs.filter (fun (e : Nat × Ctx) => e.2.fn == fn && e.2.resident)).length < p.desc.residentContexts then makeResident b fn tag
      else
        match (sortBy doorbellKey (b.ctxs.filter (fun (e : Nat × Ctx) => givesSlot b fn e))).head? with
        | none => b
        | some (old, _) => makeResident (modCtx b old (fun c => { c with resident := false })) fn tag
    else b
  | _, _ => b

/-- CONTEXT_SWAP_IN. -/
def execContextSwapIn (fn : Nat) (s : State) : Host.Outcome State Fault Refusal := onBlock (contextSwapIn fn) s

end Sys2Proof.Machine
end

