-- ==== Sys2Proof/Machine/Runs.lean ====
section
/-!
DEFINITION. What becomes of steps: commits (R218), save and fill tricks (R181 to R183), the recovery round (R417 to R419) and
the repair of base tiles (R422), and the credit check of the drain window (R126).
-/

namespace Sys2Proof.Machine

open Sys2Proof

/-! ## COMMIT (R218, R220) -/

/-- The sequence of a seat advanced, and its fence signalled, where its context is not LOST. -/
def commitSeat (b : Block) (s : Seat) : Block :=
  let i := s.sequence.toNat % 2 ^ 14
  let q := seqAt b i
  match ctxAt b s.tag.toNat with
  | none => b
  | some c =>
    if s.valid && c.state == .live && q.gen.toNat == s.sequence.toNat / 2 ^ 14 then
      let f := { q.f with position := q.f.position + q.f.advance.setWidth 32, kvLength := q.f.kvLength + q.f.advance.setWidth 32
                          budget := if q.f.budget = 0xFFFFFFFF then q.f.budget else q.f.budget - 1 }
      let n := q.commits + 1
      let b1 := setSeq b i { q with f := f, commits := n, served := BitVec.ofNat 46 (b.tb.epoch.toNat * 2 ^ 14 + b.tb.round) }
      if q.f.notifyFence = 0xFFFF then b1 else (signalAt b1 c.fn (fenceAddr c q.f.notifyFence.toNat) n.toNat).1
    else b

/-- The adapter slot of a deal's first seat. -/
def dealSlot (d : Deal) : Nat := ((d.seats.head?).map (fun q => q.adapterSlot.toNat)).getD 0

/-- The current-half bit of an adapter slot toggled. -/
def toggleHalf (b : Block) (i : Nat) : Block := setAdapter b i { adapterAt b i with half := !(adapterAt b i).half }

/-- Detail of a STEP that completes with ST_OK (R212). -/
def stepDetail (b : Block) (s : Step) (d : Deal) : BitVec 32 :=
  BitVec.ofNat 32 (realSeats d + if s.phase = 3 ∧ (adapterAt b (dealSlot d)).half = true then 65536 else 0)

/-- A commit, in R218's order; the step then waits for its record. -/
def commitStep (b : Block) (s : Step) (d : Deal) : Block :=
  let b1 := if s.phase = 3 then toggleHalf b (dealSlot d) else b
  let b2 := dropDeal (d.seats.foldl commitSeat b1) d
  let b3 := if s.phase = 3 then modCtx b2 s.tag.toNat (fun c => { c with held := none }) else b2
  let b4 := modCtx b3 s.tag.toNat (fun c => { c with counters := { c.counters with committed := c.counters.committed + 1 } })
  finish (modStep b4 s.id (fun x => { x with stage := .finished })) s.cmd stOk (stepDetail b1 s d)

/-- COMMIT of a serve or optimiser step whose last trick has ended, in a changeover window without a block fault (R26, R418). -/
def commit (id : Nat) (b : Block) : Block :=
  match stepById b id with
  | none => b
  | some s =>
    match s.deal with
    | none => b
    | some d =>
      if alive b && ticking b && b.tb.boundaryDone && decide (b.tb.tick ≤ 2047) && b.recov.faultTick == none &&
          s.stage == .ended && (s.phase == 0 || s.phase == 3) && !s.lost && !s.aborted then commitStep b s d
      else b

/-- COMMIT. -/
def execCommit (step : Nat) (s : State) : Host.Outcome State Fault Refusal := onBlock (fun b => settle (commit step b)) s

/-! ## Save and fill tricks (R181 to R183) -/

/-- The code of a buffer state in the spill header. -/
def bufCode : BufState → Nat
  | .integer f => f
  | .notCleared => 0xE
  | .fp32 => 0xF

def bufOfCode (n : Nat) : BufState := if n = 0xF then .fp32 else if n ≤ 0xA then .integer n else .notCleared

/-- The 24,576 bytes of an accumulator buffer: 4,096 six-byte words in row order. -/
def bufBytes (c : Core) (k : Nat) : List Byte := (lanes 64 64).flatMap (fun ij => leBytes 6 (accAt c k ij.1 ij.2).toNat)

/-- The 4 KiB that tile i of a core's spill space holds. -/
def spillTileBytes (c : Core) (i : Nat) : List Byte :=
  if i < 256 then memReadN c.spad (4096 * i) 4096
  else ((bufBytes c ((i - 256) / 6)).drop (4096 * ((i - 256) % 6))).take 4096

/-- A tile of the spill space put back into a core. -/
def unspillTile (c : Core) (i : Nat) (bs : List Byte) : Core :=
  if i < 256 then spadPut c (4096 * i) bs
  else
    let k := (i - 256) / 6
    let old := bufBytes c k
    let at' := 4096 * ((i - 256) % 6)
    let new := old.take at' ++ bs ++ old.drop (at' + 4096)
    (lanes 64 64).foldl (fun x ij => accPut x k ij.1 ij.2 (BitVec.ofNat 48 (leAt new (6 * (64 * ij.1 + ij.2)) 6))) c

/-- The spill header tile (R181). The index of the next trick counts within the step's deck (log entry 126). -/
def spillHeader (b : Block) (s : Step) (base order : Nat) : List Byte :=
  let head := leBytes 4 s.plan.toNat ++ leBytes 2 s.next ++ leBytes 2 s.tag.toNat ++ leBytes 8 (commandField s.cid s.cq) ++ zeros 48
  let sems := (List.range 16).flatMap (fun i => leBytes 2 (s.sems.getD i 0))
  let bufs := (unitCores base order).flatMap (fun i =>
    leBytes 8 (sum ((List.range 16).map (fun k => bufCode (bufState (coreAt b i) k) * 16 ^ k))))
  padTo 4096 (padTo 2048 (head ++ sems) ++ bufs)

/-- The run of a kind that a step has in this round. -/
def runOf (b : Block) (id : Nat) (k : RunKind) : Option UnitRun := b.dealer.running.find? (fun u => u.step == id && u.kind == k)

/-- Whether a firmware trick may act: in the trick window of a round without a block fault. -/
def firmwareActs (b : Block) : Bool :=
  alive b && ticking b && b.tb.boundaryDone && decide (b.tb.tick ≤ 123975) && b.recov.faultTick == none

/-- A core's live tiles saved. -/
def saveCore (b : Block) (s : Step) (u : UnitRun) (m : ByteMem) (spill j : Nat) : Block :=
  (spillTilesOf m u.trick j).foldl (fun d i => writeIpa d s.fn (spill + spillOff j i) (spillTileBytes (coreAt b (u.base + j)) i)) b

/-- A save trick: header, then each core's live tiles (R183). -/
def saveAll (b : Block) (s : Step) (u : UnitRun) (m : ByteMem) (spill : Nat) : Block :=
  let b1 := writeIpa b s.fn spill (spillHeader b s u.base u.order)
  ((List.range (4 ^ u.order)).filter (fun j => !u.moved.contains (u.base + j))).foldl (fun c j => saveCore c s u m spill j) b1

/-- A far transfer of a save or fill beyond its partition's share: a block fault, told in the tick of its row (R123, R323; log
entry 97). -/
def spillFault (b : Block) (s : Step) (e : Nat × Nat) (write : Bool) : Block :=
  coreFault b e.1 3 4 stNotPermitted s.tag.toNat (e.2 / 4096 * 4096) (commandField s.cid s.cq) write 0

/-- SAVE_TRICK of a step whose unit holds its carried state (R179, R181). After a block fault the spill area is left as it stands, its
contents being undefined (R183; log entry 123). -/
def saveTrick (id : Nat) (b : Block) : Block :=
  match stepById b id, runOf b id .save with
  | some s, some u =>
    match stepPlan b s, ctxAt b s.tag.toNat with
    | some pl, some c =>
      if firmwareActs b && s.holdsState then
        match spillMoves (toTick b 2048) s (spillParts u pl.image c.spill.toNat) with
        | (b1, some e) => spillFault b1 s e true
        | (b1, none) =>
          modStep (saveAll b1 s u pl.image c.spill.toNat) id (fun x =>
            { x with holdsState := false, spilled := true, needsFill := true, unit := none })
      else b
    | _, _ => b
  | _, _ => b

/-- SAVE_TRICK. -/
def execSaveTrick (step : Nat) (s : State) : Host.Outcome State Fault Refusal := onBlock (saveTrick step) s

/-- The places of the tiles each core of a fill reads. -/
def fillPlaces (b : Block) (s : Step) (parts : List (Nat × List Nat)) : List (Nat × Nat) :=
  parts.flatMap (fun p => p.2.map (fun ipa => (p.1, (ipaPlace b s.fn ipa).getD 0)))

/-- The first tile of a fill that fails its check: the core that reads it, and its address. -/
def fillFails (b : Block) (l : List (Nat × Nat)) : Option (Nat × Nat) := l.find? (fun e => !tileOk b e.2)

/-- The tiles of a fill read, with what the arrays report of them (R317; log entry 106). -/
def fillReads (errs : List (Nat × ReadErr)) (l : List (Nat × Nat)) (b : Block) : Block :=
  l.foldl (fun c e => noteRead c e.2 (errAt errs e.2)) b

/-- Bytes of a partition's own tile. -/
def ipaTile (b : Block) (vf ipa : Nat) : List Byte := tileBytes b ((ipaPlace b vf ipa).getD 0)

/-- The buffer states of a core by a spill header. -/
def headerBufs (hd : List Byte) (j : Nat) : Tab BufState :=
  (List.range 16).foldl (fun t k => tabSetD t k (bufOfCode (bits (leAt hd (0x800 + 8 * j) 8) (4 * k) 4)) .notCleared) []

/-- A core refilled. -/
def fillCore (b : Block) (s : Step) (m : ByteMem) (u : UnitRun) (spill : Nat) (hd : List Byte) (j : Nat) : Block :=
  modCore b (u.base + j) (fun c =>
    { (spillTilesOf m u.trick j).foldl (fun x i => unspillTile x i (ipaTile b s.fn (spill + spillOff j i))) c with bufs := headerBufs hd j })

/-- Tiles of a fill read: the block after it, or the block fault that stops it, a far transfer beyond its share before a tile that
fails its check (R183, R316, R323). -/
def fillRead (b : Block) (s : Step) (errs : List (Nat × ReadErr)) (parts : List (Nat × List Nat)) : Except Block Block :=
  match spillMoves b s parts with
  | (b1, some e) => .error (spillFault b1 s e false)
  | (b1, none) =>
    let l := fillPlaces b1 s parts
    let b2 := fillReads errs l b1
    match fillFails b2 l with
    | some e => .error (coreFault b2 e.1 2 1 stChecksum s.tag.toNat e.2 (commandField s.cid s.cq) false 0)
    | none => .ok b2

/-- FILL_TRICK of a spilled step placed again (R180, R183): a tile that fails its check is a block fault. The
spill area is left as it stands, after a fault too (log entry 123). -/
def fillTrick (id : Nat) (errs : List (Nat × ReadErr)) (b : Block) : Block :=
  match stepById b id, runOf b id .fill with
  | some s, some u =>
    match stepPlan b s, ctxAt b s.tag.toNat with
    | some pl, some c =>
      let m := pl.image
      let spill := c.spill.toNat
      if firmwareActs b && s.needsFill then
        match fillRead (toTick b 2048) s errs (spillParts u m spill) with
        | .error b1 => b1
        | .ok b1 =>
          let hd := ipaTile b1 s.fn spill
          let b2 := (List.range (4 ^ u.order)).foldl (fun d j => fillCore d s m u spill hd j) b1
          modStep b2 id (fun x => { x with needsFill := false, spilled := false, holdsState := true, unit := some u.base
                                           sems := (List.range 16).map (fun i => leAt hd (0x40 + 2 * i) 2) })
      else b
    | _, _ => b
  | _, _ => b

/-- FILL_TRICK. -/
def execFillTrick (step : Nat) (errs : List (Nat × ReadErr)) (s : State) : Host.Outcome State Fault Refusal :=
  onBlock (fillTrick step errs) s

/-! ## Recovery (R417 to R419) -/

/-- A step lost to a block fault: its STEPs set aside end, its deal is given back (R206, R219). -/
def loseStep (b : Block) (s : Step) : Block :=
  let b1 := endStep b s stStepLost 0
  if s.phase = 0 then b1 else dropSetAside b1 s.tag.toNat

/-- A fault record of the base-weight flow (R413). -/
def baseRecord (b : Block) (reason : Nat) (st : BitVec 16) (pa : Nat) : Block :=
  faultRecord b ⟨5, reason, st, 0, 0, 0, false, pa / 4096 * 4096, 0, 0, 0⟩

/-- A set whose repair failed (R422). -/
def baseBroken (b : Block) (i : Nat) (reason pa : Nat) : Block :=
  match tabGet b.dealer.bases i with
  | none => b
  | some s => setCause (baseRecord (setBase b i { s with state := .failed }) reason stBaseUnavailable pa) 0 cBaseFailed

/-- The tile of a replica at an address, if it lies in one. -/
def replicaTile (s : BaseSet) (pa : Nat) : Option Nat :=
  (s.replicas.find? (fun e => decide (e.2 ≤ pa) && decide (pa < e.2 + 4096 * s.tiles))).map (fun e => (pa - e.2) / 4096)

/-- A tile read by a repair: uncorrectable where `bad` lists it (R317). -/
def repairRead (bad : List Nat) (b : Block) (pa : Nat) : Block :=
  noteRead b pa (if bad.contains (pa / 4096 * 4096) then .uncorrectable else .clean)

/-- One base tile repaired from the golden image; `bad` are the tiles whose read the memory reports as uncorrectable. -/
def repairTile (bad : List Nat) (b : Block) (e : Nat × Nat) : Block :=
  match tabGet b.dealer.bases e.2 with
  | none => b
  | some s =>
    if s.state ≠ .ready then b
    else
      match replicaTile s e.1 with
      | none => baseBroken b e.2 3 e.1
      | some i =>
        let g := goldenTile b s i
        let b1 := repairRead bad b g
        if !tileOk b1 g then baseBroken b1 e.2 3 e.1
        else
          let b2 := repairRead bad (writeTile b1 (e.1 / 4096 * 4096) true (tileBytes b1 g)) (e.1 / 4096 * 4096)
          if tileOk b2 e.1 then baseRecord b2 2 stChecksum e.1 else baseBroken b2 e.2 4 e.1

/-- The work of the recovery round. In a trim round the scrub falls in the next round 0; cores are scrubbed once (R417, R419). -/
def recoveryRound (bad : List Nat) (b : Block) : Block :=
  if alive b && b.recov.recovering && !b.recov.ended then
    let b1 := if b.tb.round = trimRound ∨ b.recov.scrubbed = true then b else scrubAll false b
    let b2 := (b1.dealer.steps.filter (fun s => s.lost && s.stage != .finished)).foldl loseStep b1
    let b3 := (sortBy (fun e => e.1) b2.recov.repairs).foldl (repairTile bad) b2
    settle { b3 with recov := { b3.recov with ended := true, repairs := [] } }
  else b

/-- RECOVERY_ROUND. `bad` are the tiles that a repair's reads find uncorrectable. -/
def execRecoveryRound (bad : List Nat) (s : State) : Host.Outcome State Fault Refusal := onBlock (recoveryRound bad) s

/-! ## DRAIN_CREDIT_CHECK (R126) -/

/-- Engine mask of cores. -/
def coreMask (l : List Nat) : Nat := sum (l.map (fun i => 2 ^ i))

/-- Cores of a run with a credit not home. -/
def lateCores (b : Block) (u : UnitRun) : List Nat :=
  (unitCores u.base u.order).filter (fun i => !(coreAt b i).inflight.isEmpty)

/-- The block fault of credits not home on the units of one context (R126, R303). -/
def creditFault (b : Block) (l : List UnitRun) (tag : BitVec 16) : Block :=
  let us := l.filter (fun u => u.tag == tag)
  let cmd := match us.head? with
    | some u => (match stepById b u.step with
      | some s => commandField s.cid s.cq
      | none => 0)
    | none => 0
  blockFault b ⟨3, 2, stNotPermitted, tag.toNat, ctxVf b tag.toNat, 0, false, 0, cmd, 0, coreMask (us.flatMap (lateCores b))⟩

/-- The check at tick 124,999 of a round; after a block fault credits are reclaimed without a further one (R417). -/
def drainCheck (b : Block) : Block :=
  if alive b && ticking b && b.tb.boundaryDone && b.tb.round != trimRound then
    let b1 := toTick (workTo 125000 b) 124999
    let late := sortBy (fun (u : UnitRun) => u.base) (b1.dealer.running.filter (fun u => !(lateCores b1 u).isEmpty))
    let b2 := if b1.recov.faultTick.isSome then b1 else ((late.map (fun u => u.tag)).eraseDups).foldl (fun c t => creditFault c late t) b1
    { b2 with cores := tabMap b2.cores (fun _ c => { c with inflight := [] }) }
  else b

/-- DRAIN_CREDIT_CHECK. -/
def execDrainCreditCheck (s : State) : Host.Outcome State Fault Refusal := onBlock drainCheck s

end Sys2Proof.Machine
end

