-- ==== Sys2Proof/Machine/Time.lean ====
section
/-!
DEFINITION. The time base: captured edges (R139 to R142), its start (R142, R143, R153), the end of the trim round (R141, R142),
the samples of THERM_ALERT_N and PWR_SAMPLE, and the trim round's calendar switch and refresh-rate change (R138).
-/

namespace Sys2Proof.Machine

open Sys2Proof

/-! ## THERM_SAMPLE (R153, R433, R461) -/

/-- The levels at the pins are those told; at the last tick of a round they are sampled, once. -/
def thermSample (alerts : BitVec 12) (pwr : BitVec 32) (valid : Bool) (b : Block) : Block :=
  let b1 := { b with pins := { b.pins with therm := alerts, pwr := pwr, pwrValid := valid } }
  if !alive b then b
  else if !ticking b then b1
  else if b.tb.boundaryDone && !b.tb.sampled then samplePins b1
  else b

/-- THERM_SAMPLE. -/
def execThermSample (alerts : BitVec 12) (pwr : BitVec 32) (valid : Bool) (s : State) : Host.Outcome State Fault Refusal :=
  onBlock (thermSample alerts pwr valid) s

/-! ## The start of epoch 0 (R142, R143) -/

/-- Bring-up completes: PF0 is FUNCTION_READY with its capability table, and START is answered (R407). -/
def bringUpDone (b : Block) : Block :=
  if b.boot.starting then
    let b1 := modFn b 0 (fun x => aqReset { x with cap := capOfBuild b })
    mbReply (setFnState { b1 with boot := { b1.boot with starting := false, stage := 8 } } 0 .ready) 0 .rcv mbOk []
  else b

/-- The time base leaves STOPPED: the next tick is epoch 0, round 0, tick 0, whose throttling the sample of this tick decides
(R153). -/
def startEpochs (pps : PpsState) (b : Block) : Block :=
  let b1 := sampleTherm b
  bringUpDone { b1 with tb := { b1.tb with
    pps := pps, epoch := 0, round := 0, tick := 0, boundaryDone := false, earlySeen := false, lateSeen := false, inWindow := none } }

/-- Whether the time base waits in STOPPED for its first edge. -/
def waitsForEdge (b : Block) : Bool := alive b && b.tb.pps == .stopped && b.tb.started

/-- STOPPED without an edge for 1,250,000,000 ticks. -/
def stoppedTimeout (b : Block) : Block := if waitsForEdge b then startEpochs .holdover b else b

/-- STOPPED_TIMEOUT. -/
def execStoppedTimeout (s : State) : Host.Outcome State Fault Refusal := onBlock stoppedTimeout s

/-! ## PPS_EDGE_CAPTURE (R139, R140, R145) -/

def setTb (b : Block) (f : TimeBase → TimeBase) : Block := { b with tb := f b.tb }

/-- An edge captured at a tick of a round other than the trim round, or of its first 62,500 ticks. -/
def edgeInRound (c : Nat) (b : Block) : Block :=
  let b1 := toTick b c
  let early := decide (b.tb.round = trimRound) || decide (625000000 ≤ b.tb.round * 125000 + c)
  let zero := decide (b.tb.round = 0) && decide (c = 0)
  setTb b1 (fun t => { t with ppsEdge := now b1, earlySeen := t.earlySeen || early, lateSeen := t.lateSeen || (!early && !zero) })

/-- An edge captured in window at trim tick c, no later than the limit: c is tick 0 of the next epoch. -/
def edgeInWindow (c : Nat) (b : Block) : Block :=
  setTb (toTick b (c - 1)) (fun t => { t with inWindow := some c, ppsEdge := mkStamp (t.epoch + 1) 0 0 })

/-- A captured edge. While the shared pin serves the Lantern trigger PPS_IN is absent (R145). -/
def ppsEdge (c : Nat) (b : Block) : Block :=
  if !alive b || !b.tb.ppsPin then b
  else if waitsForEdge b then setTb (startEpochs .locked b) (fun t => { t with ppsEdge := mkStamp 0 0 0 })
  else if !ticking b || !b.tb.boundaryDone || decide (c < b.tb.tick) then b
  else if b.tb.round ≠ trimRound then (if c ≤ 124999 then edgeInRound c b else b)
  else if c ≤ 62499 then edgeInRound c b
  else if !b.tb.earlySeen && b.tb.inWindow == none && decide (c ≤ trimLen b.tb) && decide (b.tb.tick < c) then edgeInWindow c b
  else b

/-- PPS_EDGE_CAPTURE at a capture tick of the current round. -/
def execPpsEdgeCapture (tick : Nat) (s : State) : Host.Outcome State Fault Refusal := onBlock (ppsEdge tick) s

/-! ## TRIM_ROUND_END (R141, R142, R144) -/

/-- The PPS state after a trim round. -/
def nextPps (t : TimeBase) : PpsState :=
  if t.earlySeen then .slewing
  else if t.inWindow.isSome then .locked
  else if t.lateSeen then .slewing
  else .holdover

/-- The next epoch begins. -/
def nextEpoch (t : TimeBase) : TimeBase :=
  { t with pps := nextPps t, epoch := t.epoch + 1, round := 0, tick := 0, boundaryDone := false, earlySeen := false,
           lateSeen := false, inWindow := none, lastTrim := BitVec.ofNat 18 (trimLen t) }

/-- The figures closed in the trim round are those QUERY reports from now on (R275). -/
def showClosed (b : Block) : Block :=
  { b with ctxs := tabMap b.ctxs (fun _ c => { c with closed := c.closing, closing := none }) }

/-- The trim round ends. -/
def trimRoundEnd (b : Block) : Block :=
  if alive b && ticking b && b.tb.boundaryDone && decide (b.tb.round = trimRound) then
    setTb (showClosed (freezeDone (endRound (lastSample b)))) nextEpoch
  else b

/-- TRIM_ROUND_END. -/
def execTrimRoundEnd (s : State) : Host.Outcome State Fault Refusal := onBlock (fun b => settle (trimRoundEnd b)) s

/-! ## A tick without a command (log entry 2) -/

/-- One tick of the plan clock passes, up to the last tick of the round, whose end ROUND_BOUNDARY or TRIM_ROUND_END tells. -/
def idleTick (b : Block) : Block :=
  if alive b && ticking b && b.tb.boundaryDone && decide (b.tb.tick < lastTick b.tb) then toTick b (b.tb.tick + 1) else b

/-! ## Housekeeping of the trim round (R138) -/

/-- Whether a task of the trim round may still run at a tick. -/
def trimTask (b : Block) (t : Nat) : Bool :=
  alive b && ticking b && b.tb.boundaryDone && decide (b.tb.round = trimRound) && decide (b.tb.tick ≤ t)

/-- The entries of a partition's quads in a calendar. -/
def quadEntries (t : Tab (BitVec 6)) (d : PartDesc) : Tab (BitVec 6) := t.filter (fun e => d.quads.contains (e.1 / 1000))

/-- Partitions of whose quads the switch changes an active entry (R376). -/
def switchChanges (b : Block) : List Nat :=
  (b.parts.filter (fun (e : Nat × Part) => quadEntries b.cal.active e.2.desc != quadEntries b.cal.staged e.2.desc)).map (fun e => e.1)

/-- The staged calendars become active at trim tick 50,000 (R149). -/
def calendarSwitch (b : Block) : Block :=
  if trimTask b 50000 then
    let b1 := (switchChanges b).foldl tdispError (toTick b 50000)
    { b1 with cal := { b1.cal with active := b1.cal.staged } }
  else b

/-- CALENDAR_SWITCH. -/
def execCalendarSwitch (s : State) : Host.Outcome State Fault Refusal := onBlock calendarSwitch s

/-- The refresh rate of a stack by its highest reading (R312): 0 ×1, 1 ×2, 2 ×4. -/
def rateOf (force : Bool) (t : Nat) : Nat := if force || decide (90 ≤ t) then 2 else if 80 ≤ t then 1 else 0

/-- Bits [2k+1:2k] of MS_REFRESH.rate set. -/
def putRate (r : BitVec 24) (k v : Nat) : BitVec 24 :=
  (r &&& ~~~(BitVec.ofNat 24 (3 * 4 ^ k))) ||| BitVec.ofNat 24 (v * 4 ^ k)

/-- Each stack of the build takes its rate for the next epoch, in trim ticks 50,001 to 55,999. -/
def refreshRate (b : Block) : Block :=
  if trimTask b 55999 then
    let one := fun (m : Mem) k => { m with rate := putRate m.rate k (rateOf m.forceX4 (tabGetD m.stackRegs k ⟨false, 0, 0, 0⟩).epochMax) }
    modMem (toTick b 50001) (fun m => ((List.range 12).filter (stackHere b)).foldl one m)
  else b

/-- REFRESH_RATE_CHANGE. -/
def execRefreshRateChange (s : State) : Host.Outcome State Fault Refusal := onBlock refreshRate s

end Sys2Proof.Machine
end

