-- ==== Sys2Proof/Machine/Accounting.lean ====
section
/-!
DEFINITION. The accounting close (R433 to R438): measured energy, the records of a trim round, and what they leave.
-/

namespace Sys2Proof.Machine

open Sys2Proof

/-! ## Figures of the epoch (R433, R434) -/

/-- The length of the trim round as the close counts it: 62,500 ticks after an early edge. Otherwise no capture has fixed it yet at trim
tick 2,048, and it is free between the bounds of R141 (log entry 48). -/
def closeTrim (b : Block) : Nat :=
  let limit := if b.tb.pps = .locked ∨ b.tb.lateSeen = true then 187500 else 125000
  if b.tb.earlySeen then 62500 else 62500 + (Config.freeValue b.freeCtr).toNat % (limit - 62499)

/-- T, the epoch's length: 9,999 rounds and its trim round (R136). -/
def epochTicks (b : Block) : Nat := 9999 * 125000 + closeTrim b

/-- D, the standing energy in nJ. -/
def standingNj (b : Block) : Nat := (bld b).standing * epochTicks b * 4 / 5

/-- M, the measured energy in nJ. -/
def measuredNj (b : Block) : Nat := 1000 * b.acct.sampleSum

/-- Whether samples scale the energy of the epoch: use_samples was 1 throughout, and no round missed its sample. -/
def scaled (b : Block) : Bool := b.acct.useSamples && !b.acct.useWasZero && !b.acct.sampleMissing

/-- Every counter of the block: live contexts, destroyed ones, and what the partitions hold. -/
def allCounters (b : Block) : List Counters :=
  b.ctxs.map (fun e => e.2.counters) ++ b.acct.retired.map (fun r => r.counters) ++ b.parts.map (fun e => e.2.totals) ++
  b.acct.destroyedParts.map (fun d => d.2.2)

/-- The sum of counters. -/
def sumCounters (l : List Counters) : Counters := l.foldl addCounters Counters.zero

/-- floor(65,536 × M / Q), before its clamp. -/
def rawRatio (b : Block) : Nat :=
  65536 * measuredNj b / ((sumCounters (allCounters b)).plannedNj + standingNj b)

/-- The ratio k. -/
def ratio (b : Block) : Nat := if scaled b then max 0x8000 (min 0x20000 (rawRatio b)) else 0x10000

/-- Whether k was clamped. -/
def clamped (b : Block) : Bool := scaled b && ratio b != rawRatio b

/-- The energy charged for planned energy (R434). -/
def chargedNj (k e : Nat) : Nat := e * k / 65536

/-! ## Records (R436, R437) -/

/-- Whether counters hold a charge: unit-ticks, energy or bytes. -/
def hasCharge (x : Counters) : Bool :=
  x.unitTicks != 0 || x.plannedNj != 0 || x.hostBytes != 0 || x.farBytes != 0 || x.stackBytes != 0 || x.galleryBytes != 0

/-- The 128 bytes of a record. -/
def acctBytes (kind flags tag vf : Nat) (epoch : BitVec 32) (x : Counters) (charged lost extra standing measured samples : Nat) :
    List Byte :=
  leBytes 2 0x0100 ++ leBytes 1 kind ++ leBytes 1 flags ++ leBytes 2 tag ++ leBytes 1 vf ++ zeros 1 ++ leBytes 4 epoch.toNat ++
  leBytes 4 x.committed ++ leBytes 8 x.unitTicks ++ leBytes 8 x.plannedNj ++ leBytes 8 charged ++ leBytes 8 x.hostBytes ++
  leBytes 8 x.farBytes ++ leBytes 8 x.stackBytes ++ leBytes 8 x.galleryBytes ++ leBytes 4 lost ++ leBytes 4 extra ++
  leBytes 8 standing ++ leBytes 8 measured ++ leBytes 4 samples ++ zeros 28

/-- A context of a partition at the close: tag, whether it is a live one, counters. -/
structure CloseEntry where
  tag : Nat
  live : Bool
  counters : Counters

/-- The charged contexts of a partition in ascending tag, a retired entry before a live context. -/
def closeEntries (b : Block) (vf : Nat) : List CloseEntry :=
  let dead := (b.acct.retired.filter (fun r => r.vf == vf)).map (fun r => (⟨r.tag.toNat, false, r.counters⟩ : CloseEntry))
  let live := (b.ctxs.filter (fun (e : Nat × Ctx) => e.2.fn == vf)).map (fun e => (⟨e.1, true, e.2.counters⟩ : CloseEntry))
  (sortBy (fun (e : CloseEntry) => 2 * e.tag + if e.live then 1 else 0) (dead ++ live)).filter (fun e => hasCharge e.counters)

/-- A partition's own totals, those of its destroyed namesakes among them. -/
def partTotals (b : Block) (vf : Nat) : List Counters :=
  (match partAt b vf with
    | some p => [p.totals]
    | none => []) ++ (b.acct.destroyedParts.filter (fun d => d.1 == vf)).map (fun d => d.2.2)

/-- Every counter of a partition. -/
def partCounters (b : Block) (vf : Nat) : List Counters :=
  (b.ctxs.filter (fun (e : Nat × Ctx) => e.2.fn == vf)).map (fun e => e.2.counters) ++
  (b.acct.retired.filter (fun r => r.vf == vf)).map (fun r => r.counters) ++ partTotals b vf

def wasDestroyed (b : Block) (vf : Nat) : Bool := b.acct.destroyedParts.any (fun d => d.1 == vf)

/-- Whether a record is of a diagnostic partition. -/
def closeDiag (b : Block) (vf : Nat) : Bool :=
  (match partAt b vf with
    | some p => p.desc.diagnostic
    | none => false) || b.acct.destroyedParts.any (fun d => d.1 == vf && d.2.1)

/-- The partitions that get a record. -/
def closeParts (b : Block) : List Nat :=
  (rangeFrom 1 63).filter (fun v => wasDestroyed b v || hasCharge (sumCounters (partCounters b v)))

def flagBits (destroyed diag : Bool) : Nat := (if destroyed then 1 else 0) + if diag then 2 else 0

/-- The energy charged for a list of counters, each by itself. -/
def chargedOf (k : Nat) (l : List Counters) : Nat := sum (l.map (fun x => chargedNj k x.plannedNj))

/-- The block record. -/
def blockRecord (b : Block) : List Byte :=
  let k := ratio b
  let flags := (if b.acct.sampleMissing then 1 else 0) + (if clamped b then 2 else 0) +
    if b.acct.useSamples && !b.acct.useWasZero then 0 else 4
  acctBytes 3 flags 0 0 b.tb.epoch (sumCounters (allCounters b)) (chargedOf k (allCounters b)) (epochTicks b) k (standingNj b)
    (measuredNj b) b.acct.samples

/-- The records of one partition, of whose contexts the first `room` get one. -/
def partRecords (b : Block) (vf room : Nat) : List (List Byte) :=
  let k := ratio b
  let es := closeEntries b vf
  let x := sumCounters (partCounters b vf)
  acctBytes 2 (flagBits (wasDestroyed b vf) (closeDiag b vf)) 0 vf b.tb.epoch x (chargedOf k (partCounters b vf)) x.lost
      (es.length - room) 0 0 0 ::
    (es.take room).map (fun e =>
      acctBytes 1 (flagBits (!e.live) (closeDiag b vf)) e.tag vf b.tb.epoch e.counters (chargedNj k e.counters.plannedNj)
        e.counters.lost 0 0 0 0)

/-- The records of partitions in order; context records find room for `room` in all. -/
def recordsFrom (b : Block) : List Nat → Nat → List (List Byte)
  | [], _ => []
  | v :: vs, room => partRecords b v room ++ recordsFrom b vs (room - (closeEntries b v).length)

/-- Every record of the close, at most 8,192 (log entry 49). -/
def closeRecords (b : Block) : List (List Byte) :=
  let ps := closeParts b
  blockRecord b :: recordsFrom b ps (8191 - ps.length)

/-! ## The accounting ring (R438) -/

def setAcctRing (b : Block) (r : AcRing) : Block := { b with acct := { b.acct with ring := r } }

/-- A record written to the accounting ring, or dropped. -/
def acctRecord (b : Block) (bs : List Byte) : Block :=
  let r := b.acct.ring
  if ringOpen r then setAcctRing (hostWrite b (r.base.toNat + 128 * r.tail.toNat) bs) (ringPush r)
  else setAcctRing b (ringDrop r)

/-! ## ACCOUNTING_CLOSE -/

/-- Counters at zero, the figures of live contexts closed, the tables of the epoch emptied (R421, R435). -/
def afterClose (k : Nat) (b : Block) : Block :=
  { b with
    ctxs := tabMap b.ctxs (fun _ c => { c with
      counters := Counters.zero, closing := some ⟨b.tb.epoch, c.counters.unitTicks, chargedNj k c.counters.plannedNj⟩ })
    parts := tabMap b.parts (fun _ p => { p with totals := Counters.zero, faults := 0 })
    acct := { b.acct with sampleSum := 0, samples := 0, sampleMissing := false, useWasZero := !b.acct.useSamples, retired := []
                          destroyedParts := [], closedAt := some b.tb.epoch } }

/-- The close of an epoch, whole at trim tick 2,048, once (log entry 1). -/
def accountingClose (b : Block) : Block :=
  if trimTask b 2048 && b.acct.closedAt != some b.tb.epoch then
    let b1 := toTick b 2048
    setCause (nextFree (afterClose (ratio b1) ((closeRecords b1).foldl acctRecord b1))) 0 cAccounting
  else b

/-- ACCOUNTING_CLOSE. -/
def execAccountingClose (s : State) : Host.Outcome State Fault Refusal := onBlock accountingClose s

end Sys2Proof.Machine
end

