-- ==== Sys2Proof/Machine/Contexts.lean ====
section
/-!
DEFINITION. The admin queue's guest opcodes: queues and contexts created and destroyed (R246, R249, R251 to R258).
-/

namespace Sys2Proof.Machine

open Sys2Proof

/-! ## Queues -/

/-- Whether the parameters of QUEUE_CREATE lie in their ranges; the vector belongs to a CQ alone (R246). -/
def queueFields (kind index vector entriesLog2 : BitVec 8) (ring : BitVec 64) : Bool :=
  decide (kind.toNat ≤ 1) && decide (index.toNat ≤ 7) && decide (4 ≤ entriesLog2.toNat) && decide (entriesLog2.toNat ≤ 12) &&
  decide (ring.toNat % 4096 = 0) && (if kind = 1 then decide (vector.toNat ≤ 63) else vector == 0)

/-- A queue added to a context: a CQ is armed, its first pass has phase 1 (R231, R237). -/
def addQueue (b : Block) (tag : Nat) (kind index vector entriesLog2 : BitVec 8) (ring : BitVec 64) (level : BitVec 4) : Block :=
  modCtx b tag (fun c =>
    if kind = 1 then { c with cqs := tabSet c.cqs index.toNat ⟨ring, entriesLog2.toNat, vector.toNat, 0, 0, true, true, 0⟩ }
    else { c with sqs := tabSet c.sqs index.toNat ⟨ring, entriesLog2.toNat, level, 0, 0⟩ })

/-- Whether a context has a queue. -/
def hasQueue (c : Ctx) (kind index : BitVec 8) : Bool :=
  if kind = 1 then (tabGet c.cqs index.toNat).isSome else (tabGet c.sqs index.toNat).isSome

/-- QUEUE_CREATE. -/
def doQueueCreate (q : QRef) (h : Hdr) (kind index level vector entriesLog2 : BitVec 8) (ring : BitVec 64) (id : Nat)
    (b : Block) : Block :=
  match liveCtx b q.fn h.tag.toNat with
  | none => finish b id stInvalidField 0
  | some c =>
    if !queueFields kind index vector entriesLog2 ring then finish b id stInvalidField 0
    else if level ≠ 1 then finish b id stLevelUnsupported 0
    else if hasQueue c kind index then finish b id stInvalidField 0
    else if kind = 0 ∧ tabGet c.cqs 0 = none then finish b id stNotPermitted 0
    else finish (addQueue b h.tag.toNat kind index vector entriesLog2 ring 1) id stOk 0

/-- QUEUE_CREATE. -/
def execQueueCreate (q : QRef) (h : Hdr) (kind index level vector entriesLog2 : BitVec 8) (ring : BitVec 64) (s : State) :
    Host.Outcome State Fault Refusal :=
  onBlock (fetchPacket (.queueCreate q h kind index level vector entriesLog2 ring) q h 0x60
    (doQueueCreate q h kind index level vector entriesLog2 ring)) s

/-- Whether a queue may not be destroyed yet (R249). -/
def queueBusy (b : Block) (tag : BitVec 16) (c : Ctx) (kind index : BitVec 8) : Bool :=
  if kind = 1 then
    b.dealer.cmds.any (fun d => d.q.tag == tag && d.cq == index.toNat) ||
      (index == 0 && (!c.sqs.isEmpty || c.cqs.any (fun e => e.1 != 0)))
  else b.dealer.cmds.any (fun d => d.q.tag == tag && d.q.idx.toNat == index.toNat)

/-- QUEUE_DESTROY (R249). -/
def doQueueDestroy (q : QRef) (h : Hdr) (kind index : BitVec 8) (id : Nat) (b : Block) : Block :=
  match liveCtx b q.fn h.tag.toNat with
  | none => finish b id stInvalidField 0
  | some c =>
    if decide (1 < kind.toNat) || !hasQueue c kind index then finish b id stInvalidField 0
    else if queueBusy b h.tag c kind index then finish b id stBusy 0
    else
      finish (modCtx b h.tag.toNat (fun x =>
        if kind = 1 then { x with cqs := tabDel x.cqs index.toNat } else { x with sqs := tabDel x.sqs index.toNat })) id stOk 0

/-- QUEUE_DESTROY. -/
def execQueueDestroy (q : QRef) (h : Hdr) (kind index : BitVec 8) (s : State) : Host.Outcome State Fault Refusal :=
  onBlock (fetchPacket (.queueDestroy q h kind index) q h 0x61 (doQueueDestroy q h kind index)) s

/-! ## Contexts -/

/-- Whether a spill range keeps R253. -/
def spillOk (b : Block) (vf : Nat) (p : Part) (spill : BitVec 64) (tiles : BitVec 32) : Bool :=
  if spill = 0 then tiles == 0
  else
    tiles != 0 && decide (spill.toNat % 4096 = 0) && (tierOf p.desc spill.toNat (tiles.toNat * 4096)).isSome &&
    rangeFree (takenRanges b vf p) spill.toNat (tiles.toNat * 4096)

/-- A context just created (R254): no queues, not resident, its tree the tables given. -/
def newCtx (fn : Nat) (fencePage : BitVec 64) (fenceCount : Nat) (spill : BitVec 64) (spillTiles : Nat)
    (tables : List TableNode) : Ctx :=
  { fn := fn, state := .live, sqs := [], cqs := [], fencePage := fencePage, fenceCount := fenceCount, spill := spill,
    spillTiles := spillTiles, plans := [], held := none, lostStatus := 0, lostAt := 0, resident := false,
    wantsSwapIn := false, lastDoorbell := none, wantsSince := none, swapRound := none, lastFetch := none,
    mappings := [], tables := tables, counters := Counters.zero,
    closing := none, closed := none }

/-- The lowest free tag of a partition's range (R251). -/
def freeTag (b : Block) (p : Part) : Option Nat :=
  (rangeFrom p.desc.tagFirst p.desc.tagCount).find? (fun t => (ctxAt b t).isNone)

/-- CTX_CREATE (R251, R253). -/
def doCtxCreate (q : QRef) (fencePage : BitVec 64) (fenceCount : BitVec 32) (spill : BitVec 64) (spillTiles : BitVec 32)
    (id : Nat) (b : Block) : Block :=
  match partAt b q.fn with
  | none => finish b id stInvalidField 0
  | some p =>
    if fencePage.toNat % 4096 ≠ 0 ∨ fenceCount = 0 ∨ 65535 < fenceCount.toNat ∨ spillOk b q.fn p spill spillTiles = false then
      finish b id stInvalidField 0
    else if p.desc.maxContexts ≤ (ctxsOf b q.fn).length then finish b id stNoResource 0
    else
      match freeTag b p with
      | none => finish b id stNoResource 0
      | some t =>
        finish (setCtx b t (newCtx q.fn fencePage fenceCount.toNat spill spillTiles.toNat (placeTables b q.fn p t [] []))) id stOk (BitVec.ofNat 32 t)

/-- CTX_CREATE. -/
def execCtxCreate (q : QRef) (h : Hdr) (fencePage : BitVec 64) (fenceCount : BitVec 32) (spill : BitVec 64)
    (spillTiles : BitVec 32) (s : State) : Host.Outcome State Fault Refusal :=
  onBlock (fetchPacket (.ctxCreate q h fencePage fenceCount spill spillTiles) q h 0x70
    (doCtxCreate q fencePage fenceCount spill spillTiles)) s

/-- Whether a command of a context is marked aborted at its CTX_DESTROY: fetched, unfinished, with a CQ entry, and no STEP,
which ends with its step. -/
def abortable (tag : BitVec 16) (c : Cmd) : Bool :=
  c.q.tag == tag &&
    match c.stage with
    | .done _ _ => false
    | .held _ => false
    | .step _ => false
    | _ => true

/-- Stages 1 and 2 of R258: the context is DESTROYING, its commands, the steps that touch it and the held deals that seat its
sequences are aborted. -/
def abortCtx (b : Block) (tag : BitVec 16) (st : BitVec 16) : Block :=
  let b1 := modCtx b tag.toNat (fun c => { c with state := .destroying, wantsSwapIn := false })
  let b2 := finishAll (noteLoads b1 (abortable tag)) (abortable tag) st 0
  let b3 := ((b2.dealer.steps.filter (stepTouches tag.toNat)).map (fun s => s.id)).foldl abortStep b2
  abortHeld b3 tag.toNat

/-- CTX_DESTROY (R258). -/
def doCtxDestroy (q : QRef) (h : Hdr) (id : Nat) (b : Block) : Block :=
  match liveCtx b q.fn h.tag.toNat with
  | none => finish b id stInvalidField 0
  | some _ => setCmd (abortCtx b h.tag stAborted) id (.ctxDestroy h.tag none)

/-- CTX_DESTROY. -/
def execCtxDestroy (q : QRef) (h : Hdr) (s : State) : Host.Outcome State Fault Refusal :=
  onBlock (fun b => settle (fetchPacket (.ctxDestroy q h) q h 0x71 (doCtxDestroy q h) b)) s

end Sys2Proof.Machine
end

