-- ==== Sys2Proof/Machine/OpCheck.lean ====
section
/-!
DEFINITION. The verifier's checks of one slot operation and its descriptor: encodings, descriptors, privilege, formats, modes,
shapes, slot use and seats (R104, R105, R108 to R111, R167, R175).
-/

namespace Sys2Proof.Machine

open Sys2Proof

/-! ## Encodings -/

/-- Whether a data slot's word breaks R105: an op the slot does not list, a nonzero RZ field, or a no-op that is not all zero. -/
def wordBad (o : SlotOp) : Bool :=
  if o.word = 0 then false
  else
    let rz := if o.slot = 0 then 32 else if o.slot = 2 then 4 else 64
    ((wantType o.slot o.op).isNone && !(o.slot == 4 && (o.op == 0xE || o.op == 0xF))) || o.word % rz != 0

/-- Whether a bundle breaks R105. -/
def encodingBad (engine : Bool) (w : BitVec 128) : Bool :=
  (bundleOps engine w).any wordBad || ctlOf (controlWord w) == .bad

/-- The descriptor an operation names, if it is there and of the operation's type. -/
def opDesc (descs : List (BitVec 256)) (o : SlotOp) : Option (BitVec 256) :=
  match wantType o.slot o.op, descs[o.desc]? with
  | some t, some d => if descType d = t then some d else none
  | _, _ => none

/-! ## Assigned bits (R108) -/

/-- Bytes, and an address word, of a descriptor as runs of bits. -/
def bytesRun (o n : Nat) : Nat × Nat := (8 * o, 8 * n)

def addrRun (o : Nat) : List (Nat × Nat) := [(8 * o, 14), (8 * o + 16, 16)]

/-- The assigned bits of a VEC operand word by its kind. -/
def vecRun (o : Nat) (kind : BitVec 2) : List (Nat × Nat) :=
  if kind = 0 then addrRun o else if kind = 1 then [(8 * o, 13)] else [bytesRun o 4]

/-- The bits the map of a descriptor's type assigns. -/
def assignedRuns (d : BitVec 256) : List (Nat × Nat) :=
  match descType d with
  | 1 => [bytesRun 0 2, (16, 2), (24, 6), (32, 6), bytesRun 8 4, bytesRun 0x10 4, bytesRun 0x18 4] ++ addrRun 0x0C ++ addrRun 0x14
  | 2 => [bytesRun 0 16, bytesRun 0x18 8] ++ addrRun 0x10 ++ addrRun 0x14
  | 3 => [(0, 14), bytesRun 2 6, bytesRun 0x10 6, (8 * 0x16, 12), (8 * 0x16 + 15, 1)] ++ addrRun 0x08 ++ addrRun 0x0C
  | 4 => [(0, 11), (16, 6), (24, 6), (32, 4), (40, 4), bytesRun 6 10] ++ addrRun 0x10
  | 5 =>
    let v := vecOfBits d
    bytesRun 0 7 :: (vecRun 0x08 v.kind0 ++ vecRun 0x0C v.kind1 ++ vecRun 0x10 v.kind2 ++ vecRun 0x14 v.kindD)
  | 6 => [(0, 12), (16, 12), bytesRun 4 4, (64, 48), bytesRun 0x10 4, bytesRun 0x18 2, (8 * 0x1A, 2), bytesRun 0x1C 2] ++ addrRun 0x14
  | 7 => [(0, 11), (12, 2), (24, 4), bytesRun 4 12, bytesRun 0x14 2] ++ addrRun 0x10
  | 8 => [(0, 12), (16, 6), (24, 6), (32, 13), (48, 6), bytesRun 0x0C 2] ++ addrRun 0x08
  | 9 => [(0, 11), (16, 20), bytesRun 8 8] ++ addrRun 0x10
  | _ => []

/-- A mask of runs of bits. -/
def runMask (l : List (Nat × Nat)) : BitVec 256 := l.foldl (fun m r => m ||| BitVec.ofNat 256 ((2 ^ r.2 - 1) * 2 ^ r.1)) 0

/-- Whether a bit that no field takes is set. -/
def unassignedSet (d : BitVec 256) : Bool := d &&& ~~~(runMask (assignedRuns d)) != 0

/-! ## Codes from lists (R108, R110) -/

def vecListed (f : Nat) : Bool := (vecLane f 0 0 0).isSome || (vecRed f).isSome

/-- A code that its list does not give; the privileged VEC functions apart. -/
def codeBad (d : BitVec 256) : Bool :=
  match descType d with
  | 5 => let v := vecOfBits d; (!vecListed v.func.toNat && decide (v.func.toNat < 0xF0)) || decide (2 ≤ v.kindD.toNat)
  | 6 => decide (4 < (xferOfBits d).cls.toNat)
  | 7 => decide (4 < (gatherOfBits d).cls.toNat)
  | 9 => let a := atomicOfBits d; (a.cls != 0 && a.cls != 2) || decide (4 < a.op.toNat)
  | _ => false

/-- Whether a descriptor of the table breaks R108 by itself, whether or not an operation names it: a type, or another code, that its
list does not give, or a bit set that no field takes. -/
def tableBad (d : BitVec 256) : Bool := descType d == 0 || decide (9 < descType d) || unassignedSet d || codeBad d

/-- Whether an operation names no descriptor of its type; a direct ROTATE names a QUANTISE descriptor too. -/
def descriptorBad (descs : List (BitVec 256)) (o : SlotOp) : Bool :=
  if (wantType o.slot o.op).isNone then false
  else
    match opDesc descs o with
    | none => true
    | some d =>
      descType d == 2 && (rotateOfBits d).direct &&
        match descs[(rotateOfBits d).qdesc.toNat]? with
        | some q => descType q != 3
        | none => true

/-- A privileged operation (R111). -/
def privileged (descs : List (BitVec 256)) (o : SlotOp) : Bool :=
  (o.slot == 4 && (o.op == 0xE || o.op == 0xF)) ||
    match opDesc descs o with
    | some d => descType d == 5 && decide (0xF0 ≤ (vecOfBits d).func.toNat)
    | none => false

/-! ## Formats, modes and shapes -/

/-- The QUANTISE a direct ROTATE feeds. -/
def directQuant (descs : List (BitVec 256)) (d : BitVec 256) : QuantDesc := quantOfBits (descs.getD (rotateOfBits d).qdesc.toNat 0)

def quantFormatBad (q : QuantDesc) : Bool := q.fmt != 2 && q.fmt != 4 && q.fmt != 5

/-- FORMAT (R29, R30, R57). -/
def formatBad (descs : List (BitVec 256)) (d : BitVec 256) : Bool :=
  match descType d with
  | 1 =>
    let x := mmaOfBits d
    !([0, 1, 2, 3, 4, 6].contains x.wFmt.toNat) || !([2, 4, 5, 6].contains x.aFmt.toNat)
  | 2 => (rotateOfBits d).direct && quantFormatBad (directQuant descs d)
  | 3 => quantFormatBad (quantOfBits d)
  | 5 =>
    let v := vecOfBits d
    [v.fmt0, v.fmt1, v.fmt2].any (fun f => decide (8 ≤ f.toNat)) || (v.fmtD != 6 && v.fmtD != 7)
  | _ => false

/-- MODE (R42, R43). -/
def modeBad (d : BitVec 256) : Bool := descType d == 1 && (mmaMode (mmaOfBits d).wFmt.toNat (mmaOfBits d).aFmt.toNat).isNone

def mmaShapeBad (x : MmaDesc) : Bool :=
  let rate := match mmaMode x.wFmt.toNat x.aFmt.toNat with
    | some m => m.num
    | none => 1
  x.k == 0 || decide (1048576 < x.k.toNat) || x.k.toNat % rate != 0 || (!x.transposed && x.k064 != 0) ||
  (x.seatGathered && (x.wFmt != 6 || x.aFmt != 6 || x.seatStride.toNat % 64 != 0))

/-- The ranges of a QUANTISE descriptor's rows and width (R110). -/
def quantRangeBad (q : QuantDesc) : Bool :=
  q.rows == 0 || decide (1024 < q.rows.toNat) || q.width == 0 || decide (65536 < q.width.toNat) || (q.fmt == 2 && q.width.toNat % 2 != 0)

/-- Width and entries of a quantisation of a number of rows. -/
def quantShapeBad (q : QuantDesc) (rows width : Nat) : Bool :=
  (q.fmt == 2 && width % 2 != 0) || decide (1024 < q.rowBase.toNat + rows) ||
  (!q.dynamic && q.staticEntry.getLsbD 15 && decide (1024 ≤ bits q.staticEntry.toNat 0 12))

def rotShapeBad (descs : List (BitVec 256)) (d : BitVec 256) : Bool :=
  let x := rotateOfBits d
  let n := x.width.toNat
  x.rows == 0 || decide (1024 < x.rows.toNat) || decide (n < 32) || decide (65536 < n) ||
  (rotBlocks x).any (fun m => decide (14 < m)) || sum ((rotBlocks x).map (fun m => 2 ^ m)) != n ||
  (x.smooth && decide (4096 < x.sigmaBase.toNat + n)) ||
  (x.direct && (decide (16384 < n) || x.dst != ⟨0, 0, 0⟩ || (directQuant descs d).src != ⟨0, 0, 0⟩ ||
    quantRangeBad (directQuant descs d) || quantShapeBad (directQuant descs d) x.rows.toNat n))

def scaleShapeBad (x : ScaleDesc) : Bool :=
  let r := x.rowsM1.toNat + 1
  let c := x.colsM1.toNat + 1
  decide (4096 < x.wScaleBase.toNat + c) || (x.bias && decide (4096 < x.biasBase.toNat + c)) ||
  decide (1024 < x.aScaleBase.toNat + r) || (x.adapter && decide (1024 < x.alphaBase.toNat + r)) || (!x.adapter && x.adapterBuf != 0)

/-- A VEC operand that names an entry beyond its table. -/
def entryBad (kind : BitVec 2) (w : BitVec 32) : Bool := kind == 1 && bit w.toNat 12 && decide (1024 ≤ bits w.toNat 0 12)

def localShapeBad (op : Nat) (x : LocalDesc) : Bool :=
  if op = 5 ∨ op = 6 then decide (63 < x.firstRow.toNat + x.rowsM1.toNat)
  else if op = 7 then decide ((if x.rowEntries then 1024 else 4096) < x.entry.toNat + x.entriesM1.toNat + 1)
  else false

/-- SHAPE (R55, R71, R75, R78, R108, R110). -/
def shapeBad (descs : List (BitVec 256)) (o : SlotOp) (d : BitVec 256) : Bool :=
  match descType d with
  | 1 => mmaShapeBad (mmaOfBits d)
  | 2 => rotShapeBad descs d
  | 3 =>
    let q := quantOfBits d
    quantRangeBad q || quantShapeBad q q.rows.toNat q.width.toNat
  | 4 => scaleShapeBad (scaleOfBits d)
  | 5 =>
    let v := vecOfBits d
    v.count == 0 || decide (1024 < v.count.toNat) || entryBad v.kind0 v.src0 || entryBad v.kind1 v.src1 ||
      entryBad v.kind2 v.src2 || entryBad v.kindD v.dst
  | 6 =>
    let x := xferOfBits d
    x.tiles == 0 || decide (256 < x.tiles.toNat) || x.offset.toNat % 4096 != 0 || x.memStep.toNat % 4096 != 0
  | 7 =>
    let g := gatherOfBits d
    g.seatCount == 0 || decide (1024 < g.seatCount.toNat) || g.tilesPerSeat == 0 || decide (256 < g.tilesPerSeat.toNat) ||
      (g.kind == 3 && g.tilesPerSeat != 1) || ((g.kind == 0 || g.kind == 2) && g.src.toNat % 4096 != 0) ||
      g.seatStride.toNat % 64 != 0
  | 8 => localShapeBad o.op (localOfBits d)
  | 9 => let a := atomicOfBits d; a.offset.toNat % (if a.op = 4 then 8 else 4096) != 0
  | _ => false

/-- An operation whose schedule the contract gives: its descriptor is there and its formats, mode and shape hold. -/
def scheduled (descs : List (BitVec 256)) (o : SlotOp) : Option (BitVec 256) :=
  match opDesc descs o with
  | some d => if codeBad d || formatBad descs d || modeBad d || shapeBad descs o d then none else some d
  | none => none

/-! ## Slots and seats (R166, R167) -/

/-- Classes the verifier allows for a slot kind. -/
def classAllowed (kind cls : Nat) : Bool :=
  match kind with
  | 1 => cls == 1 || cls == 4
  | 2 => cls == 0 || cls == 1
  | 3 => cls == 2 || cls == 3
  | 4 => cls == 1 || cls == 4
  | 5 => cls == 1
  | 6 => cls == 3
  | _ => true

/-- Whether a group-die kind appears in a plan whose order is not 4, named by an operation or not (R167). -/
def groupDieBad (m : ByteMem) : Bool := imgOrder m != 4 && (imgSlotList m).any (fun e => e.kind == 3 || e.kind == 6)

/-- SLOT_USE: what a transfer or atomic does with its slot. Of a slot at or beyond slot_count, or a tile before its first, no rule
names the reason: it is SLOT_USE (log entry 110). -/
def slotUseBad (m : ByteMem) (x : Move) : Bool :=
  if x.kind = .gather ∨ x.kind = .info then false
  else if imgSlots m ≤ x.slot then true
  else
    let e := imgSlot m x.slot
    let reads := x.kind != .store
    let writes := x.kind != .load
    let base := decide (4 ≤ e.kind) && decide (e.kind ≤ 6)
    (writes && (base || !bit e.access 1)) || (reads && !bit e.access 0) || !classAllowed e.kind x.cls ||
    (decide (8 ≤ e.kind) != x.seated) || decide (x.tile < 0) || decide ((e.extent : Int) ≤ x.tile)

/-- SEAT_RANGE: a seat at or beyond S. -/
def seatBad (m : ByteMem) (d : BitVec 256) : Bool :=
  match descType d with
  | 6 => let x := xferOfBits d; x.seatIndexed && decide (imgSeats m < x.seatFirst.toNat + x.tiles.toNat)
  | 7 => let g := gatherOfBits d; decide (imgSeats m < g.seatFirst.toNat + g.seatCount.toNat)
  | _ => false

end Sys2Proof.Machine
end

