-- ==== Sys2Proof/Machine/Replay.lean ====
section
/-!
DEFINITION. The verifier's replay of a trick (R129, R175): banks, same-tick cases, state read before it is written, exactness
and buffer states along a deck (R45, R76, R77), transfer issue, lanes and budgets, semaphores, completion, energy, live maps.
-/

namespace Sys2Proof.Machine

open Sys2Proof

/-! ## A segment followed -/

/-- A segment as the verifier follows it: entry, descriptors, stored bundles, issues, how the stream ends, timelines. -/
structure Prog where
  entry : SegEntry
  descs : List (BitVec 256)
  words : List (BitVec 128)
  issues : List Issue
  fin : StreamEnd
  lines : List Timeline
  deriving DecidableEq, Repr

/-- The timelines of an issue. -/
def issueLines (engine : Bool) (descs : List (BitVec 256)) (i : Issue) : List Timeline :=
  (bundleOps engine i.word).filterMap (fun o =>
    match scheduled descs o with
    | some d => opLine descs i.tick i.loops o d
    | none => none)

def progOf (engine : Bool) (m : ByteMem) (e : SegEntry) : Prog :=
  let descs := segDescs m e
  let words := segBundles m e
  let s := stream words
  ⟨e, descs, words, s.1, s.2, s.1.flatMap (issueLines engine descs)⟩

/-- The segments of a trick, in core order. -/
def trickProgs (m : ByteMem) (t : Nat) : List Prog := (trickSegs m t).map (progOf (imgEngine m != 0) m)

/-- Whether some operation of the stored bundles fails a check of its descriptor. -/
def anyOp (engine : Bool) (p : Prog) (f : SlotOp → BitVec 256 → Bool) : Bool :=
  p.words.any (fun w => (bundleOps engine w).any (fun o => match opDesc p.descs o with
    | some d => f o d
    | none => false))

/-! ## Occupancy, banks, same tick -/

/-- Whether a sorted list repeats a number. -/
def repeats : List Nat → Bool
  | a :: b :: t => a == b || repeats (b :: t)
  | _ => false

/-- An operation of a slot issues before the occupancy of the one before it ends. -/
def overlapsNext : List (Nat × Nat) → Bool
  | a :: b :: t => decide (b.1 < a.1 + a.2) || overlapsNext (b :: t)
  | _ => false

/-- Issue ticks and occupancies of an engine's operations (R191). -/
def engineOps (e : Option Engine) (p : Prog) : List (Nat × EngineOp) :=
  match e with
  | none => []
  | some x => (p.issues.filter (fun i => engineOp i.word != 0)).map (fun i => (i.tick, x.ops.getD (engineOp i.word) ⟨1, 0, 0⟩))

/-- OCCUPANCY (R112, R191). -/
def occupancyBad (e : Option Engine) (p : Prog) : Bool :=
  (List.range 5).any (fun s => overlapsNext ((p.lines.filter (fun l => l.slot == s)).map (fun l => (l.tick, l.occupancy)))) ||
  overlapsNext ((engineOps e p).map (fun x => (x.1, x.2.occupancy)))

/-- The accesses of an operation that a bank serves: every one of a transfer's tiles and every write, while a compute operation that
reads a line for several operands in one tick reads it once (R87, R116). -/
def served (l : Timeline) : List (Nat × Int) :=
  let key := fun (a : Access) => (a.tick, a.line)
  if l.moves.isEmpty then ((l.acc.filter (fun a => !a.write)).map key).eraseDups ++ (l.acc.filter (fun a => a.write)).map key
  else l.acc.map key

/-- BANK (R116). -/
def bankBad (p : Prog) : Bool :=
  repeats (sortBy id (p.lines.flatMap (fun l => (served l).map (fun a => a.1 * 32 + (a.2 % 32).toNat))))

/-- The landing windows of a core's MMAs: buffer, first and last tick. -/
def mmaWindows (p : Prog) : List (Nat × Nat × Nat) :=
  p.lines.flatMap (fun l => l.bufs.filterMap (fun e => match e with
    | .mma buf _ _ _ _ _ first last => some (buf, first, last)
    | _ => none))

/-- Ticks in which a buffer is read, or added to by an import, whose row lands a tick after it is read (R114). -/
def bufTouches (p : Prog) : List (Nat × Nat) :=
  p.lines.flatMap (fun l => l.bufs.flatMap (fun e => match e with
    | .mma .. => []
    | .read t buf _ => [(buf, t)]
    | .rowOut t buf _ _ => [(buf, t)]
    | .rowIn t buf _ _ => [(buf, t + 1)]))

/-- SAME_TICK (R100, R113); two writes to one byte are two accesses to one bank, which BANK rejects first. -/
def sameTickBad (p : Prog) : Bool :=
  (bufTouches p).any (fun x => (mmaWindows p).any (fun w => w.1 == x.1 && decide (w.2.1 ≤ x.2) && decide (x.2 ≤ w.2.2))) ||
  repeats (sortBy id (p.lines.flatMap (fun l => (l.entries.map (fun e => e.1 * 8192 + e.2)).eraseDups)))

/-! ## Scratchpad bytes written (R103, R177) -/

/-- Every byte of a line. -/
def wholeLine : Nat := 2 ^ 64 - 1

/-- Lines live at the end of a trick. -/
def liveLines (m : ByteMem) (t j : Nat) : Tab Nat :=
  ((List.range 256).filter (liveTile m t j)).flatMap (fun i => (rangeFrom (64 * i) 64).map (fun n => (n, wholeLine)))

/-- Accesses in order of their ticks, the reads of a tick before its writes (R99). -/
def inOrder (p : Prog) : List Access :=
  sortBy (fun (a : Access) => 2 * a.tick + (if a.write then 1 else 0)) (p.lines.flatMap (fun l => l.acc))

/-- The bytes written, and whether one was read that was not, after an access. -/
def followByte (st : Tab Nat × Bool) (a : Access) : Tab Nat × Bool :=
  let old := tabGetD st.1 a.line.toNat 0
  if a.write then (tabSet st.1 a.line.toNat (old ||| a.mask), st.2) else (st.1, st.2 || (a.mask &&& old) != a.mask)

/-- The bytes of a core written in a trick or live before it, and whether UNWRITTEN fails. -/
def followBytes (before : Tab Nat) (p : Prog) : Tab Nat × Bool := (inOrder p).foldl followByte (before, false)

/-! ## Accumulators and traced words along a deck (R45, R76, R77) -/

/-- What is traced: of each accumulator the products it has received, as a part of 2^43, and their f, 255 for FP32; of each
buffer cleared or live its state by the same code; of each 8-byte word of a scratchpad exported, its products; and the
words of tiles stored, by slot, tile and die. Accumulators and words are numbered from core × 2^17. -/
structure Trace where
  acc : Tab (Nat × Nat)
  bufs : Tab Nat
  words : Tab Nat
  tiles : List ((Nat × Int × Nat) × List (Option Nat))
  held : List ((Nat × Move) × List (Option Nat))
  unwritten : Bool
  state : Bool
  exact : Bool
  deriving DecidableEq, Repr

def Trace.start : Trace := ⟨[], [], [], [], [], false, false, false⟩

/-- A full bound, n/B = 1. -/
def fullBound : Nat := 2 ^ 43

def modeTag (m : MmaMode) : Nat := if m.fp32 then 255 else m.f

def traceAcc (core buf row col : Nat) : Nat := core * 2 ^ 17 + buf * 4096 + row * 64 + col

def traceBuf (core buf : Nat) : Nat := core * 16 + buf

def traceWord (core : Nat) (line : Int) (w : Nat) : Nat := core * 2 ^ 17 + 8 * line.toNat + w

/-- An accumulator receives products of a kind. -/
def receive (tag amount : Nat) (s : Trace) (key : Nat) : Trace :=
  let old := tabGetD s.acc key (0, tag)
  let n := old.1 + amount
  { s with acc := tabSet s.acc key (n, tag), exact := s.exact || old.2 != tag || decide (fullBound < n) }

/-- An event of the trace. -/
inductive TraceEv where
  | clear (buf tag : Nat)
  | adds (buf tag : Nat)
  | products (buf rows cols tag amount : Nat)
  | reads (buf : Nat) (fp : Bool)
  | rowOut (buf row : Nat) (line : Int)
  | rowIn (buf row : Nat) (line : Int)
  | written (line : Int) (mask : Nat)
  | loads (m : Move)
  | fills (m : Move) (q : Nat)
  | takes (m : Move) (q : Nat)
  | stores (m : Move)
  deriving DecidableEq, Repr

/-- The tile a transfer reaches, where it can be followed: its slot, its offset, and the die for DIE and GROUP_DIE kinds. -/
def tileKey (m : ByteMem) (core : Nat) (x : Move) : Nat × Int × Nat :=
  let e := imgSlot m x.slot
  (x.slot, x.tile, if e.kind = 2 then core / 64 else if e.kind = 3 then e.peer else 0)

/-- Whether a transfer's words are followed: a plain LOAD, STORE or SCATTER. -/
def followed (x : Move) : Bool := !x.seated && (x.kind == .load || x.kind == .store)

/-- The eight words of a line. -/
def lineWords (s : Trace) (core : Nat) (line : Int) : List (Option Nat) := (List.range 8).map (fun w => tabGet s.words (traceWord core line w))

def setWords (s : Trace) (core : Nat) (line : Int) (l : List (Option Nat)) : Trace :=
  { s with words := (indexed l).foldl (fun t e => match e.2 with
      | some n => tabSet t (traceWord core line e.1) n
      | none => tabDel t (traceWord core line e.1)) s.words }

def heldOf (s : Trace) (core : Nat) (x : Move) : List (Option Nat) := ((s.held.find? (fun e => e.1 == (core, x))).map (fun e => e.2)).getD []

def setHeld (s : Trace) (core : Nat) (x : Move) (l : List (Option Nat)) : Trace :=
  { s with held := ((core, x), l) :: s.held.filter (fun e => e.1 != (core, x)) }

def lanesOf (r c : Nat) : List (Nat × Nat) := (List.range r).flatMap (fun i => (List.range c).map (fun j => (i, j)))

/-- A buffer used that is neither cleared nor live, or in another state than a tag asks. -/
def uses (s : Trace) (core buf : Nat) (tag : Option Nat) : Trace :=
  match tabGet s.bufs (traceBuf core buf) with
  | none => { s with unwritten := true }
  | some n => { s with state := s.state || (match tag with
      | some x => x != n
      | none => false) }

/-- The trace after an event of a core. -/
def traceEv (m : ByteMem) (s : Trace) (core : Nat) (e : TraceEv) : Trace :=
  match e with
  | .clear buf tag => { s with acc := tabClear s.acc (traceAcc core buf 0 0) 4096, bufs := tabSet s.bufs (traceBuf core buf) tag }
  | .adds buf tag => uses s core buf (some tag)
  | .products buf r c tag amount => (lanesOf r c).foldl (fun t ij => receive tag amount t (traceAcc core buf ij.1 ij.2)) s
  | .reads buf fp => uses s core buf (if fp then some 255 else none)
  | .rowOut buf row line =>
    let s1 := uses s core buf none
    let fp := tabGet s.bufs (traceBuf core buf) == some 255
    (List.range 8).foldl (fun t (n : Nat) => setWords t core (line + n) ((List.range 8).map (fun (w : Nat) =>
      if fp then none else some (tabGetD s.acc (traceAcc core buf row (8 * n + w)) (0, 0)).1))) s1
  | .rowIn buf row line =>
    let s1 := uses s core buf none
    let tag := tabGetD s.bufs (traceBuf core buf) 0
    if tag = 255 then s1
    else (List.range 64).foldl (fun t j =>
      receive tag ((tabGet s.words (traceWord core (line + (j / 8 : Nat)) (j % 8))).getD fullBound) t (traceAcc core buf row j)) s1
  | .written line mask =>
    setWords s core line ((List.range 8).map (fun w => if mask / 2 ^ (8 * w) % 256 = 0 then tabGet s.words (traceWord core line w) else none))
  | .loads x => setHeld s core x (((s.tiles.find? (fun t => t.1 == tileKey m core x)).map (fun t => t.2)).getD [])
  | .fills x q => (List.range 8).foldl (fun t (n : Nat) => setWords t core (x.line + (8 * q + n : Nat))
      ((List.range 8).map (fun (w : Nat) => (heldOf s core x).getD (64 * q + 8 * n + w) none))) s
  | .takes x q => setHeld s core x ((heldOf s core x) ++ (List.range 8).flatMap (fun (n : Nat) => lineWords s core (x.line + (8 * q + n : Nat))))
  | .stores x =>
    let rest := s.tiles.filter (fun t => t.1 != tileKey m core x)
    if followed x then { s with tiles := (tileKey m core x, heldOf s core x) :: rest } else { s with tiles := rest }

/-- The events on accumulators: an MMA's clear or what its buffer must hold, and its products; rows exported; rows imported, which
land a tick later. Ranks order a tick's events, the lines it writes last (R99). -/
def bufEvents (e : BufEv) : List (Nat × TraceEv) :=
  match e with
  | .mma buf r c k mode clear first last =>
    [(8 * first + 2, if clear then .clear buf (modeTag mode) else .adds buf (modeTag mode)),
     (8 * last + 4, .products buf r c (modeTag mode) (if mode.fp32 then 0 else k * 2 ^ (43 - mode.boundLog)))]
  | .read t buf fp => [(8 * t, .reads buf fp)]
  | .rowOut t buf row line => [(8 * t, .rowOut buf row line)]
  | .rowIn t buf row line => [(8 * t + 6, .rowIn buf row line)]

/-- The events of a transfer or atomic. Seat-indexed stores and atomics leave what they write untraced. -/
def moveEvents (x : Move) : List (Nat × TraceEv) :=
  if followed x then
    if x.kind = .load then (8 * x.mem + 1, .loads x) :: (List.range 8).map (fun q => (8 * (x.done - 8 + q) + 7, .fills x q))
    else (List.range 8).map (fun q => (8 * (x.tick + 1 + q), .takes x q)) ++ [(8 * x.mem + 5, .stores x)]
  else if x.kind = .load ∨ x.kind = .gather ∨ x.kind = .info then []
  else [(8 * x.mem + 5, .stores x)]

/-- Whether a timeline's scratchpad writes leave words of their own: exports and followed loads set theirs. -/
def keepsWords (l : Timeline) : Bool :=
  l.bufs.any (fun e => match e with
    | .rowOut .. => true
    | _ => false) || l.moves.any (fun x => followed x && x.kind == .load)

/-- The events of a timeline. -/
def lineEvents (l : Timeline) : List (Nat × TraceEv) :=
  l.bufs.flatMap bufEvents ++ l.moves.flatMap moveEvents ++
  (if keepsWords l then [] else (l.acc.filter (fun a => a.write)).map (fun a => (8 * a.tick + 7, .written a.line a.mask)))

/-- The trace of a trick, from what the one before it in its deck leaves. -/
def traceTrick (m : ByteMem) (t : Nat) (s : Trace) : Trace :=
  let evs := (indexed (trickProgs m t)).flatMap (fun p => (p.2.lines.flatMap lineEvents).map (fun e => (e.1, p.1, e.2)))
  (sortBy (fun (e : Nat × Nat × TraceEv) => e.1) evs).foldl (fun st e => traceEv m st e.2.1 e.2.2) s

/-- What a trick hands to the next of its deck: tiles stored, and the state its live maps mark. -/
def handOver (m : ByteMem) (t : Nat) (s : Trace) : Trace :=
  { Trace.start with
    tiles := s.tiles
    acc := s.acc.filter (fun e => liveBuf m t (e.1 / 2 ^ 17) (e.1 % 2 ^ 17 / 4096))
    bufs := s.bufs.filter (fun e => liveBuf m t (e.1 / 16) (e.1 % 16))
    words := s.words.filter (fun e => liveTile m t (e.1 / 2 ^ 17) (e.1 % 2 ^ 17 / 512)) }

/-- The trace before trick t of a deck that begins at a trick. -/
def traceBefore (m : ByteMem) (first t : Nat) : Trace :=
  (rangeFrom first (t - first)).foldl (fun s i => handOver m i (traceTrick m i s)) Trace.start

/-- The first tricks of the decks that hold a trick, or the trick itself. -/
def decksOf (m : ByteMem) (t : Nat) : List Nat :=
  let l := ((List.range 4).filter (fun i => decide ((imgPhase m i).1 ≤ t) && decide (t < (imgPhase m i).1 + (imgPhase m i).2))).map
    (fun i => (imgPhase m i).1)
  if l.isEmpty then [t] else l

/-- The traces of a trick in its decks. -/
def traces (m : ByteMem) (t : Nat) : List Trace := (decksOf m t).map (fun f => traceTrick m t (traceBefore m f t))

/-! ## Transfers (R96, R120 to R122) -/

def progMoves (p : Prog) : List Move := p.lines.flatMap (fun l => l.moves)

/-- IN_FLIGHT: a core's transfers that hold a credit in a tick, at each issue. -/
def inFlightBad (limit : Nat) (l : List Move) : Bool :=
  l.any (fun x => decide (limit < (l.filter (fun y => decide (y.tick ≤ x.tick) && decide (x.tick ≤ creditEnd y))).length))

/-- Two ticks of a sorted list lie closer than a distance. -/
def tooClose (d : Nat) : List Nat → Bool
  | a :: b :: t => decide (b < a + d) || tooClose d (b :: t)
  | _ => false

/-- The stacks a class-1 or class-3 transfer of a core may reach, at the canonical placement. -/
def stacksOf (m : ByteMem) (core : Nat) (x : Move) : List Nat :=
  if x.cls = 1 then [core / 64]
  else if x.cls = 3 then
    (if x.seated then (List.range 4).filter (fun d => d != core / 64) else [(imgSlot m x.slot).peer])
  else []

/-- Issue ticks of the transfers that reach a stack. -/
def stackTicks (m : ByteMem) (ps : List (Nat × Prog)) (die : Nat) : List Nat :=
  ps.flatMap (fun p => ((progMoves p.2).filter (fun x => (stacksOf m p.1 x).contains die)).map (fun x => x.tick))

/-- ISSUE (R120). -/
def issueBad (m : ByteMem) (ps : List (Nat × Prog)) : Bool :=
  ps.any (fun p => tooClose 8 (sortBy id (((progMoves p.2).filter (fun x => x.cls == 0)).map (fun x => x.tick)))) ||
  ps.any (fun p => (progMoves p.2).any (fun x => decide (2 ≤ x.cls) && (x.tick - 2048) % 64 != 0)) ||
  (List.range 4).any (fun die =>
    let l := stackTicks m ps die
    l.any (fun a => decide (min (4 ^ imgOrder m) 64 < (l.filter (fun c => decide (a ≤ c) && decide (c < a + 112))).length)))

/-- The links a transfer crosses (R117): own or target, outbound or not, slots after its own. -/
def linksOf (x : Move) : List (Bool × Bool × Nat) :=
  let loads := x.kind != .store && x.kind != .atomic
  match x.cls with
  | 2 => if loads then [(false, true, 3), (true, false, 4)] else [(true, true, 1), (false, false, 2)]
  | 3 => if loads then [(false, true, 5), (true, false, 6)] else [(true, true, 1), (false, false, 2)]
  | 4 => if loads then [(true, false, 8)] else [(true, true, 1)]
  | _ => []

/-- The lane-slots a transfer of a core uses, as numbers of link, direction, lane and slot. A seat-indexed transfer may use
the link of any other die of its unit. -/
def laneSlots (m : ByteMem) (core : Nat) (x : Move) : List Nat :=
  let s := (x.tick - 2048) / 64
  (linksOf x).flatMap (fun k =>
    let dies := if k.1 then [core / 64]
      else if x.seated then (List.range 4).filter (fun d => d != core / 64) else [(imgSlot m x.slot).peer]
    dies.map (fun d => ((d * 2 + (if k.2.1 then 1 else 0)) * 16 + x.lane) * 4096 + s + k.2.2))

/-- LANE_SLOT (R121). -/
def laneBad (m : ByteMem) (ps : List (Nat × Prog)) : Bool :=
  let l := ps.flatMap (fun p => (progMoves p.2).flatMap (laneSlots m p.1))
  l.any (fun n => decide (12 ≤ n / 4096 % 16) ||
    (decide (imgOrder m < 4) && decide (4 ^ imgOrder m ≤ (16 * (n / 4096 % 16) + n % 16) % 64))) ||
  repeats (sortBy id l)

/-- Whether R186 can apply to a trick: order 0 or 1, with a class-4 transfer or atomic. -/
def relocates (m : ByteMem) (t : Nat) : Bool := decide (imgOrder m ≤ 1) && (trickSegs m t).any (segFar m)

/-- FAR_BUDGET (R122, R187): class-4 transfers of each window, at every prefix. -/
def farBad (b : Block) (m : ByteMem) (t : Nat) (ps : List (Nat × Prog)) : Bool :=
  let f := farBudget b (imgOrder m)
  let ticks := ps.flatMap (fun p => ((progMoves p.2).filter (fun x => x.cls == 4)).map (fun x => x.tick))
  (List.range (if relocates m t then 16 else 1)).any (fun delta =>
    let us := ticks.map (fun x => min ((x + 64 * delta - 2048) / 4096) 29)
    (List.range 30).any (fun u => decide ((if u = 29 then f * 3144 / 4096 else f) < (us.filter (fun y => y == u)).length)))

/-! ## Semaphores (R124, R125) -/

/-- The semaphore operation of an issue. -/
def issueSem (core : Nat) (i : Issue) : Option SemOp :=
  match ctlOf (controlWord i.word) with
  | .semSignal s n => some ⟨i.tick, core, s, n, true⟩
  | .semWait s n => some ⟨i.tick, core, s, n, false⟩
  | _ => none

def trickSems (ps : List (Nat × Prog)) : List SemOp := ps.flatMap (fun p => p.2.issues.filterMap (issueSem p.1))

/-- The counts a deck's tricks leave before a trick. -/
def semsBefore (m : ByteMem) (first t : Nat) : List Nat :=
  (List.range 16).map (fun s => (semSum (((rangeFrom first (t - first)).flatMap (fun i => trickSems (indexed (trickProgs m i)))).filter
    (fun o => o.sem == s))).toNat)

/-- Counts at the start of a trick: zero in a sealed plan. -/
def semStart (m : ByteMem) (t : Nat) : List Nat :=
  if imgCarried m then semsBefore m ((decksOf m t).headD t) t else List.replicate 16 0

/-- SEMAPHORE: a wait that can be short, a true count below 0, or a count above 65,535, the true one or one that a core of the unit
sees. -/
def semBad (order : Nat) (start : List Nat) (ops : List SemOp) : Bool :=
  ops.any (fun o =>
    let s := start.getD o.sem 0
    (!o.signal && decide (semSeen ops s o.sem o.core o.tick < o.amount)) || decide (semTrue ops s o.sem o.tick < 0) ||
      decide (65535 < semTrue ops s o.sem o.tick) ||
      (o.signal && (List.range (4 ^ order)).any (fun c => decide (65535 < semSeen ops s o.sem c (o.tick + semLatency o.core c)))))

/-- Whether a trick is the last of a deck. -/
def lastOfDeck (m : ByteMem) (t : Nat) : Bool := (List.range 4).any (fun i => (imgPhase m i).2 != 0 && (imgPhase m i).1 + (imgPhase m i).2 == t + 1)

/-- SEM_LEFT: a semaphore not zero at the end of a sealed trick or of a carried deck. -/
def semLeft (m : ByteMem) (t : Nat) (start : List Nat) (ops : List SemOp) : Bool :=
  (!imgCarried m || lastOfDeck m t) &&
    (List.range 16).any (fun s => decide ((start.getD s 0 : Int) + semSum (ops.filter (fun o => o.sem == s)) ≠ 0))

/-! ## Completion and energy (R126 to R128, R165, R187) -/

/-- Ticks from a semaphore operation to the first at which every core of a unit sees it (R124). -/
def semReach (order : Nat) : Nat := if order = 0 then 1 else semLatency 0 (4 ^ order - 1)

/-- The last tick of a control operation (R114, R124, R126): a semaphore operation's is the one before all of the unit sees it. -/
def controlEnd (order : Nat) (i : Issue) : Nat :=
  match ctlOf (controlWord i.word) with
  | .semSignal _ _ => i.tick + semReach order - 1
  | .semWait _ _ => i.tick + semReach order - 1
  | .nop => 0
  | _ => i.tick

/-- LATE: an operation of a data slot, an engine or a control slot whose last effect falls after a tick. -/
def lateBad (order limit : Nat) (e : Option Engine) (p : Prog) : Bool :=
  p.lines.any (fun l => decide (limit < l.done - 1)) || (engineOps e p).any (fun x => decide (limit < x.1 + x.2.latency - 1)) ||
    p.issues.any (fun i => decide (limit < controlEnd order i))

/-- Bundles a segment issues, empty ones included. -/
def bundlesIssued (p : Prog) : Nat :=
  match p.fin with
  | .ended t => t - 2047
  | _ => p.issues.length

/-- The planned energy of a segment, in nJ. -/
def segEnergy (far : Bool) (e : Option Engine) (p : Prog) : Nat :=
  ceilDiv (bundlesIssued p * 32000 + (if far then 960 * 32000 else 0) + sum (p.lines.map (fun l => l.fj)) +
    5000 * (p.issues.filterMap (issueSem 0)).length + sum ((engineOps e p).map (fun x => x.2.energyFj))) 1000000

/-- ENERGY_FIELD. -/
def energyFieldBad (m : ByteMem) (t : Nat) (e : Option Engine) (ps : List Prog) : Bool :=
  ps.any (fun p => p.entry.energyNj != segEnergy (relocates m t) e p) || imgTrickEnergy m t != sum (ps.map (fun p => p.entry.energyNj))

/-! ## Live maps (R164, R177) -/

/-- The trick before one in its deck, of a carried plan. -/
def prevTrick (m : ByteMem) (t : Nat) : Option Nat := if imgCarried m ∧ (decksOf m t).headD t < t then some (t - 1) else none

/-- Lines of a core live before a trick. -/
def linesBefore (m : ByteMem) (t j : Nat) : Tab Nat :=
  match prevTrick m t with
  | some u => liveLines m u j
  | none => []

/-- A live bit for state neither written in the trick nor live before it. -/
def liveUnwritten (m : ByteMem) (t : Nat) (ps : List (Nat × Prog)) : Bool :=
  let bufs := (traces m t).map (fun s => s.bufs)
  ps.any (fun p =>
    let w := (followBytes (linesBefore m t p.1) p.2).1
    (List.range 256).any (fun i => liveTile m t p.1 i && (rangeFrom (64 * i) 64).any (fun n => tabGetD w n 0 != wholeLine)) ||
    (List.range 16).any (fun k => liveBuf m t p.1 k && bufs.any (fun s => (tabGet s (traceBuf p.1 k)).isNone)))

/-- LIVE_MAP. -/
def liveMapBad (m : ByteMem) (t : Nat) (ps : List (Nat × Prog)) : Bool :=
  imgLiveAt m t != 0 && (!imgCarried m || lastOfDeck m t || liveUnwritten m t ps)

/-! ## A trick (R175) -/

/-- Lines of the scratchpad, or of an engine's local store (R190). -/
def storeLines (e : Option Engine) : Int :=
  match e with
  | some x => x.localKib * 16
  | none => 16384

/-- The lowest trick-level reason that a trick fails. -/
def trickLevel (b : Block) (m : ByteMem) (t : Nat) : Option Nat :=
  let eng := if imgEngine m = 0 then none else engineOf b (imgEngine m)
  let galxia := imgEngine m == 0
  let ps := trickProgs m t
  let js := indexed ps
  let op := fun f => ps.any (fun p => anyOp (!galxia) p (f p.descs))
  let start := semStart m t
  let sems := trickSems js
  firstFail [
    (0x0101, ps.any (fun p => p.words.any (encodingBad (!galxia)))),
    (0x0102, ps.any (fun p => p.descs.any tableBad || p.words.any (fun w => (bundleOps (!galxia) w).any (descriptorBad p.descs)))),
    (0x0103, ps.any (fun p => p.words.any (fun w => (bundleOps (!galxia) w).any (privileged p.descs)))),
    (0x0104, ps.any (fun p => p.fin == .badLoop)),
    (0x0105, ps.any (fun p => p.fin == .past)),
    (0x0106, ps.any (fun p => decide (65536 < bodySize p.entry))),
    (0x0107, ps.any (fun p => p.lines.any (fun l => l.acc.any (fun a => decide (a.line < 0) || decide (storeLines eng ≤ a.line))))),
    (0x0108, galxia && op (fun ds _ d => formatBad ds d)),
    (0x0109, galxia && op (fun _ _ d => modeBad d)),
    (0x010A, op (fun ds o d => shapeBad ds o d)),
    (0x010B, galxia && (traces m t).any (fun s => s.exact)),
    (0x010C, galxia && (traces m t).any (fun s => s.state)),
    (0x010D, ps.any (occupancyBad eng)),
    (0x010E, galxia && ps.any bankBad),
    (0x010F, galxia && ps.any sameTickBad),
    (0x0110, galxia && ((traces m t).any (fun s => s.unwritten) || js.any (fun p => (followBytes (linesBefore m t p.1) p.2).2))),
    (0x0111, ps.any (fun p => inFlightBad (match eng with
      | some x => x.maxInFlight
      | none => 16) (progMoves p))),
    (0x0112, issueBad m js),
    (0x0113, laneBad m js),
    (0x0114, farBad b m t js),
    (0x0115, decide (imgOrder m < 4) && ps.any (fun p => (progMoves p).any (fun x => x.cls == 2 || x.cls == 3))),
    (0x0116, groupDieBad m || ps.any (fun p => (progMoves p).any (slotUseBad m))),
    (0x0117, op (fun _ _ d => seatBad m d)),
    (0x0118, semBad (imgOrder m) start sems),
    (0x0119, semLeft m t start sems),
    (0x011A, ps.any (lateBad (imgOrder m) (if relocates m t then 123015 else 123975) eng)),
    (0x011B, energyFieldBad m t eng ps),
    (0x011C, decide (unitBudget b (imgOrder m) < sum (ps.map (segEnergy (relocates m t) eng)))),
    (0x011D, liveMapBad m t js)]

end Sys2Proof.Machine
end

