-- ==== Sys2Proof/Machine/Plans.lean ====
section
/-!
DEFINITION. Plans: PLAN_LOAD, PLAN_UNLOAD and the verification stream of a function (R169 to R173), and STEP (R206).
-/

namespace Sys2Proof.Machine

open Sys2Proof

/-! ## PLAN_LOAD -/

/-- PLAN_LOAD (R169): its range is resolved, and it queues in its function's stream. -/
def doPlanLoad (q : QRef) (va : BitVec 64) (length : BitVec 32) (id : Nat) (b : Block) : Block :=
  match cmdTiles b q.tag.toNat id 0xF7 false va.toNat length.toNat with
  | .error e => onStop b id e
  | .ok l => setCmd (markResolved (setRefs b id (objectsOf l)) id) id (.planLoad va.toNat length.toNat (places l) [] 0 .queued)

/-- PLAN_LOAD. -/
def execPlanLoad (q : QRef) (h : Hdr) (va : BitVec 64) (length : BitVec 32) (s : State) : Host.Outcome State Fault Refusal :=
  onBlock (fetchPacket (.planLoad q h va length) q h 0x20 (doPlanLoad q va length)) s

/-! ## The plan store (R170) -/

/-- Tiles a PLAN_LOAD has reserved for its copy. -/
def loadTiles (c : Cmd) : Nat :=
  match c.stage with
  | .planLoad _ n _ _ _ st =>
    match st with
    | .queued => 0
    | .ending status _ _ => if status = stNoResource then 0 else storeTiles n
    | _ => storeTiles n
  | _ => 0

/-- Tiles of a partition's plan store that are taken: by its plans, by copies in progress, and by store space not yet zero
(R381). -/
def storeUsed (b : Block) (vf : Nat) (p : Part) : Nat :=
  sum ((b.ctxs.filter (fun e => e.2.fn == vf)).flatMap (fun e => e.2.plans.map (fun x => storeTiles x.2.length))) +
  sum ((b.dealer.cmds.filter (fun c => c.q.fn == vf)).map loadTiles) +
  sum ((p.zeroing.filter (fun r => r.ipa == (areaRange (areaOf p.desc 3)).ipa)).map (fun r => r.len / 4096))

/-- Whether an image fits the free part of the plan store. -/
def storeFits (b : Block) (vf : Nat) (p : Part) (n : Nat) : Bool := decide (storeUsed b vf p + storeTiles n ≤ (areaOf p.desc 3).tiles)

/-! ## The verification stream (R172) -/

/-- Bytes copied and hashed in a round. -/
def copyShare : Nat := 262144

/-- Rejection detail: the failing trick, and the reason (R169). -/
def rejectDetail (trick reason : Nat) : BitVec 32 := BitVec.ofNat 32 (trick * 65536 + reason)

/-- The tiles of a range of n bytes at a VA whose first byte of it lies in share k. -/
def shareTiles (va k : Nat) (l : List TilePlace) : List TilePlace :=
  l.filter (fun p => decide (copyShare * k ≤ p.va - va) && decide (p.va - va < copyShare * (k + 1)))

/-- The resource that stands for a tier in a charge. -/
def tierRes (tier : Nat) : Nat := if tier = tierHost then 0 else if tier = tierStack then 16 else if tier = tierGallery then 32 else 48

/-- The bytes of an image that a tile of its range holds: offset in the image, bytes. -/
def imagePart (va n : Nat) (p : TilePlace) (t : List Byte) : Nat × List Byte :=
  if va < p.va then (p.va - va, t.take (n - (p.va - va))) else (0, (t.drop (va - p.va)).take n)

/-- Tiles copied into the plan store and charged (R432); the error is the block as a tile that cannot be read leaves it, with the
status (R316). `errs` are the device tiles whose read an array reports on. -/
def copyTiles (tag va n store : Nat) (errs : List (Nat × ReadErr)) : List TilePlace → Block × ByteMem → Except (Block × BitVec 16) (Block × ByteMem)
  | [], s => .ok s
  | p :: l, s =>
    let b := notePlace errs s.1 p
    match readPlace b p with
    | .error st => .error (b, st)
    | .ok t =>
      let d := imagePart va n p t
      copyTiles tag va n store errs l (chargeMove (touchRead b p) tag [placeRes b p false, store], memWriteN s.2 d.1 d.2)

/-- The copy has ended and is hashed: an equal image that is sealed answers (R171), a full table refuses (R170). -/
def copyEnds (c : Ctx) (hash : BitVec 384) : PlanLoadStage :=
  match c.plans.find? (fun e => decide (e.2.state = .isSealed) && e.2.hash == hash) with
  | some e => .ending stOk (e.2.gen ++ BitVec.ofNat 8 e.1) false
  | none => if 256 ≤ c.plans.length then .ending stNoResource 0 false else .planChecks

/-- A round of the copy. -/
def copyRound (b : Block) (id tag va n k : Nat) (p : Part) (c : Ctx) (l : List TilePlace) (image : ByteMem)
    (errs : List (Nat × ReadErr)) : Block :=
  match copyTiles tag va n (tierRes (areaOf p.desc 3).tier) errs (shareTiles va k l) (b, image) with
  | .error e => finish e.1 id e.2 0
  | .ok s =>
    if n ≤ copyShare * (k + 1) then
      let hash := Config.sha384 (memReadN s.2 0 n)
      setCmd s.1 id (.planLoad va n [] s.2 hash (copyEnds c hash))
    else setCmd s.1 id (.planLoad va n l s.2 0 (.copying (k + 1)))

/-- The plan-level and load-level checks (R175). -/
def planChecks (b : Block) (p : Part) (c : Ctx) (image : ByteMem) (n : Nat) : PlanLoadStage :=
  match planLevel b image n with
  | some r => .ending stPlanRejected (rejectDetail 0xFFFF r) false
  | none =>
    match loadLevel b p c image with
    | some r => .ending stPlanRejected (rejectDetail 0xFFFF r) false
    | none => .segments 0

/-- Four more segment entries, the checks of a trick running with its last one. -/
def segmentRound (b : Block) (image : ByteMem) (done : Nat) : PlanLoadStage :=
  let per := 4 ^ imgOrder image
  let all := imgTricks image * per
  let m := min all (done + 4)
  let tricks := rangeFrom (done / per) (m / per - done / per)
  match tricks.findSome? (fun t => (trickLevel b image t).map (fun r => (t, r))) with
  | some (t, r) => .ending stPlanRejected (rejectDetail t r) false
  | none => if m = all then .ending stOk 0 true else .segments m

/-- A verified plan sealed under a new handle, at the lowest free index (R170). -/
def sealPlan (b : Block) (id vf tag n : Nat) (p : Part) (c : Ctx) (image : ByteMem) (hash : BitVec 384) : Block :=
  let i := lowestFree c.plans 0
  let gen := nextGen (tabGetD p.planGens (tag * 256 + i) 0)
  let b1 := modPart b vf (fun x => { x with planGens := tabSet x.planGens (tag * 256 + i) gen })
  let b2 := modCtx b1 tag (fun x => { x with plans := tabSet x.plans i ⟨gen, .isSealed, image, n, hash⟩ })
  finish b2 id stOk (gen ++ BitVec.ofNat 8 i)

/-- One round of a PLAN_LOAD. -/
def verifyCmd (b : Block) (k : Cmd) (errs : List (Nat × ReadErr)) : Block :=
  match k.stage, partAt b k.q.fn, ctxAt b k.q.tag.toNat with
  | .planLoad va n l image hash st, some p, some c =>
    let put := fun x => setCmd b k.id (.planLoad va n l image hash x)
    match st with
    | .queued =>
      if !storeFits b k.q.fn p n then setCmd b k.id (.planLoad va n [] [] 0 (.ending stNoResource 0 false))
      else if n = 0 then
        let e := copyEnds c (Config.sha384 [])
        setCmd b k.id (.planLoad va 0 [] [] (Config.sha384 []) (if e = .planChecks then planChecks b p c [] 0 else e))
      else copyRound b k.id k.q.tag.toNat va n 0 p c l [] errs
    | .copying i => copyRound b k.id k.q.tag.toNat va n i p c l image errs
    | .planChecks => put (planChecks b p c image n)
    | .segments done => put (segmentRound b image done)
    | .ending code detail sealing =>
      if 2047 < b.tb.tick then b
      else if sealing then sealPlan b k.id k.q.fn k.q.tag.toNat n p c image hash
      else finish b k.id code detail
  | _, _, _ => b

/-- Whether a command is a PLAN_LOAD of a function that has yet to end. -/
def inStream (fn : Nat) (c : Cmd) : Bool := c.q.fn == fn && isLoad c

/-- Whether a PLAN_LOAD's work has begun. -/
def inWork (c : Cmd) : Bool :=
  match c.stage with
  | .planLoad _ _ _ _ _ st => decide (st ≠ .queued)
  | _ => false

/-- The PLAN_LOAD a stream serves: the one in work, or the first fetched, which the first round boundary starts that follows its
fetch and the end of the load before it. -/
def streamHead (b : Block) (fn : Nat) : Option Cmd :=
  match b.dealer.cmds.find? (fun c => inStream fn c && inWork c) with
  | some c => some c
  | none =>
    match b.dealer.cmds.find? (inStream fn) with
    | some c =>
      if c.fetchedAt.toNat < (mkStamp b.tb.epoch b.tb.round 0).toNat ∧ (fnAt b fn).loadEnded ≠ some (roundCount b.tb) then some c
      else none
    | none => none

/-- PLAN_VERIFY_ROUND: the share of a function's stream in a round. The stream of a FROZEN function rests (R356). -/
def planVerifyRound (fn : Nat) (errs : List (Nat × ReadErr)) (b : Block) : Block :=
  if alive b && ticking b && b.tb.boundaryDone && decide (fn < 64) && (fnAt b fn).state != .frozen &&
      (fnAt b fn).lastVerify != some (roundCount b.tb) then
    match streamHead b fn with
    | none => b
    | some c => verifyCmd (modFn b fn (fun x => { x with lastVerify := some (roundCount b.tb) })) c errs
  else b

/-- PLAN_VERIFY_ROUND. -/
def execPlanVerifyRound (fn : Nat) (errs : List (Nat × ReadErr)) (s : State) : Host.Outcome State Fault Refusal :=
  onBlock (planVerifyRound fn errs) s

/-! ## PLAN_UNLOAD and STEP -/

/-- PLAN_UNLOAD (R173): the plan is dying, and is freed when the last step fetched before retires. -/
def doPlanUnload (q : QRef) (handle : BitVec 32) (id : Nat) (b : Block) : Block :=
  match ctxAt b q.tag.toNat with
  | none => finish b id stInvalidField 0
  | some c =>
    match planAt c handle with
    | none => finish b id stInvalidField 0
    | some pl =>
      if pl.state = .dying then finish b id stInvalidField 0
      else
        let i := handle.toNat % 256
        setCmd (modCtx b q.tag.toNat (fun x => { x with plans := tabMod x.plans i (fun y => { y with state := .dying }) })) id (.planUnload i)

/-- PLAN_UNLOAD. -/
def execPlanUnload (q : QRef) (h : Hdr) (handle : BitVec 32) (s : State) : Host.Outcome State Fault Refusal :=
  onBlock (fun b => settle (fetchPacket (.planUnload q h handle) q h 0x21 (doPlanUnload q handle) b)) s

/-- STEP. -/
def execStepCmd (q : QRef) (h : Hdr) (plan : BitVec 32) (phase view : BitVec 8) (bindingVa : BitVec 64) (s : State) :
    Host.Outcome State Fault Refusal :=
  onBlock (fun b => settle (fetchPacket (.stepCmd q h plan phase view bindingVa) q h 0x22 (doStep q h plan phase view bindingVa) b)) s

end Sys2Proof.Machine
end

