-- ==== Sys2Proof/Machine/Partitions.lean ====
section
/-!
DEFINITION. Partitions: their descriptors (R338, R339), PART_CREATE (R340 to R342), PART_DESTROY (R355), PART_FREEZE and
CALENDAR_SET (R344, R356).
-/

namespace Sys2Proof.Machine

open Sys2Proof

/-! ## The descriptor (R338, R339) -/

def areaAt (bs : List Byte) (i : Nat) : Area :=
  let a := 0x70 + 16 * i
  ⟨leAt bs a 1, leAt bs (a + 4) 4, leAt bs (a + 8) 4⟩

/-- The fields of a partition descriptor's 256 bytes. -/
def partDesc (bs : List Byte) : PartDesc :=
  { isSealed := bit (leAt bs 6 1) 0, pooling := bit (leAt bs 6 1) 1, galleryCache := bit (leAt bs 6 1) 2
    diagnostic := bit (leAt bs 6 1) 3, quads := maskBits 256 (leAt bs 0x08 32), stackFirst := leAt bs 0x28 1
    stackDies := leAt bs 0x29 1, stackGranule := leAt bs 0x2A 2, stackGib := leAt bs 0x2C 2
    galleryFirst := leAt bs 0x2E 1, galleryDies := leAt bs 0x2F 1, galleryOffset := leAt bs 0x30 2
    galleryMib := leAt bs 0x32 2, farFirst := leAt bs 0x34 1, farChannels := leAt bs 0x35 1, farGranule := leAt bs 0x36 2
    farGib := leAt bs 0x38 2, farShare := (List.range 16).map (fun c => leAt bs (0x40 + c) 1)
    moverMask := BitVec.ofNat 16 (leAt bs 0x50 2), tagFirst := leAt bs 0x52 2, tagCount := leAt bs 0x54 2
    seqBase := leAt bs 0x56 2, seqCount := leAt bs 0x58 2, adapterBase := leAt bs 0x5A 2, adapterCount := leAt bs 0x5C 2
    residentContexts := leAt bs 0x5E 1, l2Entries := leAt bs 0x60 2, hostPins := leAt bs 0x62 2
    maxContexts := leAt bs 0x64 4, baseSet := BitVec.ofNat 32 (leAt bs 0x68 4), areas := (List.range 5).map (areaAt bs)
    raw := bs }

/-- Constants and reserved bytes of a descriptor. -/
def descFixed (bs : List Byte) : Bool :=
  leAt bs 0 4 == 0x54524150 && leAt bs 4 2 == 0x0100 && leAt bs 6 1 / 16 == 0 && leAt bs 7 1 == 0 && leAt bs 0x3A 6 == 0 &&
  leAt bs 0x5F 1 == 0 && leAt bs 0x6C 4 == 0 && leAt bs 0xC0 64 == 0 &&
  (List.range 5).all (fun i => leAt bs (0x71 + 16 * i) 3 == 0 && leAt bs (0x7C + 16 * i) 4 == 0)

/-- Whether a quad is present in the build. -/
def quadHere (b : Block) (q : Nat) : Bool := (rangeFrom (4 * q) 4).any (coreExists b)

/-- Whether the stack carve-out lies in the build. -/
def stackOk (b : Block) (d : PartDesc) : Bool :=
  decide (d.stackDies ≤ 12) && (rangeFrom d.stackFirst d.stackDies).all (stackHere b) && decide (d.stackGranule ≤ 63) &&
  (if d.stackDies = 0 then d.stackGib == 0 else decide (1 ≤ d.stackGib) && decide (d.stackGranule + d.stackGib ≤ 64))

/-- Whether the Gallery carve-out lies in the build. -/
def galleryOk (b : Block) (d : PartDesc) : Bool :=
  decide (d.galleryDies ≤ 12) && (rangeFrom d.galleryFirst d.galleryDies).all (galleryHere b) &&
  (if d.galleryDies = 0 then d.galleryMib == 0
   else decide (1 ≤ d.galleryMib) && decide (d.galleryOffset + d.galleryMib ≤ (bld b).galleryMib))

/-- Whether the far carve-out lies in the build, its reserve left out (R306), with its shares (R323). -/
def farOk (b : Block) (d : PartDesc) : Bool :=
  let chans := rangeFrom d.farFirst d.farChannels
  decide (d.farChannels ≤ 16) && chans.all (farHere b) &&
  (d.farChannels == 0 || decide (d.farGranule + d.farGib ≤ farGranules b)) &&
  (List.range 16).all (fun c =>
    let k := d.farShare.getD c 0
    decide (k ≤ 60) && (k == 0 || chans.contains c))

/-- Ranges of the contexts, sequences, adapters and slots of a descriptor. -/
def sharesOk (d : PartDesc) : Bool :=
  decide (1 ≤ d.tagFirst) && decide (1 ≤ d.tagCount) && decide (d.tagFirst + d.tagCount ≤ 65536) &&
  decide (d.seqBase + d.seqCount ≤ 16384) && decide (d.adapterBase + d.adapterCount ≤ 1024) &&
  decide (1 ≤ d.residentContexts) && decide (d.residentContexts ≤ 48) && decide (1 ≤ d.maxContexts) &&
  decide (d.maxContexts ≤ d.tagCount)

/-- Tiers a system area may lie in (R339). -/
def areaTiers (b : Block) (i : Nat) : List Nat :=
  if i = 0 then (if (bld b).stackMask = 0 then [tierFar, tierStack, tierGallery] else [tierStack, tierGallery])
  else if i = 4 then [tierFar]
  else [tierFar, tierStack, tierGallery]

/-- Fewest tiles of a system area. -/
def areaLeast (d : PartDesc) (i : Nat) : Nat :=
  if i = 0 then 1088 else if i = 1 then ceilDiv d.maxContexts 4 else if i = 2 then d.maxContexts else if i = 3 then 16 else 0

/-- Whether one system area keeps R339; a Gallery carve-out in cache mode has no room for one. -/
def areaOk (b : Block) (d : PartDesc) (i : Nat) : Bool :=
  let a := areaOf d i
  (areaTiers b i).contains a.tier && decide (areaLeast d i ≤ a.tiles) && (i != 0 || a.tiles == 1088) &&
  decide ((a.offsetTiles + a.tiles) * 4096 ≤ carveSize d a.tier) &&
  (List.range i).all (fun j => !(meets (areaRange (areaOf d j)) (areaRange a).ipa (areaRange a).len))

/-- Whether a descriptor's base set is none or READY. -/
def descBaseOk (b : Block) (d : PartDesc) : Bool :=
  d.baseSet == 0 ||
    match baseAt b d.baseSet with
    | some s => s.state == .ready
    | none => false

/-- Check 3 of R341. -/
def descOk (b : Block) (bs : List Byte) : Bool :=
  let d := partDesc bs
  descFixed bs && d.quads.all (quadHere b) && stackOk b d && galleryOk b d && farOk b d && sharesOk d &&
  (List.range 5).all (areaOk b d) && decide (1 ≤ d.stackDies * d.stackGib + d.farChannels * d.farGib) && descBaseOk b d

/-! ## The pool (R341) -/

/-- Dies that hold a quad of a partition. -/
def partDies (d : PartDesc) : List Nat := ((d.quads.filter (fun q => q < 192)).map (fun q => q / 16)).eraseDups

/-- Whether two partitions' ranges and slots can stand side by side. -/
def apart (d e : PartDesc) : Bool :=
  !overlap d.tagFirst d.tagCount e.tagFirst e.tagCount && !overlap d.seqBase d.seqCount e.seqBase e.seqCount &&
  !overlap d.adapterBase d.adapterCount e.adapterBase e.adapterCount && (d.moverMask &&& e.moverMask) == 0 &&
  (!(d.isSealed || e.isSealed) || d.quads.all (fun q => !e.quads.contains q))

/-- Whether the granules a descriptor names are free. -/
def granulesFree (b : Block) (d : PartDesc) : Bool :=
  (rangeFrom d.stackFirst d.stackDies).all (fun k => freeRun (stackHeld b k) d.stackGranule d.stackGib) &&
  (rangeFrom d.galleryFirst d.galleryDies).all (fun k => freeRun (galleryHeld b k) d.galleryOffset d.galleryMib) &&
  (rangeFrom d.farFirst d.farChannels).all (fun c => freeRun (farHeld b c) d.farGranule d.farGib)

/-- Check 4 of R341. -/
def poolOk (b : Block) (d : PartDesc) : Bool :=
  let others := b.parts.map (fun e => e.2.desc)
  let all := d :: others
  granulesFree b d && others.all (apart d) && decide (sum (all.map (fun e => e.residentContexts)) ≤ 48) &&
  decide (sum (all.map (fun e => e.hostPins)) ≤ 4096) &&
  (List.range 12).all (fun k => decide (sum ((all.filter (fun e => (partDies e).contains k)).map (fun e => e.l2Entries)) ≤ 3840)) &&
  (List.range 16).all (fun c => decide (sum (all.map (fun e => e.farShare.getD c 0)) ≤ 60))

/-- Whether a VF number exists in the build (R336). -/
def vfExists (b : Block) (vf : Nat) : Bool := decide (1 ≤ vf) && decide (vf < (bld b).maxFunctions)

/-- Whether a descriptor's Gallery carve-out reaches Lantern's active buffer (R427, R441). -/
def meetsLantern (b : Block) (d : PartDesc) : Bool :=
  let l := b.lantern
  (l.enable || l.dumping) && decide (d.galleryFirst ≤ l.die.toNat) && decide (l.die.toNat < d.galleryFirst + d.galleryDies) &&
  overlap d.galleryOffset d.galleryMib l.offsetMib.toNat l.sizeMib.toNat

/-- Records of an earlier recording that a new partition's carve-outs reach are gone (R444). -/
def wipeMet (b : Block) (d : PartDesc) : Block :=
  if (carveRanges d).any (fun r => overlap r.1 r.2 b.lantern.held.1 (4096 * b.lantern.held.2)) then ltWipe b else b

/-! ## PART_CREATE -/

/-- A device-bound, writable stage-2 entry (R282); none of no repeats or no length. -/
def carveEntry (ipa reps lengthMib out strideMib : Nat) : RangeEntry :=
  if reps = 0 ∨ lengthMib = 0 then s2None
  else ⟨BitVec.ofNat 64 (0xC * 2 ^ 60 + (reps - 1) * 2 ^ 56 + ipa + lengthMib),
        BitVec.ofNat 64 (out + if reps = 1 then 0 else strideMib)⟩

/-- Stage-2 entries 0 to 3 of a partition (R340). -/
def carveEntries (d : PartDesc) : Tab RangeEntry :=
  let farLen := d.farGib * 1024
  let e0 := carveEntry 0 d.stackDies (d.stackGib * 1024) (stackBase d.stackFirst + d.stackGranule * gib) 65536
  let e1 := carveEntry (carveBase tierGallery) (if d.galleryCache then 0 else d.galleryDies) d.galleryMib
    (galleryBase d.galleryFirst + d.galleryOffset * mib) 256
  let e2 := carveEntry (carveBase tierFar) (min 12 d.farChannels) farLen (farBase d.farFirst + d.farGranule * gib) 65536
  let e3 := carveEntry (carveBase tierFar + 12 * d.farGib * gib) (d.farChannels - 12) farLen
    (farBase (d.farFirst + 12) + d.farGranule * gib) 65536
  ([e0, e1, e2, e3].zipIdx).foldl (fun t e => tabSetD t e.2 e.1 s2None) []

/-- A partition just cut from the pool. -/
def newPart (d : PartDesc) : Part :=
  { desc := d, stage2 := carveEntries d, objects := [], objectGens := [], planGens := [], zeroing := [], faults := 0
    restrained := false, totals := Counters.zero, ending := none }

/-- The staged calendar with the tables of quads written. -/
def stageQuad (t : Tab (BitVec 6)) (quad : Nat) (owners : List (BitVec 6)) : Tab (BitVec 6) :=
  (owners.zipIdx).foldl (fun u e => tabSetD u (quad * 1000 + e.2) e.1 0) t

def setStaged (b : Block) (t : Tab (BitVec 6)) : Block := { b with cal := { b.cal with staged := t } }

/-- A sealed partition's number in every staged entry of its quads (R342, R343). -/
def stageSealed (b : Block) (vf : Nat) (d : PartDesc) : Block :=
  if d.isSealed then
    setStaged b (d.quads.foldl (fun t q => stageQuad t q (List.replicate 1000 (BitVec.ofNat 6 vf))) b.cal.staged)
  else b

/-- A partition made: resources, stage 2, far key, zeroed carve-outs, calendar and capability table (R342, R373). -/
def makePart (b : Block) (vf : Nat) (d : PartDesc) : Block :=
  let p := newPart d
  let b1 := zeroCarve (newFarKey (wipeMet { b with parts := tabSet b.parts vf p } d) vf) d
  let b2 := stageSealed b1 vf d
  let b3 := { b2 with grotto := { b2.grotto with tdisp := tabSet b2.grotto.tdisp vf ⟨.unlocked, 0, []⟩ } }
  modFn b3 vf (fun x => aqReset { x with cap := capOfPart b3 vf p })

/-- What PART_CREATE makes of its descriptor's bytes: checks 3 and 4 of R341, then the active trace buffer (R427). -/
def createFrom (v : Nat) (raw : List Byte) (id : Nat) (b : Block) : Block :=
  let d := partDesc raw
  if !descOk b raw then finish b id stInvalidField 0
  else if !poolOk b d then finish b id stNoResource 0
  else if meetsLantern b d then finish b id stResourceConflict 0
  else finish (setFnState (makePart b v d) v .ready) id stOk (BitVec.ofNat 32 v)

/-- PART_CREATE (R341, R342, R427). -/
def doPartCreate (vf : BitVec 8) (descriptor : BitVec 64) (id : Nat) (b : Block) : Block :=
  let v := vf.toNat
  if !vfExists b v then finish b id stInvalidField 0
  else if (fnAt b v).state ≠ .absent then finish b id stBusy 0
  else createFrom v (hostRead b descriptor.toNat 256) id (hostAsk descriptor.toNat 256 b)

/-- PART_CREATE. -/
def execPartCreate (q : QRef) (h : Hdr) (vf : BitVec 8) (descriptor : BitVec 64) (s : State) : Host.Outcome State Fault Refusal :=
  onBlock (fetchPacket (.partCreate q h vf descriptor) q h 0x80 (doPartCreate vf descriptor)) s

/-! ## Stopping a function's work (R347, R355) -/

/-- The stage of a command that is to end without a record; a STEP ends with its step. -/
def dropStage : CmdStage → CmdStage
  | .done st d => .done st d
  | .step id => .step id
  | _ => .done stAborted 0

/-- Commands that end without records. -/
def suppressCmds (b : Block) (p : Cmd → Bool) : Block :=
  modDealer b (fun d => { d with cmds := d.cmds.map (fun c => if p c then { c with suppressed := true, stage := dropStage c.stage } else c) })

/-- A function's commands end without records. -/
def suppressFn (b : Block) (fn : Nat) : Block := suppressCmds b (fun c => c.q.fn == fn)

/-- Every context of a function aborted under stages 2 and 3 of R258; held deals are released. -/
def abortCtxs (b : Block) (fn : Nat) : Block := (ctxsOf b fn).foldl (fun c t => abortCtx c (BitVec.ofNat 16 t) stAborted) b

/-- The contexts of a function aborted, and no command of it recorded. -/
def abortFn (b : Block) (fn : Nat) : Block := abortCtxs (suppressFn b fn) fn

/-! ## PART_DESTROY -/

/-- Stages 1 and 3 of R355; a STOP scrub under way ends without its interface (R391). -/
def startDestroy (b : Block) (vf id : Nat) : Block :=
  match partAt b vf with
  | none => b
  | some p =>
    let b1 := if p.ending = some (.scrub true) then grReply b 0 .tdispAbsent else b
    let b2 := modPart (abortFn b1 vf) vf (fun q => { q with ending := some (.destroy id false) })
    startInval b2 (.partDestroy vf) (.part vf) false

/-- PART_DESTROY (R355). -/
def doPartDestroy (vf : BitVec 8) (id : Nat) (b : Block) : Block :=
  if !vfExists b vf.toNat || (fnAt b vf.toNat).state == .absent then finish b id stInvalidField 0
  else startDestroy (setCmd b id .destroying) vf.toNat id

/-- PART_DESTROY. -/
def execPartDestroy (q : QRef) (h : Hdr) (vf : BitVec 8) (s : State) : Host.Outcome State Fault Refusal :=
  onBlock (fun b => settle (fetchPacket (.partDestroy q h vf) q h 0x81 (doPartDestroy vf) b)) s

/-- The Grotto forgets a partition: keys, session, device interface (R361, R373, R380). -/
def forgetKeys (b : Block) (vf : Nat) : Block :=
  let g := b.grotto
  { b with grotto := { g with farKeys := tabDel g.farKeys vf, sessionKeys := tabDel g.sessionKeys vf
                              migrationKeys := tabDel g.migrationKeys vf, lastNonce := tabDel g.lastNonce vf
                              cipherKeys := tabDel g.cipherKeys vf, sessions := tabDel g.sessions vf
                              negotiated := tabDel g.negotiated vf, tdisp := tabDel g.tdisp vf } }

/-- A partition leaves the pool: the Dealer's share and the buffers are cleared, its resources returned, its function ABSENT
with its BAR0 fields at their reset values (R355, R380, R444, R468). -/
def removePart (b : Block) (vf : Nat) (p : Part) : Block :=
  let d := p.desc
  let b1 := (ctxsOf b vf).foldl (fun c t => delCtx (stripCtx c t) t) b
  let b2 := forgetKeys b1 vf
  let b3 := modDealer b2 (fun x => { x with seqs := tabClear x.seqs d.seqBase d.seqCount, adapters := tabClear x.adapters d.adapterBase d.adapterCount
                                            steps := x.steps.filter (fun s => s.fn != vf), cmds := x.cmds.filter (fun c => c.q.fn != vf) })
  let b4 := { b3 with xlat := { b3.xlat with l2 := b3.xlat.l2.filter (fun e => e.vf != vf) } }
  let totals := match partAt b4 vf with
    | some q => q.totals
    | none => Counters.zero
  let b5 := { b4 with acct := { b4.acct with destroyedParts := b4.acct.destroyedParts ++ [(vf, d.diagnostic, totals)] } }
  let b6 := if d.diagnostic && b5.lantern.vfs.contains vf then ltClear b5 else b5
  { b6 with parts := tabDel b6.parts vf, fns := tabDel b6.fns vf }

/-- Stages 4 to 6 of R355, once the partition's invalidation is complete; a DEBUG_UNLOCK leaves the zeroing to its own
stage 2 (R386). -/
def partEnds (b : Block) (vf : Nat) : Block :=
  match partAt b vf with
  | none => b
  | some p =>
    match p.ending with
    | some (.destroy id _) =>
      let keep := b.dealer.cmds.any (fun c => c.id == id && c.stage == .unlocking false)
      let b1 := removePart (if keep then b else zeroCarve b p.desc) vf p
      if keep then b1 else finish b1 id stOk 0
    | _ => b

/-! ## What far devices hold (R322) -/

/-- The key of a far sector: that of the partition whose carve-out it lies in, or the block's. -/
def farKeyAt (b : Block) (pa : Nat) : Option (BitVec 512) :=
  match b.parts.find? (fun e => (carveRanges e.2.desc).any (fun r => decide (r.1 ≤ pa) && decide (pa < r.1 + r.2))) with
  | some e => tabGet b.grotto.farKeys e.1
  | none => b.grotto.blockFarKey

/-- A 256-byte far sector as its device holds it. The model's own bytes are the plaintext (log entry 28). -/
def farStored (b : Block) (pa : Nat) : List Byte :=
  let sector := pa / 256
  let plain := memReadN b.mem.bytes (256 * sector) 256
  match farKeyAt b pa with
  | some k => Config.xts k (BitVec.ofNat 128 sector) plain
  | none => plain

/-! ## PART_FREEZE (R337, R356) -/

/-- The PLAN_LOADs of a function in work restart from their copy after the thaw. -/
def restLoads (b : Block) (fn : Nat) : Block :=
  modDealer b (fun d => { d with cmds := d.cmds.map (fun c =>
                                match c.stage with
                                | .planLoad _ _ _ _ _ _ => if c.q.fn = fn then { c with stage := .waiting } else c
                                | _ => c) })

/-- PART_FREEZE: it completes once the partition has come to rest. -/
def doPartFreeze (vf : BitVec 8) (id : Nat) (b : Block) : Block :=
  let v := vf.toNat
  if !vfExists b v then finish b id stInvalidField 0
  else if (fnAt b v).state = .frozen then finish b id stBusy 0
  else if (fnAt b v).state ≠ .running then finish b id stInvalidField 0
  else setCmd (tdispError (restLoads (abandonWalks (setFnState b v .frozen) v) v) v) id (.freezing v)

/-- PART_FREEZE. -/
def execPartFreeze (q : QRef) (h : Hdr) (vf : BitVec 8) (s : State) : Host.Outcome State Fault Refusal :=
  onBlock (fetchPacket (.partFreeze q h vf) q h 0x82 (doPartFreeze vf)) s

/-! ## CALENDAR_SET (R146, R344) -/

/-- The entries of one quad in the table a CALENDAR_SET names. -/
def tableEntries (bs : List Byte) (i : Nat) : List Nat := (List.range 1000).map (fun j => leAt bs (2000 * i + 2 * j) 2)

/-- Whether an entry keeps R146 and R344: no owner or a holder of the quad, and in a sealed partition's quad that partition. -/
def entryOk (b : Block) (quad e : Nat) : Bool :=
  decide (e < 64) &&
  (e == 0 || (match partAt b e with
    | some p => p.desc.quads.contains quad
    | none => false)) &&
  b.parts.all (fun x => !(x.2.desc.isSealed && x.2.desc.quads.contains quad) || x.1 == e)

/-- CALENDAR_SET. -/
def doCalendarSet (firstQuad quads : BitVec 16) (table : BitVec 64) (id : Nat) (b0 : Block) : Block :=
  let n := quads.toNat
  let b := hostAsk table.toNat (2000 * n) b0
  let bs := hostRead b table.toNat (2000 * n)
  let tables := (List.range n).map (fun i => (firstQuad.toNat + i, tableEntries bs i))
  if tables.all (fun t => quadHere b t.1 && t.2.all (entryOk b t.1)) then
    finish (setStaged b (tables.foldl (fun c t => stageQuad c t.1 (t.2.map (BitVec.ofNat 6))) b.cal.staged)) id stOk 0
  else finish b id stInvalidField 0

/-- CALENDAR_SET. -/
def execCalendarSet (q : QRef) (h : Hdr) (firstQuad quads : BitVec 16) (table : BitVec 64) (s : State) :
    Host.Outcome State Fault Refusal :=
  onBlock (fetchPacket (.calendarSet q h firstQuad quads table) q h 0x88 (doCalendarSet firstQuad quads table)) s

end Sys2Proof.Machine
end

