-- ==== Sys2Proof/Machine/Unlock.lean ====
section
/-!
DEFINITION. DEBUG_UNLOCK (R386), and what it shares with DECOMMISSION (R388).
-/

namespace Sys2Proof.Machine

open Sys2Proof

/-! ## Stages of R386 -/

/-- Every byte of the stacks, the Gallery and far memory zeroed, far reserves included (R386 stage 2). -/
def zeroAll (b : Block) : Block := modMem b (fun m => { m with bytes := [], tiles := [], cache := [] })

/-- Stage 2: every base set is released and all memory zeroed; Lantern is disabled (R444). -/
def unlockMemory (b : Block) : Block := zeroAll (modDealer (ltClear b) (fun d => { d with bases := [] }))

/-- A presence grant used up (R385). -/
def useGrant (b : Block) : Block := { b with grotto := { b.grotto with grant := false } }

/-- A DEBUG_UNLOCK whose partitions are all gone begins stage 2. -/
def unlockEnds (b : Block) : Block :=
  match b.dealer.cmds.find? (fun c => c.stage == .unlocking false) with
  | none => b
  | some c => if b.parts.isEmpty then setCmd (unlockMemory b) c.id (.unlocking true) else b

/-- DEBUG_UNLOCK: stage 1 begins for every partition at once. -/
def doDebugUnlock (id : Nat) (b : Block) : Block :=
  if !(b.grotto.cable && b.grotto.grant) then finish b id stNotPermitted 0
  else if b.grotto.debugState = 0x01 then finish b id stOk 0
  else
    let b1 := setCmd (useGrant { b with grotto := { b.grotto with unlocking := true } }) id (.unlocking false)
    unlockEnds ((b1.parts.map (fun e => e.1)).foldl (fun c vf => startDestroy c vf id) b1)

/-- DEBUG_UNLOCK. -/
def execDebugUnlock (q : QRef) (h : Hdr) (s : State) : Host.Outcome State Fault Refusal :=
  onBlock (fun b => settle (fetchPacket (.debugUnlock q h) q h 0x98 doDebugUnlock b)) s

end Sys2Proof.Machine
end

