-- ==== Sys2Proof/Machine/Packets.lean ====
section
/-!
DEFINITION. Commands that run again from their packets: those that waited for an invalidation (R297) or rested in a frozen
partition (R356, R360), and PART_THAW.
-/

namespace Sys2Proof.Machine

open Sys2Proof

/-- The own work of a context's command, from its packet. -/
def guestPacket (i : Instr) (id : Nat) (b : Block) : Block :=
  match i with
  | .nop _ _ => doNop id b
  | .memMap q _ va bytes handle tier attrs page access off backing =>
    doMemMap q va bytes handle tier attrs page access off backing id b
  | .memUnmap q _ va bytes => doMemUnmap q va bytes id b
  | .memCopy q _ src dst bytes => doMemCopy q src dst bytes id b
  | .memFill q _ dst bytes pattern => doMemFill q dst bytes pattern id b
  | .memImport q _ src dst bytes formats flags => doMemImport q src dst bytes formats flags id b
  | .memFree q _ handle => doMemFree q handle id b
  | .planLoad q _ va length => doPlanLoad q va length id b
  | .planUnload q _ handle => doPlanUnload q handle id b
  | .stepCmd q h plan phase view bindingVa => doStep q h plan phase view bindingVa id b
  | .seqOpen q _ f => doSeqOpen q f id b
  | .seqClose q _ handle => doSeqClose q handle id b
  | .seqUpdate q _ f mask handle => doSeqUpdate q f mask handle id b
  | .adapterBind q _ va tiles flags => doAdapterBind q va tiles flags id b
  | .adapterRelease q _ handle => doAdapterRelease q handle id b
  | .fenceSignal q _ fence value => doFenceSignal q fence value id b
  | .fenceWait q _ fence value => doFenceWait q fence value id b
  | .query q _ kind resultVa => doQuery q kind resultVa id b
  | _ => b

/-- Whether a waiting command may run again now: a PLAN_LOAD of a frozen partition rests (R356). -/
def mayRetry (b : Block) (c : Cmd) : Bool :=
  c.stage == .waiting && !(c.opcode == 0x20 && (fnAt b c.q.fn).state == .frozen)

/-- Waiting commands run again, in fetch order; one that still meets an invalidation waits on. -/
def retryWaiting (b : Block) : Block :=
  (b.dealer.cmds.filter (mayRetry b)).foldl (fun c k => guestPacket k.packet k.id c) b

/-- A pending command processed again at a thaw: a FENCE_WAIT of the function reads its record, any other that waits runs again. -/
def thawCmd (fn : Nat) (b : Block) (k : Cmd) : Block :=
  match k.stage with
  | .fenceWait a _ => if k.q.fn = fn then evalWaits (hostAsk a 8 b) fn a else b
  | _ => if mayRetry b k then guestPacket k.packet k.id b else b

/-- PART_THAW (R360): what rested is taken up again in fetch order, ahead of new fetches. -/
def doPartThaw (vf : BitVec 8) (id : Nat) (b : Block) : Block :=
  if !vfExists b vf.toNat then finish b id stInvalidField 0
  else if (fnAt b vf.toNat).state ≠ .frozen then finish b id stNotPermitted 0
  else
    let b1 := finish (setFnState b vf.toNat .running) id stOk 0
    b1.dealer.cmds.foldl (thawCmd vf.toNat) b1

/-- PART_THAW. -/
def execPartThaw (q : QRef) (h : Hdr) (vf : BitVec 8) (s : State) : Host.Outcome State Fault Refusal :=
  onBlock (fun b => settle (fetchPacket (.partThaw q h vf) q h 0x85 (doPartThaw vf) b)) s

end Sys2Proof.Machine
end

