-- ==== Sys2Proof/Machine/Migration.lean ====
section
/-!
DEFINITION. Migration: the image of a partition (R357), PART_SAVE and PART_RESTORE (R357 to R359).
-/

namespace Sys2Proof.Machine

open Sys2Proof

/-! ## What the sections hold (R357) -/

/-- Section 2: admin queue registers with their positions, FE_INT_MASK and enable. -/
structure SavedFn where
  enable : Bool
  intMask : BitVec 11
  aqLevel : BitVec 4
  aqCqLog2 : BitVec 4
  aqSqLog2 : BitVec 4
  aqSqBase : BitVec 64
  aqCqBase : BitVec 64
  sqHead : Nat
  sqTail : Nat
  cqHead : Nat
  cqTail : Nat
  cqPhase : Bool
  cqArmed : Bool
  cqReserved : Nat

def savedFn (x : Fn) : SavedFn :=
  ⟨x.enable, x.intMask, x.aqLevel, x.aqCqLog2, x.aqSqLog2, x.aqSqBase, x.aqCqBase, x.sqHead, x.sqTail, x.cqHead, x.cqTail,
   x.cqPhase, x.cqArmed, x.cqReserved⟩

/-- Section 3: the object table and the generations of its indices. -/
structure SavedObjects where
  objects : Tab Obj
  gens : Tab (BitVec 10)

/-- Section 4: the contexts, their plans' images apart, and the generations of plan indices. -/
structure SavedContexts where
  ctxs : Tab Ctx
  planGens : Tab (BitVec 24)

/-- Section 7: commands fetched and unfinished, and steps; held deals lie in the contexts. -/
structure SavedWork where
  cmds : List Cmd
  steps : List Step

/-- Section 8: plan images by context tag and index. -/
abbrev SavedPlans := List (Nat × Nat × ByteMem)

/-- A context without the images of its plans. -/
def bareCtx (c : Ctx) : Ctx := { c with plans := tabMap c.plans (fun _ p => { p with image := [] }) }

def fnCtxs (b : Block) (vf : Nat) : Tab Ctx := b.ctxs.filter (fun e => e.2.fn == vf)

/-- Entries of a table in a partition's range of indices. -/
def tabRange {α : Type} (t : Tab α) (lo n : Nat) : Tab α := t.filter (fun e => decide (lo ≤ e.1) && decide (e.1 < lo + n))

/-- Sections 2 to 8 of a partition. -/
def sections (b : Block) (vf : Nat) (p : Part) : List (List Byte) :=
  let ctxs := fnCtxs b vf
  [Config.sectionBytes 2 (savedFn (fnAt b vf)), Config.sectionBytes 3 (SavedObjects.mk p.objects p.objectGens),
   Config.sectionBytes 4 (SavedContexts.mk (tabMap ctxs (fun _ c => bareCtx c)) p.planGens),
   Config.sectionBytes 5 ((tabRange b.dealer.seqs p.desc.seqBase p.desc.seqCount).filter (fun e => e.2.state != .free)),
   Config.sectionBytes 6 (tabRange b.dealer.adapters p.desc.adapterBase p.desc.adapterCount),
   Config.sectionBytes 7 (SavedWork.mk (b.dealer.cmds.filter (fun c => c.q.fn == vf)) (b.dealer.steps.filter (fun s => s.fn == vf))),
   Config.sectionBytes 8 (α := SavedPlans) (ctxs.flatMap (fun e => e.2.plans.map (fun q => (e.1, q.1, q.2.image))))]

/-! ## Section 9 (R357) -/

/-- The ranges section 9 covers, in ascending IPA. -/
def savedRanges (b : Block) (vf : Nat) (p : Part) : List IpaRange :=
  sortBy (fun (r : IpaRange) => r.ipa) ((objectRanges p ++ spillRanges b vf ++ (p.desc.areas.take 4).map areaRange).filter (fun r => r.len != 0))

/-- The physical address of a tile of a partition's carve-outs. -/
def carvePa (b : Block) (p : Part) (ipa : Nat) : Nat := ((stage2 b p ipa).map (fun h => h.out)).getD 0

/-- Physical addresses of the tiles of a range. -/
def rangePas (b : Block) (p : Part) (r : IpaRange) : List Nat := (List.range (r.len / 4096)).map (fun i => carvePa b p (r.ipa + 4096 * i))

/-- One run: header, tiles, and their stored checks as the reads deliver them (R316, R317). -/
def runBytes (b : Block) (p : Part) (r : IpaRange) : List Byte :=
  let l := rangePas b p r
  leBytes 8 r.ipa ++ leBytes 8 l.length ++ l.flatMap (tileBytes b) ++ l.flatMap (fun a => leBytes 4 (tileCheck b a).toNat)

def memorySection (b : Block) (vf : Nat) (p : Part) : List Byte := (savedRanges b vf p).flatMap (runBytes b p)

/-- The tiles of the runs a section holds: IPA, bytes, stored check. -/
def runTiles : Nat → List Byte → List (Nat × List Byte × BitVec 32)
  | 0, _ => []
  | fuel + 1, bs =>
    if bs.length < 16 then []
    else
      let ipa := leAt bs 0 8
      let n := leAt bs 8 8
      let tile := fun i => (ipa + 4096 * i, (bs.drop (16 + 4096 * i)).take 4096, BitVec.ofNat 32 (leAt bs (16 + 4096 * n + 4 * i) 4))
      (List.range n).map tile ++ runTiles fuel (bs.drop (16 + 4100 * n))

/-! ## The image (R357) -/

def imageHead : Nat := 64 + 9 * 32

/-- The section table: types 1 to 9, laid end to end after it. -/
def sectionTable (lens : List Nat) : List Byte :=
  (lens.zipIdx).flatMap (fun e =>
    leBytes 2 (e.2 + 1) ++ zeros 6 ++ leBytes 8 (imageHead + sum (lens.take e.2)) ++ leBytes 8 e.1 ++ zeros 8)

def imageHeader (b : Block) (vf bytes : Nat) (nonce : BitVec 96) : List Byte :=
  leBytes 4 0x45564153 ++ leBytes 2 0x0100 ++ leBytes 1 1 ++ leBytes 1 vf ++ leBytes 2 0x0104 ++
  leBytes 1 (bld b).coresPerDie ++ leBytes 1 9 ++ zeros 4 ++ leBytes 8 (now b).toNat ++ leBytes 8 bytes ++
  leBytes 12 nonce.toNat ++ zeros 20

/-- A descriptor with the three fields the manager may edit as zero, as the additional data take it (log entry 46). -/
def neutralDesc (raw : List Byte) : List Byte :=
  let cut := fun (l : List Byte) at' => l.take at' ++ zeros 2 ++ l.drop (at' + 2)
  cut (cut (cut raw 0x2A) 0x30) 0x36

/-- Bytes under the keystream of AES-256-GCM. -/
def gcmXor (key : BitVec 256) (iv : BitVec 96) (bs : List Byte) : List Byte :=
  (bs.zipIdx).map (fun e => e.1 ^^^ Config.gcmStream key iv e.2)

/-- The whole image of a partition. -/
def imageOf (b : Block) (vf : Nat) (p : Part) (key : BitVec 256) (nonce : BitVec 96) : List Byte :=
  let body := sections b vf p ++ [memorySection b vf p]
  let lens := 256 :: body.map (fun s => s.length)
  let bytes := imageHead + sum lens + 16
  let front := imageHeader b vf bytes nonce ++ sectionTable lens
  let cipher := gcmXor key nonce body.flatten
  front ++ p.desc.raw ++ cipher ++ leBytes 16 (Config.gcmTag key nonce (front ++ neutralDesc p.desc.raw) cipher).toNat

/-! ## PART_SAVE -/

/-- The tiles of a partition read for its image (R317, R319). -/
def readSavedTiles (b : Block) (vf : Nat) (p : Part) : Block :=
  ((savedRanges b vf p).flatMap (rangePas b p)).foldl (fun c a => noteRead c a .clean) b

/-- PART_SAVE (R357, R361, R372): the Grotto loads the migration key and the image is formed; the mover writes it in its slots. -/
def doPartSave (vf : BitVec 8) (image capacity : BitVec 64) (id : Nat) (b : Block) : Block :=
  let v := vf.toNat
  if !vfExists b v then finish b id stInvalidField 0
  else if (fnAt b v).state ≠ .frozen then finish b id stNotPermitted 0
  else
    match tabGet b.grotto.migrationKeys v, partAt b v with
    | some key, some p =>
      let r := draw b
      let img := imageOf r.1 v p key (r.2.setWidth 96)
      if capacity.toNat < img.length then finish b id stNoResource 0
      else setCmd (readSavedTiles (loadKey r.1 v id key) v p) id (.saving v image.toNat img (ceilDiv img.length 1024))
    | _, _ => finish b id stNotPermitted 0

/-- PART_SAVE. -/
def execPartSave (q : QRef) (h : Hdr) (vf : BitVec 8) (image capacity : BitVec 64) (s : State) :
    Host.Outcome State Fault Refusal :=
  onBlock (fetchPacket (.partSave q h vf image capacity) q h 0x83 (doPartSave vf image capacity)) s

/-! ## What a restore reads (R358) -/

def secOff (img : List Byte) (n : Nat) : Nat := leAt img (64 + 32 * (n - 1) + 8) 8
def secLen (img : List Byte) (n : Nat) : Nat := leAt img (64 + 32 * (n - 1) + 16) 8

/-- Section 1, in clear. -/
def imageDesc (img : List Byte) : List Byte := (img.drop (secOff img 1)).take 256

/-- Check 2 of R358, and the reserved bytes of the header (R10). -/
def imageFits (b : Block) (vf : Nat) (img : List Byte) : Bool :=
  leAt img 0 4 == 0x45564153 && leAt img 4 2 == 0x0100 && leAt img 8 2 == 0x0104 && leAt img 0x0A 1 == (bld b).coresPerDie &&
  leAt img 7 1 == vf && leAt img 0x0C 4 == 0 && leAt img 0x2C 20 == 0

/-- The ciphertext of sections 2 to 9. -/
def imageCipher (img : List Byte) : List Byte := (img.drop (secOff img 2)).take (img.length - 16 - secOff img 2)

def imageNonce (img : List Byte) : BitVec 96 := BitVec.ofNat 96 (leAt img 0x20 12)

/-- Check 4 of R358: whether the tag verifies. -/
def imageHolds (key : BitVec 256) (img : List Byte) : Bool :=
  decide (imageHead + 256 + 16 ≤ img.length) &&
  Config.gcmTag key (imageNonce img) (img.take imageHead ++ neutralDesc (imageDesc img)) (imageCipher img) ==
    BitVec.ofNat 128 (leAt img (img.length - 16) 16)

/-- A section of the plaintext. -/
def plainSection (key : BitVec 256) (img : List Byte) (n : Nat) : List Byte :=
  ((gcmXor key (imageNonce img) (imageCipher img)).drop (secOff img n - secOff img 2)).take (secLen img n)

/-- What an image holds. -/
structure Saved where
  fn : SavedFn
  objects : SavedObjects
  ctxs : SavedContexts
  seqs : Tab Seq
  adapters : Tab Adapter
  work : SavedWork
  plans : SavedPlans
  memory : List (Nat × List Byte × BitVec 32)

/-- An image decrypted. -/
def readSaved (key : BitVec 256) (img : List Byte) : Option Saved :=
  let s := plainSection key img
  match Config.sectionData (α := SavedFn) 2 (s 2), Config.sectionData (α := SavedObjects) 3 (s 3),
        Config.sectionData (α := SavedContexts) 4 (s 4), Config.sectionData (α := Tab Seq) 5 (s 5),
        Config.sectionData (α := Tab Adapter) 6 (s 6), Config.sectionData (α := SavedWork) 7 (s 7),
        Config.sectionData (α := SavedPlans) 8 (s 8) with
  | some f, some o, some c, some q, some a, some w, some l => some ⟨f, o, c, q, a, w, l, runTiles (s 9).length (s 9)⟩
  | _, _, _, _, _, _, _ => none

/-! ## What a restore does (R359) -/

/-- Whether an IPA lies in a far object whose tiles are coded. -/
def ipaCoded (p : Part) (ipa : Nat) : Bool :=
  p.objects.any (fun e => e.2.attrs.getLsbD 1 && e.2.extents.any (fun x => decide (x.ipa ≤ ipa) && decide (ipa < x.ipa + x.len)))

/-- A saved tile written with the check it was saved with. -/
def putSaved (p : Part) (b : Block) (t : Nat × List Byte × BitVec 32) : Block :=
  let pa := carvePa b p t.1
  let tm := newMeta (regionOf b pa) (ipaCoded p t.1) t.2.1
  cacheFill (modMem b (fun m => setTileMeta { m with bytes := memWriteN m.bytes pa t.2.1 } (pa / 4096) { tm with check := t.2.2 })) pa

/-- A saved command: what waited for an invalidation or for the verification stream runs again at the thaw; an unmapping is
complete, since no translation came with the image. `k` and `m` are added to the serial numbers of commands and steps. -/
def savedStage (m : Nat) : CmdStage → CmdStage
  | .step id => .step (id + m)
  | .invalidation _ => .done stOk 0
  | .ctxDestroy tag _ => .ctxDestroy tag none
  | .mover _ => .waiting
  | .planLoad _ _ _ _ _ _ => .waiting
  | st => st

def savedCmd (b : Block) (k m : Nat) (c : Cmd) : Cmd :=
  { c with id := c.id + k, fetchedAt := now b, resolvedAt := now b, after := none, stage := savedStage m c.stage }

/-- How many steps of a list were admitted before one, which orders them before every new admission. -/
def admitRank (l : List Step) (s : Step) : Stamp :=
  BitVec.ofNat 63 (l.filter (fun x => decide ((x.admittedAt.getD 0).toNat < (s.admittedAt.getD 0).toNat))).length

/-- A saved step: an admitted one walks again, with its deal and carried state. -/
def savedStep (k m : Nat) (l : List Step) (s : Step) : Step :=
  { s with
    id := s.id + m, cmd := s.cmd + k, pins := [], stageOps := [], unit := none, pinnedAt := none, lastRan := none
    admittedAt := s.admittedAt.map (fun _ => admitRank l s)
    rewalk := s.rewalk || s.stage == .admitted
    stage := match s.stage with
      | .setAside => .setAside
      | .noList => .noList
      | _ => .walking }

/-- A saved context: not resident, its counters zero, its plans' images put back; one with entries to fetch is to be swapped
in (log entry 47). -/
def savedCtx (b : Block) (plans : SavedPlans) (tag : Nat) (c : Ctx) : Ctx :=
  { c with
    plans := tabMap c.plans (fun i p => { p with image := ((plans.find? (fun e => e.1 == tag && e.2.1 == i)).map (fun e => e.2.2)).getD [] })
    resident := false, wantsSwapIn := c.wantsSwapIn || c.sqs.any (fun q => q.2.head != q.2.tail), lastDoorbell := some (now b)
    wantsSince := some (now b), swapRound := none
    counters := Counters.zero, closing := none, closed := none }

/-- A DYING object's serial number renewed; one whose mappings were going is left to go again. -/
def savedObj (k : Nat) (o : Obj) : Obj :=
  { o with state := match o.state with
      | .dying c => .dying (c + k)
      | .unmapping _ => .dying k
      | st => st }

/-- A served field rebased (R359). -/
def rebase (n m : Nat) (q : Seq) : Seq :=
  if q.served = 0 then q else { q with served := BitVec.ofNat 46 (max 1 (n + q.served.toNat - m)) }

/-- Entries of a table put into another. -/
def tabPut {α : Type} (t u : Tab α) : Tab α := u.foldl (fun s e => tabSet s e.1 e.2) t

/-- The Dealer's part of a restore. -/
def putWork (b : Block) (s : Saved) : Block :=
  let k := b.dealer.nextCmd
  let m := b.dealer.nextStep
  let n := b.tb.epoch.toNat * 2 ^ 14 + b.tb.round
  let top := (s.seqs.map (fun e => e.2.served.toNat)).foldl max 0
  modDealer b (fun d => { d with
    seqs := tabPut d.seqs (tabMap s.seqs (fun _ q => rebase n top q))
    adapters := tabPut d.adapters s.adapters
    cmds := d.cmds ++ s.work.cmds.map (savedCmd b k m)
    steps := d.steps ++ s.work.steps.map (savedStep k m s.work.steps)
    nextCmd := k + (s.work.cmds.map (fun c => c.id + 1)).foldl max 0
    nextStep := m + (s.work.steps.map (fun x => x.id + 1)).foldl max 0 })

/-- The function's part of a restore. -/
def putFn (b : Block) (vf : Nat) (f : SavedFn) : Block :=
  modFn b vf (fun x => { x with
    enable := f.enable, intMask := f.intMask, aqLevel := f.aqLevel, aqCqLog2 := f.aqCqLog2, aqSqLog2 := f.aqSqLog2
    aqSqBase := f.aqSqBase, aqCqBase := f.aqCqBase, sqHead := f.sqHead, sqTail := f.sqTail, cqHead := f.cqHead
    cqTail := f.cqTail, cqPhase := f.cqPhase, cqArmed := f.cqArmed, cqReserved := f.cqReserved })

/-- A partition recreated from its image, short of its state (R359). -/
def restoreAll (b : Block) (vf : Nat) (raw : List Byte) (s : Saved) : Block :=
  let b1 := putFn (makePart b vf (partDesc raw)) vf s.fn
  let b2 := modPart b1 vf (fun p => { p with
    objects := tabMap s.objects.objects (fun _ o => savedObj b.dealer.nextCmd o), objectGens := s.objects.gens
    planGens := s.ctxs.planGens })
  let b3 := { b2 with ctxs := tabPut b2.ctxs (tabMap s.ctxs.ctxs (savedCtx b s.plans)) }
  let b4 := putWork b3 s
  match partAt b4 vf with
  | some p => s.memory.foldl (putSaved p) b4
  | none => b4

/-- The rejection of a plan against this build, by the checks of R174 and R175. -/
def planRejected (b : Block) (p : Part) (c : Ctx) (pl : Plan) : Option (BitVec 32) :=
  match planLevel b pl.image pl.length with
  | some r => some (rejectDetail 0xFFFF r)
  | none =>
    match loadLevel b p c pl.image with
    | some r => some (rejectDetail 0xFFFF r)
    | none => (List.range (imgTricks pl.image)).findSome? (fun t => (trickLevel b pl.image t).map (fun r => rejectDetail t r))

/-- The first plan of a restored partition that is rejected (check 5). -/
def restoreRejected (b : Block) (vf : Nat) : Option (BitVec 32) :=
  match partAt b vf with
  | none => none
  | some p => (fnCtxs b vf).findSome? (fun e => e.2.plans.findSome? (fun q => planRejected b p e.2 q.2))

/-- The end of a successful restore: the migration key is destroyed, and the VF is FROZEN (R359, R372). -/
def restoreEnds (b : Block) (vf : Nat) : Block :=
  setFnState { b with grotto := { b.grotto with migrationKeys := tabDel b.grotto.migrationKeys vf } } vf .frozen

/-! ## PART_RESTORE -/

/-- What PART_RESTORE makes of an image it has read: the checks of R358 from the second on. A restore that fails leaves nothing
behind. -/
def restoreFrom (v : Nat) (img : List Byte) (id : Nat) (b : Block) : Block :=
  let raw := imageDesc img
  if !imageFits b v img || !descOk b raw || !poolOk b (partDesc raw) then finish b id stInvalidField 0
  else if meetsLantern b (partDesc raw) then finish b id stResourceConflict 0
  else
    match tabGet b.grotto.migrationKeys v with
    | none => finish b id stInvalidField 0
    | some key =>
      let bad := zeroCarve b (partDesc raw)
      match (if imageHolds key img then readSaved key img else none) with
      | none => finish bad id stInvalidField 0
      | some s =>
        let b1 := restoreAll b v raw s
        match restoreRejected b1 v with
        | some detail => finish bad id stPlanRejected detail
        | none => finish (restoreEnds b1 v) id stOk (BitVec.ofNat 32 v)

/-- PART_RESTORE (R358, R359). -/
def doPartRestore (vf : BitVec 8) (image bytes : BitVec 64) (id : Nat) (b : Block) : Block :=
  let v := vf.toNat
  if !vfExists b v then finish b id stInvalidField 0
  else if (fnAt b v).state ≠ .absent then finish b id stBusy 0
  else restoreFrom v (hostRead b image.toNat bytes.toNat) id (hostAsk image.toNat bytes.toNat b)

/-- PART_RESTORE. -/
def execPartRestore (q : QRef) (h : Hdr) (vf : BitVec 8) (image bytes : BitVec 64) (s : State) :
    Host.Outcome State Fault Refusal :=
  onBlock (fun b => settle (fetchPacket (.partRestore q h vf image bytes) q h 0x84 (doPartRestore vf image bytes) b)) s

end Sys2Proof.Machine
end

