-- ==== Sys2Proof/Machine/Held.lean ====
section
/-!
DEFINITION. CQ_ENTRY_RESERVE (R230): a held command gets its CQ entry and then runs.
-/

namespace Sys2Proof.Machine

open Sys2Proof

/-- The header of a packet. -/
def packetHdr : Instr → Option Hdr
  | .nop _ h => some h
  | .memMap _ h _ _ _ _ _ _ _ _ _ => some h
  | .memUnmap _ h _ _ => some h
  | .memCopy _ h _ _ _ => some h
  | .memFill _ h _ _ _ => some h
  | .memImport _ h _ _ _ _ _ => some h
  | .memFree _ h _ => some h
  | .planLoad _ h _ _ => some h
  | .planUnload _ h _ => some h
  | .stepCmd _ h _ _ _ _ => some h
  | .seqOpen _ h _ => some h
  | .seqClose _ h _ => some h
  | .seqUpdate _ h _ _ _ => some h
  | .adapterBind _ h _ _ _ => some h
  | .adapterRelease _ h _ => some h
  | .fenceSignal _ h _ _ => some h
  | .fenceWait _ h _ _ => some h
  | .query _ h _ _ => some h
  | .queueCreate _ h _ _ _ _ _ _ => some h
  | .queueDestroy _ h _ _ => some h
  | .ctxCreate _ h _ _ _ _ => some h
  | .ctxDestroy _ h => some h
  | .partCreate _ h _ _ => some h
  | .partDestroy _ h _ => some h
  | .partFreeze _ h _ => some h
  | .partSave _ h _ _ _ => some h
  | .partRestore _ h _ _ _ => some h
  | .partThaw _ h _ => some h
  | .calendarSet _ h _ _ _ => some h
  | .baseLoad _ h _ => some h
  | .baseRelease _ h _ => some h
  | .debugUnlock _ h => some h
  | .unassignedOpcode _ h _ => some h
  | _ => none

/-- The own work of a command of any queue, from its packet. -/
def doPacket (i : Instr) (id : Nat) (b : Block) : Block :=
  match i with
  | .queueCreate q h kind index level vector entriesLog2 ring => doQueueCreate q h kind index level vector entriesLog2 ring id b
  | .queueDestroy q h kind index => doQueueDestroy q h kind index id b
  | .ctxCreate q _ fencePage fenceCount spill spillTiles => doCtxCreate q fencePage fenceCount spill spillTiles id b
  | .ctxDestroy q h => doCtxDestroy q h id b
  | .partCreate _ _ vf descriptor => doPartCreate vf descriptor id b
  | .partDestroy _ _ vf => doPartDestroy vf id b
  | .partFreeze _ _ vf => doPartFreeze vf id b
  | .partSave _ _ vf image capacity => doPartSave vf image capacity id b
  | .partRestore _ _ vf image bytes => doPartRestore vf image bytes id b
  | .partThaw _ _ vf => doPartThaw vf id b
  | .calendarSet _ _ firstQuad quads table => doCalendarSet firstQuad quads table id b
  | .baseLoad _ _ descriptor => doBaseLoad descriptor id b
  | .baseRelease _ _ baseSet => doBaseRelease baseSet id b
  | .debugUnlock _ _ => doDebugUnlock id b
  | _ => guestPacket i id b

/-- The held command of a function that gets an entry next: the first fetched whose CQ has one free. -/
def nextHeld (b : Block) (fn : Nat) : Option Cmd :=
  b.dealer.cmds.find? (fun c => c.q.fn == fn && isHeld c && cqHasRoom b c.q c.cq)

/-- A held command of a function that is not frozen reserves its entry; what its checks at fetch gave and its own work follow. -/
def cqEntryReserve (fn : Nat) (b : Block) : Block :=
  if alive b && (fnAt b fn).state != .frozen then
    match nextHeld b fn with
    | none => b
    | some c =>
      match packetHdr c.packet, c.stage with
      | some h, .held fail =>
        settle (runHeld c.q h c.opcode fail c.id (doPacket c.packet) (setCmd (reserveCq b c.q c.cq) c.id (.done stOk 0)))
      | _, _ => b
  else b

/-- CQ_ENTRY_RESERVE. -/
def execCqEntryReserve (fn : Nat) (s : State) : Host.Outcome State Fault Refusal := onBlock (cqEntryReserve fn) s

end Sys2Proof.Machine
end

