-- ==== Sys2Proof/Machine/Resets.lean ====
section
/-!
DEFINITION. Per-function resets (R224, R347, R348), BLK_RESET_N (R410, R429, R446), the release of the debug cable (R389), and
presence (R385).
-/

namespace Sys2Proof.Machine

open Sys2Proof

/-! ## PER_FUNCTION_RESET -/

/-- Whether a command is a PART_SAVE of a VF that still writes its image. -/
def savesVf (v : Nat) (c : Cmd) : Bool :=
  match c.stage with
  | .saving vf _ _ _ => vf == v
  | _ => false

/-- A PART_FREEZE or PART_SAVE of a function that its reset overtakes ends (R347); a save's key is erased (R361). -/
def stopFreezes (b : Block) (v : Nat) : Block :=
  eraseKeys (finishAll (finishAll b (fun c => c.stage == .freezing v) stInvalidField 0) (savesVf v) stNotPermitted 0)

/-- Mailboxes of a function without their notices, their receivers stopped (R397). -/
def discardNotices (x : Fn) : Fn := { x with dl := x.dl.discard, gr := x.gr.discard, rcv := x.rcv.discard }

/-- What the reset of a VF stops at once: its device interface breaks, its session ends, its contexts are aborted (R347, R369,
R376). -/
def stopVf (b : Block) (v : Nat) : Block := stopFreezes (abortFn (endSessionOf (tdispError b v) v) v) v

/-- STOP scrubs under way are not answered: the reset has discarded their requests (R397). -/
def dropAnswers (b : Block) : Block :=
  { b with parts := tabMap b.parts (fun _ p => { p with ending := if p.ending = some (.scrub true) then some (.scrub false) else p.ending }) }

/-- The manager's commands run on without records; one that still waited for a CQ entry has not begun and ends (R348). -/
def stopManager (b : Block) : Block :=
  modDealer (dropAnswers (endSessionOf b 0)) (fun d => { d with cmds := d.cmds.map (fun c =>
                                          if c.q.fn = 0 then { c with suppressed := true, stage := if isHeld c then .done stAborted 0 else c.stage }
                                          else c) })

/-- A per-function reset starts; in any other function it stops the work of the partition. -/
def perFunctionReset (fn : Nat) (b : Block) : Block :=
  let st := (fnAt b fn).state
  if alive b && st != .absent && st != .halted && st != .resetting then
    let b1 := if fn = 0 then stopManager b else stopVf b fn
    settle (setFnState (modFn b1 fn (fun x => discardNotices { x with enable := false })) fn .resetting)
  else b

/-- PER_FUNCTION_RESET: FE_FN_CTRL.reset written 1, or (`flr`) a function-level reset of the PCIe controller, which acts alike. -/
def execPerFunctionReset (fn : Nat) (flr : Bool) (s : State) : Host.Outcome State Fault Refusal :=
  onBlock (fun b => if flr && (fnAt b fn).state == .absent then b else perFunctionReset fn b) s

/-! ## PER_FUNCTION_RESET_COMPLETE -/

/-- BAR0 fields of a function at their reset values; its state and capability table are not among them (R11, R223), nor what the block
notes of its slots. -/
def bar0Reset (x : Fn) : Fn :=
  { Fn.reset with state := x.state, cap := x.cap, lastFetch := x.lastFetch, lastRecord := x.lastRecord, lastSwap := x.lastSwap,
                  lastVerify := x.lastVerify, loadEnded := x.loadEnded, mailAt := x.mailAt }

/-- The LT_ registers at their reset values; what the buffer holds is remembered (R444). -/
def lanternReset (l : Lantern) : Lantern := { Lantern.reset with held := l.held, vfs := l.vfs }

/-- The registers of PF0 that its reset reaches beside those of every function: XL_ and LT_. R159, R335, R414 and R438 keep theirs;
that GR_BOOT_STATUS and GR_SEC_STATUS, which tell of the bring-up and of debug, stay too is the model's choice, and a stage-2 write in
progress runs to its end (log entry 59). -/
def pf0Reset (b : Block) : Block :=
  { b with xlat := { b.xlat with selVf := 0, selEntry := 0, w0 := 0, w1 := 0, result := 0, busy := false }
           lantern := lanternReset b.lantern }

/-- Whether a PART_DESTROY of a function's partition is under way: its reset then never completes (R360). -/
def beingDestroyed (b : Block) (fn : Nat) : Bool :=
  match partAt b fn with
  | some p => (match p.ending with
    | some (.destroy _ _) => true
    | _ => false)
  | none => false

/-- Whether nothing of a resetting function is left: for a VF, its contexts and commands. -/
def resetDrained (b : Block) (fn : Nat) : Bool :=
  fn == 0 || ((ctxsOf b fn).isEmpty && !(b.dealer.cmds.any (fun c => c.q.fn == fn)) && !beingDestroyed b fn)

/-- The reset has finished (R224). -/
def perFunctionResetComplete (fn : Nat) (b : Block) : Block :=
  if alive b && (fnAt b fn).state == .resetting && resetDrained b fn then
    let b1 := modFn (if fn = 0 then pf0Reset b else b) fn (fun x => aqReset (bar0Reset x))
    setCause (setFnState b1 fn .ready) fn cResetDone
  else b

/-- PER_FUNCTION_RESET_COMPLETE. -/
def execPerFunctionResetComplete (fn : Nat) (s : State) : Host.Outcome State Fault Refusal :=
  onBlock (perFunctionResetComplete fn) s

/-! ## BLK_RESET_N -/

/-- What a core's memories hold until START zeroes them. -/
def coreKept (c : Core) : Core := { Core.reset with spad := c.spad, acc := c.acc }

/-- The block with every register at its reset value and nothing of a bring-up left (R11, R410, R429). Stacks, Gallery slices and core
memories keep their bytes until they are zeroed, far memory does not survive (R322), the pins keep their levels; the random generator
is drawn from anew (log entries 8, 52). -/
def resetBlock (b0 : Block) (released : Bool) : Block :=
  let b := ltClear b0
  { Block.reset with
    boot := { Boot.reset with released := released }
    grotto := { Grotto.reset with draws := b.grotto.draws }
    cores := (tabMap b.cores (fun _ c => coreKept c)).filter (fun e => e.2 != Core.reset)
    mem := { Mem.reset with bytes := b.mem.bytes.filter (fun c => decide (c.1 < farBase 0))
                            tiles := b.mem.tiles.filter (fun c => decide (c.1 < farBase 0 / 4096)), host := b.mem.host }
    jtag := { b.jtag with debugOpen := false }
    pins := b.pins
    out := b.out
    freeCtr := b.freeCtr }

/-- RESET_RELEASE: bring-up begins at stage 0 (R407, R446). -/
def execResetRelease (s : State) : Host.Outcome State Fault Refusal :=
  onBlock (fun b => if b.boot.released then b else resetBlock b true) s

/-- RESET_ASSERT: every activity ends in the tick in which it is sampled (R429). -/
def execResetAssert (s : State) : Host.Outcome State Fault Refusal :=
  onBlock (fun b => if b.boot.released then resetBlock b false else b) s

/-! ## DBG_CABLE_RELEASE -/

/-- The sample of DBG_CABLE_N found it released while debug is unlocked or being unlocked: the block resets internally. A
scrub that has begun has also ended: each acts whole (log entry 1). -/
def cableRelease (b : Block) : Block :=
  if alive b && !b.grotto.cable && (b.grotto.debugState == 0x01 || b.grotto.unlocking) then
    resetBlock b true
  else b

/-- DBG_CABLE_RELEASE. -/
def execDbgCableRelease (s : State) : Host.Outcome State Fault Refusal := onBlock cableRelease s

/-! ## Presence (R385) -/

/-- Samples that make a grant, and samples after the release at which it ends. -/
def presenceSamples : Nat := 30000
def grantSamples : Nat := 100000

/-- The sample that completes a hold of 3 s grants presence, once per hold. -/
def presenceGrant (b : Block) : Block :=
  let g := b.grotto
  if alive b && g.presence && g.presenceRun == presenceSamples then
    { b with grotto := { g with grant := true, releasedRun := 0, presenceRun := presenceSamples + 1 } }
  else b

/-- PRESENCE_GRANT. -/
def execPresenceGrant (s : State) : Host.Outcome State Fault Refusal := onBlock presenceGrant s

/-- The grant ends 10 s after the first sample that found the signal released. -/
def presenceExpiry (b : Block) : Block :=
  if alive b && b.grotto.grant && decide (grantSamples < b.grotto.releasedRun) then
    { b with grotto := { b.grotto with grant := false, releasedRun := 0 } }
  else b

/-- PRESENCE_GRANT_EXPIRY. -/
def execPresenceGrantExpiry (s : State) : Host.Outcome State Fault Refusal := onBlock presenceExpiry s

end Sys2Proof.Machine
end

