-- ==== Sys2Proof/Machine/Bringup.lean ====
section
/-!
DEFINITION. Bring-up: the recovery requests of GR_RCV (R363 to R366, R401 to R406), the configuration record (R21 to R24), engine
descriptors (R188, R189, R460), and the start of the time base (R407).
-/

namespace Sys2Proof.Machine

open Sys2Proof

/-! ## Answers on GR_RCV (R405, R406) -/

def setBoot (b : Block) (g : Boot → Boot) : Block := { b with boot := g b.boot }

def setGrotto (b : Block) (g : Grotto → Grotto) : Block := { b with grotto := g b.grotto }

def rcvReply (b : Block) (status : Nat) : Block := mbReply b 0 .rcv status []

/-- MB_OK: the stage advances to the next row. -/
def rcvDone (b : Block) : Block := rcvReply (setBoot b (fun x => { x with stage := x.stage + 1 })) mbOk

/-- Bring-up stops with an error (R406). -/
def rcvStop (b : Block) (status : Nat) (error part : Nat) : Block :=
  rcvReply (setBoot b (fun x => { x with stage := 0xF, error := BitVec.ofNat 8 error, part := BitVec.ofNat 8 part })) status

/-- A taken request of a code, in its stage only; `act` is given its payload. A START in progress waits for epoch 0. -/
def rcvRequest (b : Block) (code stage : Nat) (act : List Byte → Block) : Block :=
  match (mboxAt b 0 .rcv).taken with
  | none => b
  | some t =>
    if alive b && t.request == code && !b.boot.starting then
      if b.boot.stage = 0xF then rcvReply b mbStopped
      else if b.boot.stage.toNat ≠ stage then
        rcvReply b (if code = 6 ∧ b.boot.build.isSome = true then mbAlreadyAccepted else mbOutOfOrder)
      else act (mbPayload t)
    else b

/-! ## Stages 0 and 1 -/

/-- ROOT_KEY (R404, R405). -/
def rootKey (b : Block) : Block :=
  rcvRequest b 1 0 (fun p =>
    if p.length ≠ 97 then rcvReply b mbInvalidField
    else if Config.sha384 p ≠ Config.rootKeyDigest then rcvReply b mbBadSignature
    else rcvDone (setBoot b (fun x => { x with rootKey := some p })))

/-- ROOT_KEY. -/
def execRootKey (s : State) : Host.Outcome State Fault Refusal := onBlock rootKey s

/-- The UDS rebuilt and the DeviceID key derived from it (R363, R364). -/
def deriveDeviceId (g : Grotto) (helper : List Byte) : Grotto :=
  let uds := Config.udsOf helper
  let d := keyOf (leBytes 32 uds.toNat) "PLYNELL DEVICEID"
  { g with uds := some uds, deviceIdPrivate := some d, deviceIdPublic := some (leBytes 97 (Config.publicKey d).toNat) }

/-- HELPER (R363, R405, R406). -/
def helper (b : Block) : Block :=
  rcvRequest b 2 1 (fun p =>
    if p.length ≠ 1024 then rcvReply b mbInvalidField
    else if Config.helperHolds p = false then rcvStop b mbBadSignature 1 0
    else rcvDone (setGrotto b (fun g => deriveDeviceId g p)))

/-- HELPER. -/
def execHelper (s : State) : Host.Outcome State Fault Refusal := onBlock helper s

/-! ## Firmware images (R401, R402) -/

/-- Whether the header of an image is as R401 asks of a target, and its length fits. -/
def imageOk (img : List Byte) (target : Nat) : Bool :=
  let body := leAt img 0x10 4
  decide (256 ≤ img.length) && img.length == 256 + body && leAt img 0 4 == 0x49574650 && leAt img 4 2 == 0x0100 &&
  leAt img 6 1 == target && leAt img 7 1 == 0 && leAt img 0x0C 2 == 0x0104 && leAt img 0x0E 2 == 0 && body % 16 == 0 &&
  decide (body ≤ if target = 1 then 196608 else 2097152) && decide (leAt img 0x14 4 < body) && leAt img 0x14 4 % 4 == 0 &&
  allZero ((img.drop 0x18).take 40) && allZero ((img.drop 0xA0).take 96)

/-- Whether an image's signature verifies with the root key. -/
def imageSigned (b : Block) (img : List Byte) : Bool :=
  Config.verifies (b.boot.rootKey.getD []) (img.take 0x40 ++ img.drop 256) (BitVec.ofNat 768 (leAt img 0x40 96))

/-- Whether the payload of a load request is well formed: an address of a 4 KiB page, a length, four bytes of zero. -/
def loadPayloadOk (p : List Byte) : Bool := p.length == 16 && leAt p 0 8 % 4096 == 0 && leAt p 12 4 == 0

/-- The image a load request names. -/
def loadImage (b : Block) (p : List Byte) : List Byte := hostRead b (leAt p 0 8) (leAt p 8 4)

/-- The copy of an image in the memory of its target, and where it starts: 1 Grotto SRAM, 2 Dealer instruction memory (R402). -/
def keepImage (b : Block) (target : Nat) (img : List Byte) : Block :=
  setBoot b (fun x => { x with images := tabSet x.images target ⟨img, leAt img 0x14 4⟩ })

/-- A load request: the whole image is copied, then checked (R402). An image longer than any that R401 allows is refused without
being read. -/
def loadRequest (b : Block) (p : List Byte) (target : Nat) (act : List Byte → Block → Block) : Block :=
  if !loadPayloadOk p then rcvReply b mbInvalidField
  else if 2097408 < leAt p 8 4 then rcvReply b mbInvalidField
  else
    let img := loadImage b p
    let b1 := keepImage (hostAsk (leAt p 0 8) (leAt p 8 4) b) target img
    if !imageOk img target then rcvReply b1 mbInvalidField
    else if !imageSigned b1 img then rcvReply b1 mbBadSignature
    else act img b1

/-- Layer 0 completes (R364): CDI_1, the alias key and its certificate; the UDS and the private DeviceID key are erased. -/
def layer0 (g : Grotto) (img : List Byte) : Grotto :=
  let m2 := Config.sha384 img
  let cdi := Config.hmac384 (leBytes 32 (g.uds.getD 0).toNat) (digestBytes Config.bootRomDigest ++ digestBytes m2)
  let k := keyOf (digestBytes cdi) "PLYNELL ALIAS"
  let pub := Config.publicKey k
  let cert := Config.certificate pub (digestBytes m2) (Config.sign (g.deviceIdPrivate.getD 0) (leBytes 97 pub.toNat ++ digestBytes m2))
  { g with m2 := some m2, cdi1 := some cdi, aliasKey := some k, aliasCert := cert, uds := none, deviceIdPrivate := none }

/-- LOAD_GROTTO (R402, R405). -/
def loadGrotto (b : Block) : Block :=
  rcvRequest b 3 2 (fun p => loadRequest b p 1 (fun img c =>
    rcvDone (setBoot (setGrotto c (fun g => layer0 g img)) (fun x => { x with grottoVersion := some (BitVec.ofNat 32 (leAt img 8 4)) }))))

/-- LOAD_GROTTO. -/
def execLoadGrotto (s : State) : Host.Outcome State Fault Refusal := onBlock loadGrotto s

/-! ## Stages 3 and 4 -/

/-- CHAIN (R366, R405, R406). -/
def chain (b : Block) : Block :=
  rcvRequest b 4 3 (fun p =>
    if p.length ≠ 16 ∨ 65536 < leAt p 8 4 ∨ leAt p 12 4 ≠ 0 then rcvReply b mbInvalidField
    else
      let c := hostRead b (leAt p 0 8) (leAt p 8 4)
      let b1 := hostAsk (leAt p 0 8) (leAt p 8 4) b
      if some (Config.chainLeaf c) ≠ b1.grotto.deviceIdPublic then rcvStop b1 mbBadSignature 2 0
      else rcvDone (setGrotto b1 (fun g => { g with chain := some c })))

/-- CHAIN. -/
def execChain (s : State) : Host.Outcome State Fault Refusal := onBlock chain s

/-- Whether the fields of a licensee certificate are as R404 asks. -/
def licenseeOk (p : List Byte) : Bool :=
  leAt p 0 4 == 0x54434C50 && leAt p 4 2 == 0x0100 && leAt p 6 2 == 0 && leAt p 0x10 1 == 4 && allZero ((p.drop 0x71).take 15) &&
  allZero ((p.drop 0xE0).take 32)

/-- LICENSEE (R404, R405). -/
def licensee (b : Block) : Block :=
  rcvRequest b 5 4 (fun p =>
    if p.length ≠ 256 ∨ licenseeOk p = false then rcvReply b mbInvalidField
    else if Config.verifies (b.boot.rootKey.getD []) (p.take 0x80) (BitVec.ofNat 768 (leAt p 0x80 96)) = false then
      rcvReply b mbBadSignature
    else rcvDone (setBoot b (fun x => { x with licensee := some ((p.drop 0x10).take 97, BitVec.ofNat 64 (leAt p 8 8)) })))

/-- LICENSEE. -/
def execLicensee (s : State) : Host.Outcome State Fault Refusal := onBlock licensee s

/-! ## Stage 5: the configuration record (R21 to R24) -/

/-- Check 1 of R23. -/
def recordSigned (b : Block) (p : List Byte) : Bool :=
  match b.boot.licensee with
  | some (key, licId) =>
    Config.verifies key (p.take 0x40) (BitVec.ofNat 768 (leAt p 0x40 96)) && BitVec.ofNat 64 (leAt p 0x18 8) == licId
  | none => false

/-- The build a record declares. -/
def recordBuild (p : List Byte) : Build :=
  { dies := leAt p 8 1, coresPerDie := leAt p 9 1, memside := leAt p 0x0A 1 == 1, galleryMib := leAt p 0x0C 2
    stackMask := BitVec.ofNat 12 (leAt p 0x0E 2), farMask := BitVec.ofNat 16 (leAt p 0x10 2), farGib := leAt p 0x12 1
    maxFunctions := leAt p 0x13 1, designPower := leAt p 0x14 2, standing := leAt p 0x16 1
    licenseeId := BitVec.ofNat 64 (leAt p 0x18 8), raw := p }

/-- Check 2 of R23: every field valid (R21, R22), every reserved field zero. -/
def recordFields (p : List Byte) : Bool :=
  let d := recordBuild p
  leAt p 0 4 == 0x47464350 && leAt p 4 2 == 0x0100 && leAt p 6 2 == 0x0104 && decide (1 ≤ d.dies) && decide (d.dies ≤ 12) &&
  [16, 32, 64].contains d.coresPerDie && decide (leAt p 0x0A 1 ≤ 1) && leAt p 0x0B 1 == 0 &&
  (if d.memside then [48, 96, 144, 192].contains d.galleryMib else d.galleryMib == 0) && decide (leAt p 0x0E 2 < 4096) &&
  (if d.memside then decide (leAt p 0x0E 2 < 2 ^ d.dies) else leAt p 0x0E 2 == 0) && leAt p 0x10 2 != 0 &&
  [16, 32, 64].contains d.farGib && decide (1 ≤ d.maxFunctions) && decide (d.maxFunctions ≤ 64) && decide (1 ≤ d.designPower) &&
  decide (d.designPower ≤ 1000) && decide (1 ≤ d.standing) && decide (d.standing < d.designPower) && leAt p 0x17 1 == 0 &&
  allZero ((p.drop 0x20).take 32)

/-- Parts a build declares, in the order of R403: kind code, then index. -/
def declaredParts (d : Build) : List (Nat × Nat) :=
  (List.range d.dies).map (fun i => (0, i)) ++ (if d.memside then (List.range d.dies).map (fun i => (1, i)) else []) ++
  (maskBits 12 d.stackMask.toNat).map (fun i => (2, i)) ++ (maskBits 16 d.farMask.toNat).map (fun i => (3, i))

/-- The failing connections of a channel in ascending order: the first goes to spare 0, the next to spare 1 (R310). -/
def repairsOf (f : ChannelFail) : List Nat := sortBy (fun n => n) f.connections.eraseDups

/-- The most failing connections training found on a channel of a stack. -/
def sparesOf (t : Training) (k : Nat) : Nat :=
  ((t.channels.filter (fun f => f.stack == k)).map (fun f => (repairsOf f).length)).foldl max 0

/-- Whether a part failed training: it did not respond, or a stack's channel has more than 8 failing connections (R310). -/
def partFailed (t : Training) (p : Nat × Nat) : Bool :=
  t.failed.any (fun f => f.kind.toNat == p.1 && f.index.toNat == p.2) || (p.1 == 2 && decide (8 < sparesOf t p.2))

/-- The repair map of the stacks a build declares. -/
def repairMapOf (d : Build) (t : Training) : Tab (List Nat) :=
  (t.channels.filter (fun f => decide (f.stack < 12) && d.stackMask.getLsbD f.stack && decide ((repairsOf f).length ≤ 8))).foldl
    (fun m f => tabSet m (f.stack * 64 + f.channel) (repairsOf f)) []

/-- What training leaves: the repair map, MS_FAR and MS_STACK_STATUS (R310, R335). -/
def trainingResults (b : Block) (d : Build) (t : Training) : Block :=
  let far := (maskBits 16 d.farMask.toNat).filter (fun c => !partFailed t (3, c))
  modMem b (fun m => { m with
    repairMap := repairMapOf d t
    farTrained := BitVec.ofNat 16 (sum (far.map (fun c => 2 ^ c)))
    stackRegs := (maskBits 12 d.stackMask.toNat).foldl (fun u k =>
      tabSet u k ⟨false, 0, 0, BitVec.ofNat 4 (min 8 (sparesOf t k))⟩) m.stackRegs })

/-! ## Engine descriptors (R188, R189, R460) -/

/-- The ops of a descriptor. -/
def descOps (raw : List Byte) : List EngineOp :=
  (List.range 16).map (fun i => ⟨leAt raw (0x20 + 8 * i) 2, leAt raw (0x22 + 8 * i) 2, leAt raw (0x24 + 8 * i) 4⟩)

def engineDesc (raw : List Byte) : Engine :=
  { engineType := leAt raw 6 2, order := leAt raw 8 1, units := leAt raw 9 1, base := leAt raw 0x0A 2, localKib := leAt raw 0x0C 2
    maxInFlight := leAt raw 0x0E 1, scrubTicks := leAt raw 0x10 2, ops := descOps raw, raw := raw }

/-- Positions of an engine. -/
def enginePositions (e : Engine) : Nat := e.units * 4 ^ e.order

/-- Whether the fields of one descriptor are in range and its reserved bytes zero. -/
def engineOk (raw : List Byte) : Bool :=
  let e := engineDesc raw
  raw.length == 256 && leAt raw 0 4 == 0x4E474E45 && leAt raw 4 2 == 0x0100 && e.engineType != 0 && decide (e.order ≤ 2) &&
  decide (1 ≤ e.units) && decide (enginePositions e ≤ 256) && decide (768 ≤ e.base) && e.base % 4 ^ e.order == 0 &&
  decide (e.base + enginePositions e ≤ 1024) && decide (64 ≤ e.localKib) && decide (e.localKib ≤ 1024) && e.localKib % 64 == 0 &&
  decide (1 ≤ e.maxInFlight) && decide (e.maxInFlight ≤ 16) && leAt raw 0x0F 1 == 0 && decide (1 ≤ e.scrubTicks) &&
  decide (e.scrubTicks ≤ 1024) && allZero ((raw.drop 0x12).take 14) && e.ops.all (fun o => decide (1 ≤ o.occupancy)) &&
  e.ops.headD ⟨0, 0, 0⟩ == ⟨1, 0, 0⟩ && allZero ((raw.drop 0xA0).take 96)

/-- Engines in ascending order of base_index. -/
def enginesOf (raws : List (List Byte)) : List Engine := sortBy (fun e => e.base) (raws.map engineDesc)

/-- Whether no two engines, in ascending order, share a position. -/
def enginesApart : List Engine → Bool
  | a :: b :: t => decide (a.base + enginePositions a ≤ b.base) && enginesApart (b :: t)
  | _ => true

/-- Whether the descriptors read are valid and cover the populated quads exactly. -/
def enginesOk (t : Training) : Bool :=
  let es := enginesOf t.engines
  t.engines.all engineOk && enginesApart es &&
  (List.range 64).all (fun q =>
    t.enginePresent.getLsbD q == es.any (fun e => overlap e.base (enginePositions e) (4 * (192 + q)) 4))

/-- CONFIG once the record's own checks have passed: training, then the engines (R23, R310, R406). -/
def configTrain (b : Block) (p : List Byte) (t : Training) : Block :=
  let d := recordBuild p
  let b1 := trainingResults b d t
  match (declaredParts d).find? (partFailed t) with
  | some (kind, index) => rcvStop b1 mbInvalidField 4 (kind * 64 + index)
  | none =>
    if enginesOk t then
      let es := enginesOf t.engines
      let b2 := setGrotto b1 (fun g => { g with m4 := some (Config.sha384 p)
                                                m5 := some (Config.sha384 (es.flatMap (fun e => e.raw))) })
      rcvDone (setBoot b2 (fun x => { x with build := some d, engines := es }))
    else rcvStop b1 mbInvalidField 5 0

/-- CONFIG (R22 to R24, R405). -/
def configRecord (t : Training) (b : Block) : Block :=
  rcvRequest b 6 5 (fun p =>
    if p.length ≠ 160 then rcvReply b mbInvalidField
    else if !recordSigned b p then rcvStop b mbBadSignature 3 0
    else if !recordFields p then rcvStop b mbInvalidField 3 0
    else configTrain b p t)

/-- CONFIG. -/
def execConfig (t : Training) (s : State) : Host.Outcome State Fault Refusal := onBlock (configRecord t) s

/-! ## Stages 6 and 7 -/

/-- LOAD_DEALER (R402, R405). -/
def loadDealer (b : Block) : Block :=
  rcvRequest b 7 6 (fun p => loadRequest b p 2 (fun img c =>
    rcvDone (setBoot (setGrotto c (fun g => { g with m3 := some (Config.sha384 img) }))
      (fun x => { x with dealerVersion := some (BitVec.ofNat 32 (leAt img 8 4)) }))))

/-- LOAD_DEALER. -/
def execLoadDealer (s : State) : Host.Outcome State Fault Refusal := onBlock loadDealer s

/-- Every scratchpad, accumulator memory, stack and Gallery slice zeroed (R382); far memory is reached under new keys only. -/
def zeroAtStart (b : Block) : Block :=
  modMem { b with cores := [] } (fun m => { m with bytes := m.bytes.filter (fun c => decide (farBase 0 ≤ c.1))
                                                   tiles := m.tiles.filter (fun c => decide (farBase 0 / 4096 ≤ c.1)) })

/-- The block's far key of this bring-up (R361). -/
def newBlockKey (b : Block) : Block :=
  let r := draw b
  setGrotto r.1 (fun g => { g with blockFarKey := some r.2 })

/-- START: debug locked, the attestation key, zeroing, the Dealer started; its reply waits for epoch 0 (R407). -/
def start (dealerStarts : Bool) (b : Block) : Block :=
  rcvRequest b 8 7 (fun p =>
    if p.length ≠ 0 then rcvReply b mbInvalidField
    else
      let b1 := newBlockKey (zeroAtStart (setGrotto b (fun g => attest { g with debugState := 0 })))
      if dealerStarts then setBoot b1 (fun x => { x with zeroed := true, dealerStarted := true, starting := true })
      else rcvStop b1 mbStopped 6 0)

/-- START; `dealerStarts` says whether the Dealer firmware signals its start within the bound. -/
def execStart (dealerStarts : Bool) (s : State) : Host.Outcome State Fault Refusal := onBlock (start dealerStarts) s

/-- The Grotto starts the time base once zeroing and the Dealer's start are both complete (R143, R407). -/
def timeBaseStart (b : Block) : Block :=
  if alive b && b.boot.zeroed && b.boot.dealerStarted && !b.tb.started then { b with tb := { b.tb with started := true } } else b

/-- TIME_BASE_START. -/
def execTimeBaseStart (s : State) : Host.Outcome State Fault Refusal := onBlock timeBaseStart s

end Sys2Proof.Machine
end

