-- ==== Sys2Proof/Machine/Cores.lean ====
section
/-!
DEFINITION. The cores as commanded: the bundles of a trick (R66, R67, R99), each core operation as a command, firmware's operations, and
the ends of transfers (R95, R119, R126, R320).
-/

namespace Sys2Proof.Machine

open Sys2Proof

/-! ## Which bundle issues next -/

/-- Whether a sequencer may still issue: it runs, its tick lies in the trick window, and no block fault came before it. -/
def issues (b : Block) (c : Core) : Bool :=
  c.seq.running && decide (c.seq.next ≤ lastBundleTick) &&
    match b.recov.faultTick with
    | some f => decide (c.seq.next ≤ f)
    | none => true

/-- The tick of the next bundle of any core; a tick no bundle reaches when none issues any more. -/
def nextBundle (b : Block) : Nat :=
  b.cores.foldl (fun n e => if issues b e.2 then min n e.2.seq.next else n) 200000

/-- Whether a core issues the next bundle of the block: the earliest tick, the lower core of one tick, and no transfer ends
before it. -/
def issueDue (b : Block) (core : Nat) : Bool :=
  let c := coreAt b core
  alive b && ticking b && b.tb.boundaryDone && b.tb.round != trimRound && coreExists b core && issues b c &&
  b.cores.all (fun e => !issues b e.2 || decide (c.seq.next < e.2.seq.next) || (c.seq.next == e.2.seq.next && decide (core ≤ e.1))) &&
  b.cores.all (fun e => e.2.inflight.all (fun x => !x.issued || x.told || decide (c.seq.next ≤ x.lastTick)))

/-! ## Operations of a bundle

Each issues at a tick `t`: a compute or local operation is put in work, a transfer in flight; `old` is the core as the tick starts. -/

/-- A compute or local operation is put in work from its tick on; engine positions have none (R190). -/
def opJob (core t : Nat) (op : CoreOp) (b : Block) : Block :=
  if core < 768 then modCore b core (fun c => issueJob t c.seq.loops op c) else b

/-- An operation of a data slot of a bundle, by its descriptor. -/
def slotAct (old : Core) (core t : Nat) (descs : List (BitVec 256)) (b : Block) (o : SlotOp) : Block :=
  match opDesc descs o with
  | none => b
  | some d =>
    match o.slot, o.op with
    | 0, 1 => opJob core t (.mma (mmaOfBits d) (bits o.word 6 4) (bit o.word 5)) b
    | 1, 1 => opJob core t (.rotate (rotateOfBits d) (directQuant descs d)) b
    | 1, 2 => opJob core t (.quantise (quantOfBits d)) b
    | 2, 1 => opJob core t (.scale (scaleOfBits d)) b
    | 3, 1 => opJob core t (.vec (vecOfBits d)) b
    | 4, 1 => startXfer old core t (xferOfBits d) true b
    | 4, 2 => startXfer old core t (xferOfBits d) false b
    | 4, 3 => startGather old core t (gatherOfBits d) b
    | 4, 4 => startXfer old core t (xferOfBits d) false b
    | 4, 5 => opJob core t (.accExport (localOfBits d)) b
    | 4, 6 => opJob core t (.accImport (localOfBits d)) b
    | 4, 7 => opJob core t (.sregLoad (localOfBits d)) b
    | 4, 8 => startAtomic old core t (atomicOfBits d) b
    | 4, 9 => opJob core t (.clipSave (localOfBits d)) b
    | _, _ => b

/-! ## The control slot (R105 to R107, R124) -/

/-- A unit's run changed. -/
def modRun (b : Block) (core : Nat) (g : UnitRun → UnitRun) : Block :=
  modDealer b (fun d => { d with running := d.running.map (fun u =>
                                if u.base ≤ core ∧ core < u.base + 4 ^ u.order then g u else u) })

/-- SEM_SIGNAL at a tick. -/
def signalSem (core t sem amount : Nat) (b : Block) : Block :=
  modRun b core (fun u => { u with semOps := u.semOps ++ [⟨t, core, sem, amount, true⟩] })

/-- SEM_WAIT at a tick: a short count raises a block fault, else the amount is subtracted. -/
def waitSem (core t sem amount : Nat) (b : Block) : Block :=
  match runAt b core with
  | none => b
  | some u =>
    if semSeen u.semOps (u.sems.getD sem 0) sem core t < amount then raise b core 3 1 stNotPermitted u.tag (anyPage 3 1) false
    else modRun b core (fun v => { v with semOps := v.semOps ++ [⟨t, core, sem, amount, false⟩] })

/-- The control operation of a bundle, and the sequencer past it. -/
def controlAct (core t : Nat) (ctl : CtlOp) (b : Block) : Block :=
  let b1 := modCore b core (fun c => { c with seq := seqAdvance ctl c.seq })
  match ctl with
  | .semSignal sem n => ltEvent t evSem core (stepTag b core) (leBytes 1 sem ++ leBytes 1 3 ++ leBytes 2 n) (signalSem core t sem n b1)
  | .semWait sem n => ltEvent t evSem core (stepTag b core) (leBytes 1 sem ++ leBytes 1 4 ++ leBytes 2 n) (waitSem core t sem n b1)
  | .trickEnd => ltEvent t evEnd core (stepTag b core) [] b1
  | _ => b1

/-! ## BUNDLE_ISSUE (R66, R190) -/

/-- An engine word offered on its port; from then on the local store's bytes are the engine's. -/
def engineAct (core : Nat) (w : BitVec 128) (b : Block) : Block :=
  if core < 768 ∨ engineOp w = 0 then b
  else modCore (offer b (.engineWord core (engineWord w))) core (fun c => { c with engineRan := true })

/-- One bundle: its data slots act on the core as the tick starts, then its control slot. -/
def issueWord (core : Nat) (g : Segment) (w : BitVec 128) (b : Block) : Block :=
  let old := coreAt b core
  let t := old.seq.next
  let b1 := (bundleOps (decide (768 ≤ core)) w).foldl (slotAct old core t g.descs) (engineAct core w b)
  controlAct core t (ctlOf (controlWord w)) b1

/-- The bits of a bundle that are not those of a slot, by its place and width; a slot word of zero is a no-op (R104). -/
def blank (slot : Nat) (w : BitVec 128) : BitVec 128 :=
  w &&& ~~~ BitVec.ofNat 128 ((2 ^ (slotSpan slot).2 - 1) * 2 ^ (slotSpan slot).1)

/-- A bundle without the operations that read a word in double error: such an operation touches no memory (R417; log entry
107). -/
def spareSlots (err : CoreErr) (w : BitVec 128) : BitVec 128 := (err.double.getD []).foldl (fun x i => blank i x) w

/-- The next bundle of a core, an empty one of a WAIT or of R186, or one of its segment; `err` is what the core's memories
report in its tick, `errs` what those of cores report whose ticks no bundle told. -/
def bundleIssue (core : Nat) (err : CoreErr) (errs : List TickErr) (b : Block) : Block :=
  if issueDue b core then
    let t := (coreAt b core).seq.next
    let b1 := toTick (workTo t (tickErrs t errs b)) t
    let c := coreAt b1 core
    if c.seq.emptyLeft ≠ 0 then
      coreErr core err (modCore b1 core (fun x => { x with seq := { x.seq with next := t + 1, emptyLeft := x.seq.emptyLeft - 1 } }))
    else
      match c.active with
      | none => b
      | some g =>
        match g.bundles[c.seq.pos]? with
        | some w => coreErr core err (issueWord core g (spareSlots err w) b1)
        | none => b
  else b

/-- BUNDLE_ISSUE. -/
def execBundleIssue (core : Nat) (err : BundleErr) (s : State) : Host.Outcome State Fault Refusal :=
  onBlock (bundleIssue core err.own err.others) s

/-! ## Operations as commands

A bundle may be told slot by slot: its data operations, which act at the core's next bundle tick and leave the sequencer there,
and then its control operation, which ends the tick (log entry 44). -/

/-- An operation of a core's next bundle. -/
def onCore (core : Nat) (f : Core → Nat → Block → Block) (b : Block) : Block :=
  if issueDue b core && (coreAt b core).seq.emptyLeft == 0 then
    let t := (coreAt b core).seq.next
    let b1 := toTick (workTo t b) t
    f (coreAt b1 core) t b1
  else b

/-- MMA (R70 to R76, R113). -/
def execMma (core : Nat) (d : MmaDesc) (buffer : BitVec 4) (clear : Bool) (s : State) : Host.Outcome State Fault Refusal :=
  onBlock (onCore core (fun _ t => opJob core t (.mma d buffer.toNat clear))) s

/-- ROTATE (R78), with the QUANTISE it feeds on the direct path. -/
def execRotate (core : Nat) (d : RotateDesc) (direct : QuantDesc) (s : State) : Host.Outcome State Fault Refusal :=
  onBlock (onCore core (fun _ t => opJob core t (.rotate d direct))) s

/-- QUANTISE (R79). -/
def execQuantise (core : Nat) (d : QuantDesc) (s : State) : Host.Outcome State Fault Refusal :=
  onBlock (onCore core (fun _ t => opJob core t (.quantise d))) s

/-- SCALE (R81). -/
def execScale (core : Nat) (d : ScaleDesc) (s : State) : Host.Outcome State Fault Refusal :=
  onBlock (onCore core (fun _ t => opJob core t (.scale d))) s

/-- VEC (R82, R83). -/
def execVec (core : Nat) (d : VecDesc) (s : State) : Host.Outcome State Fault Refusal :=
  onBlock (onCore core (fun _ t => opJob core t (.vec d))) s

/-- LOAD (R470). -/
def execLoad (core : Nat) (d : XferDesc) (s : State) : Host.Outcome State Fault Refusal :=
  onBlock (onCore core (fun old t => startXfer old core t d true)) s

/-- STORE (R470). -/
def execStore (core : Nat) (d : XferDesc) (s : State) : Host.Outcome State Fault Refusal :=
  onBlock (onCore core (fun old t => startXfer old core t d false)) s

/-- GATHER (R89, R467). -/
def execGather (core : Nat) (d : GatherDesc) (s : State) : Host.Outcome State Fault Refusal :=
  onBlock (onCore core (fun old t => startGather old core t d)) s

/-- SCATTER (R470): a store whose tiles are the seats'. -/
def execScatter (core : Nat) (d : XferDesc) (s : State) : Host.Outcome State Fault Refusal :=
  onBlock (onCore core (fun old t => startXfer old core t d false)) s

/-- ACC_EXPORT (R77). -/
def execAccExport (core : Nat) (d : LocalDesc) (s : State) : Host.Outcome State Fault Refusal :=
  onBlock (onCore core (fun _ t => opJob core t (.accExport d))) s

/-- ACC_IMPORT (R77). -/
def execAccImport (core : Nat) (d : LocalDesc) (s : State) : Host.Outcome State Fault Refusal :=
  onBlock (onCore core (fun _ t => opJob core t (.accImport d))) s

/-- SREG_LOAD (R80). -/
def execSregLoad (core : Nat) (d : LocalDesc) (s : State) : Host.Outcome State Fault Refusal :=
  onBlock (onCore core (fun _ t => opJob core t (.sregLoad d))) s

/-- ATOMIC (R320). -/
def execAtomic (core : Nat) (d : AtomicDesc) (s : State) : Host.Outcome State Fault Refusal :=
  onBlock (onCore core (fun old t => startAtomic old core t d)) s

/-- CLIP_SAVE (R61). -/
def execClipSave (core : Nat) (d : LocalDesc) (s : State) : Host.Outcome State Fault Refusal :=
  onBlock (onCore core (fun _ t => opJob core t (.clipSave d))) s

/-- A control operation of a core's next bundle. -/
def onControl (core : Nat) (ctl : CtlOp) (b : Block) : Block := onCore core (fun _ t => controlAct core t ctl) b

/-- LOOP (R106). -/
def execLoop (core : Nat) (level : BitVec 2) (bodyM1 : BitVec 10) (countM1 : BitVec 12) (s : State) :
    Host.Outcome State Fault Refusal := onBlock (onControl core (.loop level.toNat bodyM1.toNat countM1.toNat)) s

/-- WAIT (R107). -/
def execWait (core : Nat) (n : BitVec 24) (s : State) : Host.Outcome State Fault Refusal := onBlock (onControl core (.wait n.toNat)) s

/-- SEM_SIGNAL (R124). -/
def execSemSignal (core : Nat) (sem : BitVec 4) (amount : BitVec 12) (s : State) : Host.Outcome State Fault Refusal :=
  onBlock (onControl core (.semSignal sem.toNat amount.toNat)) s

/-- SEM_WAIT (R124). -/
def execSemWait (core : Nat) (sem : BitVec 4) (amount : BitVec 12) (s : State) : Host.Outcome State Fault Refusal :=
  onBlock (onControl core (.semWait sem.toNat amount.toNat)) s

/-- TRICK_END (R67). -/
def execTrickEnd (core : Nat) (s : State) : Host.Outcome State Fault Refusal := onBlock (onControl core .trickEnd) s

/-! ## Firmware's operations (R101, R111, R183, R192) -/

/-- Whether this changeover window scrubs a core: its quad's owner changed, its partition is being destroyed, or a recovery scrubs
every core (R101, R133, R138). -/
def scrubsCore (b : Block) (core : Nat) : Bool :=
  alive b && ticking b && b.tb.boundaryDone && b.tb.round != trimRound && decide (b.tb.tick ≤ 1023) && coreExists b core &&
  b.cal.scrubbing.contains (core / 4)

/-- SCRUB of a core in a changeover window that scrubs it: its scratchpad, accumulators and spare half zeroed; an engine's by the
port. -/
def scrubCore (core : Nat) (b : Block) : Block :=
  if scrubsCore b core then
    if core < 768 then modCore b core coreScrub
    else
      match (engineBases b (fun _ => true)).find? (fun u => decide (u ≤ core) && (b.boot.engines.any (fun e =>
          decide (e.base ≤ u) && decide (u < e.base + e.units * 4 ^ e.order) && decide (core < u + 4 ^ e.order)))) with
      | some u => offer (modCore b core coreScrub) (.engineScrub u)
      | none => b
  else b

/-- SCRUB. -/
def execScrub (core : Nat) (s : State) : Host.Outcome State Fault Refusal := onBlock (scrubCore core) s

/-- STATE_SAVE has moved a core's part of its unit's run. -/
def markMoved (b : Block) (u : UnitRun) (core : Nat) : Block :=
  modDealer b (fun d => { d with running := d.running.map (fun r => if r = u then { r with moved := r.moved ++ [core] } else r) })

/-- STATE_SAVE: a core's own part of its unit's save or fill trick, between its live state and its spill tiles (R181, R183), once. -/
def stateSave (core : Nat) (b : Block) : Block :=
  match runAt b core, coreStep b core with
  | some u, some s =>
    match stepPlan b s, ctxAt b s.tag.toNat with
    | some pl, some c =>
      let m := pl.image
      let spill := c.spill.toNat
      let j := core - u.base
      let parts := [(core, (spillTilesOf m u.trick j).map (fun i => spill + spillOff j i))]
      if !firmwareActs b || u.moved.contains core then b
      else if u.kind = .save && s.holdsState then
        match spillMoves (toTick b 2048) s parts with
        | (b1, some e) => spillFault b1 s e true
        | (b1, none) => markMoved (saveCore b1 s u m spill j) u core
      else if u.kind = .fill && s.needsFill then
        match fillRead (toTick b 2048) s [] parts with
        | .error b1 => b1
        | .ok b1 => markMoved (fillCore b1 s m u spill (ipaTile b1 s.fn spill) j) u core
      else b
    | _, _ => b
  | _, _ => b

/-- STATE_SAVE. -/
def execStateSave (core : Nat) (s : State) : Host.Outcome State Fault Refusal := onBlock (stateSave core) s

/-! ## TRANSFER_COMPLETE (R95, R119, R126, R316, R317, R320) -/

/-- The transfer of a core that ends next. -/
def nextEnd (c : Core) : Option Xfer :=
  (sortBy (fun (x : Xfer) => x.lastTick) (c.inflight.filter (fun x => x.issued && !x.told))).head?

/-- Whether it is the next of the block: no bundle issues and no transfer ends before it. -/
def endDue (b : Block) (core : Nat) (x : Xfer) : Bool :=
  decide (x.lastTick < nextBundle b) &&
  b.cores.all (fun e => e.2.inflight.all (fun y => !y.issued || y.told || decide (x.lastTick < y.lastTick) ||
    (x.lastTick == y.lastTick && decide (core ≤ e.1))))

/-- Bytes of a tile or word charged to a context against the tier of its class (R432). -/
def chargeXfer (b : Block) (x : Xfer) : Block :=
  let tier := if x.cls = 0 ∨ x.cls = 2 then tierGallery else if x.cls = 1 ∨ x.cls = 3 then tierStack else tierFar
  modCtx b x.payer.toNat (fun c => { c with counters := chargeTier c.counters tier (if x.kind = .cas then 8 else 4096) })

/-- A tile that fails its check (R95, R316): a base tile goes to the flow of R422, any other to the context of its tag. -/
def checkFails (b : Block) (core : Nat) (x : Xfer) (reason : Nat) : Block :=
  match x.dst, coreBase b core with
  | .base _ _, some (i, _) =>
    let b1 := raise b core 5 1 stChecksum 0 (xferTile x) false
    { b1 with recov := { b1.recov with
      repairs := if b1.recov.repairs.contains (x.pa, i) then b1.recov.repairs else b1.recov.repairs ++ [(x.pa, i)] } }
  | _, _ => raise b core 2 reason stChecksum x.tag (xferTile x) (reason == 2)

/-- A load's last lines have landed, after what the memory reports of its tile; its check is compared (R95). A far tile whose index
entry was damaged into zeros is read as zeros (R464; log entry 121). -/
def endLoad (core : Nat) (err : ReadErr) (x : Xfer) (b : Block) : Block :=
  if x.dst = .dummy then b
  else
    let b1 := noteServed b x.pa (x.seen.bind (fun e => e.line)) err
    if err = .lostEntry then modCore b1 core (fun c => spadPut c (64 * x.line) (zeros 4096))
    else if ((x.seen.map (fun e => e.ok)).getD true) && !errFails err then b1
    else checkFails b1 core x 1

/-- A transfer without a fault at its tick: `k` is the place of its core's writes in the order of work. An atomic's target is read
and checked before it applies (R316); a CAS64 applies there, a tile atomic from there on. -/
def endXfer (core : Nat) (err : ReadErr) (k : Nat) (x : Xfer) (b : Block) : Block :=
  match x.kind with
  | .seatInfo _ => dropXfer (runWork (k + 1) b) core x
  | .load => endLoad core err x (chargeXfer (dropXfer (runWork (k + 1) b) core x) x)
  | .store => chargeXfer (dropXfer (runWork (k + 1) b) core x) x
  | .atomicTile _ =>
    let b1 := noteRead b x.pa err
    if tileOk b1 x.pa then setXfer (chargeXfer b1 x) core { x with told := true } else checkFails (dropXfer (chargeXfer b1 x) core x) core x 2
  | .cas =>
    let b1 := noteRead b x.pa err
    if tileOk b1 x.pa then dropXfer (runWork (k + 1) (chargeXfer b1 x)) core x else checkFails (dropXfer (chargeXfer b1 x) core x) core x 2

/-- The end of a transfer: all work of the block before its core's writes of the tick is done, then its own. -/
def completeXfer (core : Nat) (err : ReadErr) (x : Xfer) (b : Block) : Block :=
  let k := (2 * x.lastTick + 1) * 1024 + core
  let b1 := toTick (runWork k (lookupsTo x.lastTick b)) x.lastTick
  let y := (xferAt b1 core x.id).getD x
  match y.fault with
  | some f =>
    let st := if f.kind = 1 then stTranslationFault else stNotPermitted
    raise (dropXfer b1 core y) core f.kind f.reason st y.tag f.address (y.kind != .load)
  | none => endXfer core err k y b1

/-- TRANSFER_COMPLETE of a core: the next of its transfers to end. `err` is what the memory reports of the tile it reads, `errs` what
cores' memories report in ticks that no bundle told (R88). -/
def transferComplete (core : Nat) (err : ReadErr) (errs : List TickErr) (b : Block) : Block :=
  if alive b && ticking b && b.tb.boundaryDone then
    let b1 := lookupsTo (nextBundle b) b
    match nextEnd (coreAt b1 core) with
    | some x =>
      if endDue b1 core x && decide (x.lastTick ≤ 124999) then completeXfer core err x (tickErrs x.lastTick errs b) else b
    | none => b
  else b

/-- TRANSFER_COMPLETE. -/
def execTransferComplete (core : Nat) (err : XferErr) (s : State) : Host.Outcome State Fault Refusal :=
  onBlock (transferComplete core err.own err.others) s

end Sys2Proof.Machine
end

