-- ==== Sys2Proof/Machine/Invalidations.lean ====
section
/-!
DEFINITION. The invalidation port (R296, R452, R453) and the ends of invalidations (R298, R300); the stage-2 access registers
(R284 to R286).
-/

namespace Sys2Proof.Machine

open Sys2Proof

/-! ## The invalidation port -/

/-- The fields of a port request (R452). -/
structure PortReq where
  id : BitVec 16
  kind : Nat
  abort : Bool
  target : Nat
  pages : Nat
  base : Nat
  zeros : Bool

def portReq (d : BitVec 128) : PortReq :=
  ⟨d.extractLsb' 112 16, bits d.toNat 110 2, d.getLsbD 109, bits d.toNat 103 6, bits d.toNat 64 36, bits d.toNat 12 52 * 4096,
   bits d.toNat 100 3 == 0 && bits d.toNat 0 12 == 0⟩

/-- Whether an IPA range meets an entry that PART_CREATE set. -/
def meetsCarve (p : Part) (ipa len : Nat) : Bool :=
  (List.range 4).any (fun i =>
    let e := s2Entry p i
    s2Valid e && overlap (s2Base e) (s2Span e) ipa len)

/-- Whether the port refuses a request (R296, R452, R453). Kinds 0 and 2 name a VF; kind 1 a function. -/
def portRefuses (b : Block) (r : PortReq) : Bool :=
  !r.zeros || decide (r.kind = 3) || r.pages == 0 || (fnAt b r.target).state == .absent ||
  (decide (r.kind ≠ 1) && (partAt b r.target).isNone) ||
  (decide (r.kind = 0) && (match partAt b r.target with
    | some p => meetsCarve p r.base (r.pages * 4096)
    | none => true))

/-- The scope of a port request (R296). -/
def portScope (r : PortReq) : Scope :=
  if r.kind = 0 then .ipa r.target r.base (r.base + r.pages * 4096)
  else if r.kind = 1 then .bus r.target r.base (r.base + r.pages * 4096)
  else .whole r.target

/-- Requests of the port outstanding. -/
def portOutstanding (b : Block) : Nat :=
  (b.xlat.invals.filter (fun v => match v.source with
    | .port _ => true
    | _ => false)).length

/-- IV_REQ_READY (R452). -/
def portReady (b : Block) : Bool := alive b && (fnAt b 0).state != .absent && decide (portOutstanding b < 16)

/-- A request offered at the port, if it is taken. -/
def invalidationRequest (d : BitVec 128) (b : Block) : Block :=
  let r := portReq d
  if !portReady b then b
  else if portRefuses b r then offer b (.invResponse r.id 1)
  else settle (startInval b (.port r.id) (portScope r) r.abort)

/-- INVALIDATION_REQUEST. -/
def execInvalidationRequest (data : BitVec 128) (s : State) : Host.Outcome State Fault Refusal :=
  onBlock (invalidationRequest data) s

/-! ## Completion -/

/-- Second-level entries and host pins within a scope dropped: those of aborted steps are left (R298, R299). -/
def dropL2 (b : Block) (sc : Scope) : Block :=
  let gone := fun (vf : Nat) (r : PinReq) => pinInScope b sc vf r
  { b with
    xlat := { b.xlat with l2 := b.xlat.l2.filter (fun e => !gone e.vf e.req) }
    dealer := { b.dealer with steps := b.dealer.steps.map (fun s =>
      if stepPinned s && s.pins.any (gone s.fn) then { s with pins := s.pins.filter (fun r => !gone s.fn r) } else s) } }

/-- First-level entries within a scope dropped (R298). -/
def dropL1 (b : Block) (sc : Scope) : Block :=
  let hit := fun (e : L1Entry) =>
    pinInScope b sc (ctxVf b e.tag.toNat) ⟨0, e.tag, e.vpn * pageBytes e.pageLog, e.pageLog, e.count, e.out, false⟩
  { b with cores := tabMap b.cores (fun _ c => if c.l1.any hit then { c with l1 := c.l1.filter (fun e => !hit e) } else c) }

/-- A pending stage-2 write takes effect (R286). -/
def applyS2 (b : Block) : Block :=
  match b.xlat.pendingWrite with
  | none => b
  | some (vf, i, e) =>
    let b1 := modPart b vf (fun p => { p with stage2 := tabSetD p.stage2 i e s2None })
    { b1 with xlat := { b1.xlat with pendingWrite := none, busy := false, result := 0 } }

/-- What follows an invalidation, by its source (R266, R281, R286, R298, R355, R453). -/
def invalFollows (b : Block) (v : Inval) : Block :=
  match v.source with
  | .unmap cmd => finishAll b (fun c => c.id == cmd && c.stage == .invalidation v.id) stOk 0
  | .objectFree vf index =>
    match partAt b vf with
    | some p => (match tabGet p.objects index with
      | some o => if o.state = .unmapping v.id then objectUnmapped b vf index else b
      | none => b)
    | none => b
  | .ctxDestroy tag =>
    if b.dealer.cmds.any (fun c => c.stage == .ctxDestroy tag (some v.id)) then
      finishAll (delCtx b tag.toNat) (fun c => c.stage == .ctxDestroy tag (some v.id)) stOk 0
    else b
  | .stage2 => applyS2 b
  | .partDestroy vf => unlockEnds (partEnds b vf)
  | .port r => offer b (.invResponse r 0)

/-- Whether an invalidation answers before another of the port that is due in the same tick (R300). -/
def portFirst (b : Block) (v : Inval) : Bool :=
  match v.source with
  | .port r => b.xlat.invals.all (fun w => match w.source with
    | .port q => !invalDue b w || decide (r.toNat ≤ q.toNat)
    | _ => true)
  | _ => true

/-- The tick in which an invalidation completes: the last of its round, or for a CTX_DESTROY the one after its receipt. -/
def invalTick (b : Block) (v : Inval) : Nat :=
  match v.source with
  | .ctxDestroy _ => if v.receipt = now b then min (b.tb.tick + 1) (lastTick b.tb) else b.tb.tick
  | _ => lastTick b.tb

/-- An outstanding invalidation that is due completes (R298). -/
def invalidationComplete (id : Nat) (b : Block) : Block :=
  match b.xlat.invals.find? (fun v => v.id == id) with
  | none => b
  | some v =>
    if alive b && ticking b && b.tb.boundaryDone && invalDue b v && portFirst b v then
      let b1 := dropL2 (dropL1 (toTick b (invalTick b v)) v.scope) v.scope
      let b2 := { b1 with xlat := { b1.xlat with invals := b1.xlat.invals.filter (fun w => w.id != id) } }
      settle (retryWaiting (invalFollows b2 v))
    else b

/-- INVALIDATION_COMPLETE. -/
def execInvalidationComplete (id : Nat) (s : State) : Host.Outcome State Fault Refusal := onBlock (invalidationComplete id) s

/-! ## Stage-2 access registers (R285, R286) -/

/-- The partition the XL_S2_SEL register names, if PF0's registers answer and no write is in progress. -/
def s2Ready (b : Block) (value : BitVec 32) : Bool :=
  alive b && (fnAt b 0).state != .absent && b.xlat.pendingWrite.isNone && !(value.getLsbD 0 && value.getLsbD 1)

def setXlat (b : Block) (g : Xlat → Xlat) : Block := { b with xlat := g b.xlat }

/-- A read command: the selected entry is copied; the entry of an absent partition is refused. -/
def s2Read (value : BitVec 32) (b : Block) : Block :=
  if s2Ready b value && value.getLsbD 1 then
    match partAt b b.xlat.selVf.toNat with
    | none => setXlat b (fun x => { x with result := 3 })
    | some p =>
      let e := s2Entry p b.xlat.selEntry.toNat
      setXlat b (fun x => { x with w0 := e.w0, w1 := e.w1, result := 0 })
  else b

/-- S2_ENTRY_READ: a write of XL_S2_CMD with its read bit. -/
def execS2EntryRead (value : BitVec 32) (s : State) : Host.Outcome State Fault Refusal := onBlock (s2Read value) s

/-- Whether contents keep R282 to R284: a host range, in its bits, that meets no other valid entry and none of the three
carve-out ranges (R340). An entry that is not valid has no contents to keep them. -/
def s2Allowed (p : Part) (i : Nat) (e : RangeEntry) : Bool :=
  !s2Valid e ||
    (s2Host e && decide (s2Repeats e = 1) && s2Stride e == 0 && s2Length e != 0 && !e.w0.getLsbD 60 &&
      bits e.w0.toNat 48 8 == 0 && decide (s2Base e + s2Span e ≤ 2 ^ 48) &&
      (List.range 16).all (fun j =>
        let o := s2Entry p j
        j == i || !(s2Valid o && overlap (s2Base o) (s2Span o) (s2Base e) (s2Span e))) &&
      [tierStack, tierGallery, tierFar].all (fun t => !overlap (carveBase t) (carveSize p.desc t) (s2Base e) (s2Span e)))

/-- A write command (R286), whose result is known when it is done or refused. One that is accepted breaks a locked or running device
interface (R376). -/
def s2Write (value : BitVec 32) (b : Block) : Block :=
  if s2Ready b value && value.getLsbD 0 then
    let vf := b.xlat.selVf.toNat
    let i := b.xlat.selEntry.toNat
    let e : RangeEntry := ⟨b.xlat.w0, b.xlat.w1⟩
    match partAt b vf with
    | none => setXlat b (fun x => { x with result := 3 })
    | some p =>
      if i < 4 then setXlat b (fun x => { x with result := 1 })
      else if !s2Allowed p i e then setXlat b (fun x => { x with result := 2 })
      else
        let b1 := tdispError b vf
        let old := s2Entry p i
        let b2 := setXlat b1 (fun x => { x with pendingWrite := some (vf, i, e) })
        if s2Valid old then
          settle (startInval (setXlat b2 (fun x => { x with busy := true })) .stage2
            (.ipa vf (s2Base old) (s2Base old + s2Span old)) false)
        else applyS2 b2
  else b

/-- S2_ENTRY_WRITE: a write of XL_S2_CMD with its write bit. -/
def execS2EntryWrite (value : BitVec 32) (s : State) : Host.Outcome State Fault Refusal := onBlock (s2Write value) s

end Sys2Proof.Machine
end

