-- ==== Sys2Proof/Machine/Registers.lean ====
section
/-!
DEFINITION. Writes to the registers of BAR0 (R8, R9, R222): those with behaviour of their own (R145, R159, R414, R415, R438, R440 to
R443) and all others; the JTAG port (R387, R463).
-/

namespace Sys2Proof.Machine

open Sys2Proof

/-- Whether PF0's own registers answer (R408) and writes act (R424). -/
def pf0Writes (b : Block) : Bool := alive b && (fnAt b 0).state != .absent

/-! ## TB_ (R145, R159) -/

/-- A write of TB_CTRL: pps_pin is cleared in HOLDOVER only, and the edges captured before count no more (R145). -/
def ppsPinWrite (w : BitVec 32) (b : Block) : Block :=
  if pf0Writes b then
    if w.getLsbD 0 then setTb b (fun t => { t with ppsPin := true })
    else if b.tb.pps = .holdover then setTb b (fun t => { t with ppsPin := false, earlySeen := false, lateSeen := false, inWindow := none })
    else b
  else b

/-- PPS_PIN_WRITE. -/
def execPpsPinWrite (value : BitVec 32) (s : State) : Host.Outcome State Fault Refusal := onBlock (ppsPinWrite value) s

/-- A 32-bit read of TB_NOW latches its upper half. -/
def tbNowLatch (b : Block) : Block :=
  if b.boot.released && (fnAt b 0).state != .absent then setTb b (fun t => { t with nowLatch := ((now b).setWidth 64).extractLsb' 32 32 })
  else b

/-- TB_NOW_LATCH. -/
def execTbNowLatch (s : State) : Host.Outcome State Fault Refusal := onBlock tbNowLatch s

/-! ## The rings of the AC_ block (R414, R415, R438) -/

/-- A write of a ring's control register: the size is kept while the ring is enabled; setting enable sets both indexes to 0. -/
def ringCtrl (r : AcRing) (size : BitVec 5) (enable : Bool) : AcRing :=
  if r.enable then { r with enable := enable }
  else if enable then { r with size := size, enable := true, tail := 0, head := 0 }
  else { r with size := size }

/-- A write of AC_FAULT_CTRL. -/
def faultCtrl (w : BitVec 32) (b : Block) : Block :=
  if pf0Writes b then setFaultRing b (ringCtrl b.acct.fault ((w.extractLsb' 1 4).setWidth 5) (w.getLsbD 0)) else b

/-- FAULT_RING_ENABLE: a write of AC_FAULT_CTRL with enable 1. -/
def execFaultRingEnable (value : BitVec 32) (s : State) : Host.Outcome State Fault Refusal :=
  onBlock (fun b => if value.getLsbD 0 then faultCtrl value b else b) s

/-- A write of AC_ACCT_CTRL. -/
def acctCtrl (w : BitVec 32) (b : Block) : Block :=
  if pf0Writes b then setAcctRing b (ringCtrl b.acct.ring (w.extractLsb' 1 5) (w.getLsbD 0)) else b

/-- ACCT_RING_ENABLE: a write of AC_ACCT_CTRL with enable 1. -/
def execAcctRingEnable (value : BitVec 32) (s : State) : Host.Outcome State Fault Refusal :=
  onBlock (fun b => if value.getLsbD 0 then acctCtrl value b else b) s

/-- A word of a ring's base register, kept while the ring is enabled. -/
def ringBase (r : AcRing) (high : Bool) (w : BitVec 32) : AcRing :=
  if r.enable then r
  else if high then { r with base := w ++ r.base.extractLsb' 0 32 }
  else { r with base := r.base.extractLsb' 32 32 ++ (w &&& 0xFFFFF000) }

/-- The overflow bit of a ring's status register cleared by a 1. -/
def ringStatus (r : AcRing) (w : BitVec 32) : AcRing := if w.getLsbD 0 then { r with overflow := false } else r

/-! ## Lantern (R440 to R443) -/

/-- The result of a write of enable = 1 (R441). -/
def ltCheck (b : Block) : BitVec 2 :=
  if !ltPlaced b then 2
  else if ltMeetsPart b then 1
  else if b.lantern.trigger = 1 ∧ b.tb.ppsPin = true then 1
  else 0

/-- Recording starts. What the last recording left is not kept beyond this (log entry 51). -/
def ltStart (b : Block) : Block :=
  modLantern (ltWipe b) (fun l => { l with
    enable := true, active := true, result := 0, writeIndex := 0, wrapped := false, triggered := false, stopped := false, left := none
    inTick := ⟨0, 0, false, []⟩, droppedBefore := false, held := (ltBase l, ltTiles l) })

/-- The trigger fires; with a post_count of zero recording stops at once (R443). -/
def ltFire (b : Block) : Block :=
  modLantern b (fun l =>
    let n := 256 * l.postCount.toNat
    if l.active ∧ l.triggered = false then
      { l with triggered := true, left := some n, stopped := decide (n = 0), active := decide (n ≠ 0) }
    else l)

/-- A write of LT_CTRL. The trigger is kept while enable or dumping is 1; enable acts when it changes; arm fires trigger 0. -/
def ltCtrl (w : BitVec 32) (b : Block) : Block :=
  if pf0Writes b then
    let b1 := modLantern b (fun l => { l with
      postCount := w.extractLsb' 16 16, trigger := if l.enable || l.dumping then l.trigger else w.extractLsb' 2 2 })
    let b2 :=
      if !w.getLsbD 0 then modLantern b1 (fun l => { l with enable := false, active := false })
      else if b1.lantern.enable then b1
      else if ltCheck b1 = 0 then ltStart b1
      else modLantern b1 (fun l => { l with result := ltCheck b1 })
    if w.getLsbD 1 ∧ b2.lantern.trigger = 0 then ltFire b2 else b2
  else b

/-- LANTERN_ENABLE: a write of LT_CTRL with enable 1. -/
def execLanternEnable (value : BitVec 32) (s : State) : Host.Outcome State Fault Refusal :=
  onBlock (fun b => if value.getLsbD 0 then ltCtrl value b else b) s

/-- LANTERN_ARM: a write of LT_CTRL with arm 1. -/
def execLanternArm (value : BitVec 32) (s : State) : Host.Outcome State Fault Refusal :=
  onBlock (fun b => if value.getLsbD 1 then ltCtrl value b else b) s

/-- A write of LT_DUMP: a dump starts, or is refused for what the buffer reaches (R427, R440). While one is in progress the write
does nothing (log entry 51). -/
def lanternDump (v : BitVec 64) (b : Block) : Block :=
  if pf0Writes b && !b.lantern.dumping then
    modLantern b (fun l =>
      if !ltPlaced b then { l with result := 2 }
      else if ltMeetsPart b then { l with result := 1 }
      else { l with dumping := true, dumped := 0, dumpAddress := v &&& 0xFFFFFFFFFFFFF000 })
  else b

/-- LANTERN_DUMP. -/
def execLanternDump (value : BitVec 64) (s : State) : Host.Outcome State Fault Refusal := onBlock (lanternDump value) s

/-- Whether what fires the trigger is the cause it is set to, and has happened: for a block fault, one of this round. -/
def ltCauseHolds (b : Block) : LtCause → Bool
  | .pinEdge => b.lantern.trigger == 1 && !b.tb.ppsPin
  | .blockFault => b.lantern.trigger == 2 && b.recov.faultTick.isSome

/-- LANTERN_TRIGGER. -/
def execLanternTrigger (cause : LtCause) (s : State) : Host.Outcome State Fault Refusal :=
  onBlock (fun b => if alive b && ltCauseHolds b cause then ltFire b else b) s

/-- The records after the trigger have been written. -/
def lanternStop (b : Block) : Block :=
  if alive b && b.lantern.active && b.lantern.left == some 0 then
    modLantern b (fun l => { l with stopped := true, active := false })
  else b

/-- LANTERN_STOP. -/
def execLanternStop (s : State) : Host.Outcome State Fault Refusal := onBlock lanternStop s

/-- A write of LT_BUF, ignored while enable or dumping is 1. -/
def ltBufWrite (w : BitVec 32) (b : Block) : Block :=
  modLantern b (fun l =>
    if l.enable || l.dumping then l
    else { l with die := w.extractLsb' 24 4, offsetMib := w.extractLsb' 16 8, sizeMib := w.extractLsb' 8 8 })

/-! ## Every register, by its 32-bit words -/

/-- W1C bits of a mailbox's STATUS (R393). -/
def mboxStatus (m : Mbox) (w : BitVec 32) : Mbox :=
  { m with collision := m.collision && !w.getLsbD 1, accessError := m.accessError && !w.getLsbD 3 }

/-- The mailbox whose STATUS lies at an offset. -/
def statusMbox (off : Nat) : Option MboxSel :=
  if off = 0x2008 then some .dl else if off = 0x2108 then some .gr else if off = 0x2208 then some .rcv else none

/-- Writes that still act in a halted block (R424), and that every block takes: W1C bits, and AC_FAULT_HEAD. -/
def clearWord (fn : Nat) (b : Block) (off : Nat) (w : BitVec 32) : Block :=
  if off = 0x1108 then modFn b fn (fun x => { x with intCause := x.intCause &&& ~~~(w.setWidth 11) })
  else if fn = 0 ∧ off = 0x41D0 then setFaultRing b { b.acct.fault with head := (w.setWidth 12).setWidth 16 }
  else if fn = 0 ∧ off = 0x41D4 then setFaultRing b (ringStatus b.acct.fault w)
  else
    match statusMbox off with
    | some m => if mboxPresent b fn m then modMbox b fn m (fun x => mboxStatus x w) else b
    | none => b

/-- Registers of every function, FE_INT_CAUSE and the mailboxes apart (R224 to R227, R234). -/
def fnWord (fn : Nat) (b : Block) (off : Nat) (w : BitVec 32) : Block :=
  if off = 0x1104 then
    if w.getLsbD 1 then perFunctionReset fn b else if w.getLsbD 0 then fnEnable fn b else fnDisable fn b
  else if off = 0x101C then
    modFn b fn (fun x => { x with dbError := if w.getLsbD 31 then x.dbError &&& 0x7FFFFFFFFFFFFFFF else x.dbError })
  else aqConfigWrite fn off 32 (w.setWidth 64) b

/-- Registers of the AC_ block (R414, R438, R439). -/
def acWord (b : Block) (off : Nat) (w : BitVec 32) : Block :=
  if off = 0x4100 then setAcctRing b (ringBase b.acct.ring false w)
  else if off = 0x4104 then setAcctRing b (ringBase b.acct.ring true w)
  else if off = 0x4108 then acctCtrl w b
  else if off = 0x4110 then setAcctRing b { b.acct.ring with head := w.setWidth 16 }
  else if off = 0x4114 then setAcctRing b (ringStatus b.acct.ring w)
  else if off = 0x4118 then
    { b with acct := { b.acct with useSamples := w.getLsbD 0, useWasZero := b.acct.useWasZero || !w.getLsbD 0 } }
  else if off = 0x4120 then { b with acct := { b.acct with diagSel := w.setWidth 10 } }
  else if off = 0x41C0 then setFaultRing b (ringBase b.acct.fault false w)
  else if off = 0x41C4 then setFaultRing b (ringBase b.acct.fault true w)
  else if off = 0x41C8 then faultCtrl w b
  else b

/-- A stack's hot bit cleared by a 1 (R335). -/
def clearHot (b : Block) (k : Nat) (w : BitVec 32) : Block :=
  if w.getLsbD 24 ∧ stackHere b k = true then modMem b (fun m => { m with stackRegs := tabMod m.stackRegs k (fun s => { s with hot := false }) })
  else b

/-- Registers of the XL_ block (R282, R285). -/
def xlWord (b : Block) (off : Nat) (w : BitVec 32) : Block :=
  if off = 0x4400 then setXlat b (fun x => { x with selVf := w.extractLsb' 8 6, selEntry := w.extractLsb' 0 4 })
  else if off = 0x4408 then setXlat b (fun x => { x with w0 := x.w0.extractLsb' 32 32 ++ w })
  else if off = 0x440C then setXlat b (fun x => { x with w0 := (w &&& 0xEF00FFFF) ++ x.w0.extractLsb' 0 32 })
  else if off = 0x4410 then setXlat b (fun x => { x with w1 := x.w1.extractLsb' 32 32 ++ w })
  else if off = 0x4414 then setXlat b (fun x => { x with w1 := w ++ x.w1.extractLsb' 0 32 })
  else if off = 0x4418 then s2Write w (s2Read w b)
  else b

/-- Registers of PF0 alone (R159, R335, R440). -/
def pf0Word (b : Block) (off : Nat) (w : BitVec 32) : Block :=
  if off = 0x4018 then setTb b (fun t => { t with alertSeen := t.alertSeen &&& ~~~(w.extractLsb' 16 12) })
  else if off = 0x401C then ppsPinWrite w b
  else if off = 0x4200 then ltBufWrite w b
  else if off = 0x4204 then ltCtrl w b
  else if off = 0x4300 then modMem b (fun m => { m with forceX4 := w.getLsbD 24 })
  else if 0x4310 ≤ off ∧ off < 0x4340 then clearHot b ((off - 0x4310) / 4) w
  else if 0x4100 ≤ off ∧ off < 0x4200 then acWord b off w
  else xlWord b off w

/-- Cause bits a function has (R226). -/
def causeBits (fn : Nat) : BitVec 11 := if fn = 0 then 0x77F else 0x07F

/-- One aligned 32-bit word written to a function's BAR0: of an ABSENT function FE_INT_CAUSE, FE_INT_MASK and, in PF0, the recovery
mailbox answer alone (R408, R468). -/
def regWord (fn : Nat) (b : Block) (off : Nat) (w : BitVec 32) : Block :=
  let b1 := if (fnAt b fn).state = .absent ∧ off ≠ 0x1108 ∧ off ≠ 0x2208 then b else clearWord fn b off w
  if b.recov.halted then b1
  else if off = 0x110C then modFn b1 fn (fun x => { x with intMask := w.setWidth 11 &&& causeBits fn })
  else if (fnAt b fn).state = .absent then b1
  else if fn = 0 ∧ 0x4000 ≤ off then pf0Word b1 off w
  else fnWord fn b1 off w

/-- The mailbox whose NOTICE lies at an offset. -/
def noticeMbox (off : Nat) : Option MboxSel :=
  if off = 0x2000 then some .dl else if off = 0x2100 then some .gr else if off = 0x2200 then some .rcv else none

/-- A write to BAR0 of any width. The doorbells and NOTICE are taken whole (R222, R394); a 32-bit write to a half of LT_DUMP acts with
the other half zero (log entry 50). -/
def registerWrite (fn off width : Nat) (v : BitVec 64) (b : Block) : Block :=
  let w := if aligned off width then width else 0
  if b.boot.released = false ∨ 64 ≤ fn then b
  else if 0x1000 ≤ off ∧ off < 0x1008 then sqDoorbell fn w v b
  else if 0x1008 ≤ off ∧ off < 0x1010 then cqDoorbell fn w v b
  else if 0x1010 ≤ off ∧ off < 0x1018 then fenceDoorbell fn w v b
  else if !aligned off width then b
  else
    match noticeMbox off with
    | some m => if width = 64 then mailboxPost fn m v b else b
    | none =>
      if fn = 0 ∧ off = 0x4210 then lanternDump (if width = 64 then v else (v.extractLsb' 0 32).setWidth 64) b
      else if fn = 0 ∧ off = 0x4214 then lanternDump (v.extractLsb' 0 32 ++ 0#32) b
      else byWords (regWord fn) b off width v

/-- REGISTER_WRITE. -/
def execRegisterWrite (fn offset width : Nat) (value : BitVec 64) (s : State) : Host.Outcome State Fault Refusal :=
  onBlock (registerWrite fn offset width value) s

/-! ## JTAG (R387, R463) -/

/-- Whether an instruction is one of the debug instructions, which open at debug unlock. -/
def debugInst : JtagInst → Bool
  | .other _ => true
  | _ => false

/-- The TAP's instruction register; IDCODE selects the identity register, and while debug is locked every instruction R387 does
not name acts as BYPASS. -/
def jtagInst (inst : JtagInst) (b : Block) : Block :=
  let i := if debugInst inst then .bypass else inst
  let b1 := { b with jtag := { b.jtag with inst := i } }
  if i = .idcode then offer b1 (.tdo 0x1A712C4D) else b1

/-- JTAG_INSTRUCTION. -/
def execJtagInstruction (inst : JtagInst) (s : State) : Host.Outcome State Fault Refusal :=
  if s.blk.jtag.debugOpen && debugInst inst then .refused .debugInstruction else onBlock (jtagInst inst) s

end Sys2Proof.Machine
end

