-- ==== Sys2Proof/Machine/Spdm.lean ====
section
/-!
DEFINITION. The Grotto as an SPDM responder (R366 to R370) and its vendor-defined requests (R371, R372, R388). A request acts on
the message its mailbox's receiver has taken; responses are kept decoded, their bytes being those of DSP0274 (log entry 16).
-/

namespace Sys2Proof.Machine

open Sys2Proof

/-! ## Requests and sessions -/

/-- The message the receiver of a function's secure mailbox handles. -/
def grTaken (b : Block) (fn : Nat) : Option Taken := if alive b then (mboxAt b fn .gr).taken else none

/-- Whether the taken message is a secured one of an established session (R371). -/
def inSession (b : Block) (fn : Nat) : Bool :=
  match (grTaken b fn).bind (itsSession b fn) with
  | some s => s.established
  | none => false

/-- A request answered: `act` acts and gives the response. -/
def answer (b : Block) (fn : Nat) (act : Block → Block × GrottoReply) : Block :=
  match grTaken b fn with
  | none => b
  | some _ => grReply (act b).1 fn (act b).2

/-- A request that is accepted only inside a session (R371). -/
def answerIn (b : Block) (fn : Nat) (act : Block → Block × GrottoReply) : Block :=
  answer b fn (fun c => if inSession c fn then act c else (c, .unexpectedRequest))

/-- A request of the negotiated algorithms, refused before a negotiation has chosen them (R368; log entry 122). -/
def answerWith (b : Block) (fn : Nat) (act : Block → Block × GrottoReply) : Block :=
  answer b fn (fun c => if tabGetD c.grotto.negotiated fn false then act c else (c, .unexpectedRequest))

/-- A signature of the attestation key (R361). -/
def attested (g : Grotto) (bs : List Byte) : BitVec 768 := Config.sign (g.attestKey.getD 0) bs

/-! ## Version, capabilities, algorithms -/

/-- GET_VERSION: SPDM 1.2 (R368). -/
def getVersion (fn : Nat) (b : Block) : Block := answer b fn (fun c => (c, .version))

/-- GET_VERSION. -/
def execGetVersion (fn : Nat) (s : State) : Host.Outcome State Fault Refusal := onBlock (getVersion fn) s

/-- What the Grotto can do: signed measurements, none of them fresh, and no mutual authentication, pre-shared key or heartbeat
(R368). -/
def spdmCaps : SpdmCaps :=
  { signedMeasurements := true, freshMeasurements := false, mutualAuth := false, preShared := false, heartbeat := false }

/-- GET_CAPABILITIES: both sizes are 4,080 bytes (R400). -/
def getCapabilities (fn : Nat) (b : Block) : Block := answer b fn (fun c => (c, .capabilities spdmCaps 4080 4080))

/-- GET_CAPABILITIES. -/
def execGetCapabilities (fn : Nat) (s : State) : Host.Outcome State Fault Refusal := onBlock (getCapabilities fn) s

/-- The algorithms of R368. -/
def spdmAlgs : List SpdmAlg := [.ecdsaP384, .sha384, .ecdheSecp384r1, .aes256Gcm, .spdmSchedule]

/-- NEGOTIATE_ALGORITHMS: R368's algorithms and no others; `offered` says whether the requester offers them. -/
def negotiate (fn : Nat) (offered : Bool) (b : Block) : Block :=
  answer b fn (fun c =>
    (setGrotto c (fun g => { g with negotiated := tabSet g.negotiated fn offered }), .algorithms (if offered then spdmAlgs else [])))

/-- NEGOTIATE_ALGORITHMS. -/
def execNegotiateAlgorithms (fn : Nat) (offered : Bool) (s : State) : Host.Outcome State Fault Refusal :=
  onBlock (negotiate fn offered) s

/-! ## Certificates and measurements -/

/-- Slot 0: the delivered chain, the alias and the attestation certificate (R366). -/
def slot0 (g : Grotto) : List Byte := g.chain.getD [] ++ g.aliasCert ++ g.attestCert

/-- GET_DIGESTS. -/
def getDigests (fn : Nat) (b : Block) : Block := answerWith b fn (fun c => (c, .digests (Config.sha384 (slot0 c.grotto))))

/-- GET_DIGESTS. -/
def execGetDigests (fn : Nat) (s : State) : Host.Outcome State Fault Refusal := onBlock (getDigests fn) s

/-- Most certificate bytes of one response: 4,080 less a response header of 8 bytes (R400; log entry 16). -/
def certPortion : Nat := 4072

/-- GET_CERTIFICATE: a portion of slot 0, and how much is left. -/
def getCertificate (fn : Nat) (offset length : BitVec 16) (b : Block) : Block :=
  answerWith b fn (fun c =>
    let rest := (slot0 c.grotto).drop offset.toNat
    let part := rest.take (min length.toNat certPortion)
    (c, .certificate part (rest.length - part.length)))

/-- GET_CERTIFICATE. -/
def execGetCertificate (fn : Nat) (offset length : BitVec 16) (s : State) : Host.Outcome State Fault Refusal :=
  onBlock (getCertificate fn offset length) s

/-- CHALLENGE: a response signed over the nonce and the digest of slot 0. -/
def challenge (fn : Nat) (nonce : BitVec 256) (b : Block) : Block :=
  answerWith b fn (fun c =>
    (c, .challengeAuth (attested c.grotto (leBytes 32 nonce.toNat ++ digestBytes (Config.sha384 (slot0 c.grotto))))))

/-- CHALLENGE. -/
def execChallenge (fn : Nat) (nonce : BitVec 256) (s : State) : Host.Outcome State Fault Refusal := onBlock (challenge fn nonce) s

/-- The digest served for a base set: that of a READY set, or 48 zero bytes (R367). -/
def servedDigest (b : Block) (i : Nat) : List Byte :=
  match tabGet b.dealer.bases i with
  | some s => if s.state = .ready then digestBytes s.digest else zeros 48
  | none => zeros 48

/-- The measurement blocks (R367), the base sets as they are now. -/
def measurements (b : Block) : List Measurement :=
  let g := b.grotto
  [⟨1, digestBytes Config.bootRomDigest⟩, ⟨2, digestBytes (g.m2.getD 0)⟩, ⟨3, digestBytes (g.m3.getD 0)⟩,
   ⟨4, digestBytes (g.m4.getD 0)⟩, ⟨5, digestBytes (g.m5.getD 0)⟩, ⟨6, [g.debugState]⟩,
   ⟨7, leBytes 2 0x0104 ++ leBytes 2 0x0102⟩] ++ (List.range 4).map (fun i => ⟨8 + i, servedDigest b i⟩)

/-- The blocks an index asks for: 0xFF all of them (log entry 16), any other the one of that index. -/
def measured (b : Block) (index : BitVec 8) : List Measurement :=
  if index = 0xFF then measurements b else (measurements b).filter (fun m => m.index == index.toNat)

/-- GET_MEASUREMENTS: signed. -/
def getMeasurements (fn : Nat) (index : BitVec 8) (nonce : BitVec 256) (b : Block) : Block :=
  answerWith b fn (fun c =>
    let ms := measured c index
    (c, .measurements ms (attested c.grotto (leBytes 32 nonce.toNat ++ ms.flatMap (fun m => m.content)))))

/-- GET_MEASUREMENTS. -/
def execGetMeasurements (fn : Nat) (index : BitVec 8) (nonce : BitVec 256) (s : State) : Host.Outcome State Fault Refusal :=
  onBlock (getMeasurements fn index nonce) s

/-! ## Sessions (R369, R370) -/

/-- KEY_EXCHANGE: a session opens on the mailbox in place of any earlier one. -/
def keyExchange (fn : Nat) (session : BitVec 16) (exchange : BitVec 768) (b : Block) : Block :=
  answerWith b fn (fun c =>
    let r := draw (endSessionOf c fn)
    let own := Config.exchangeData r.2
    let s : Session := ⟨session, Config.sessionSecret exchange r.2, false, 0⟩
    (setGrotto r.1 (fun g => { g with sessions := tabSet g.sessions fn s }),
     .keyExchangeRsp session own (attested c.grotto (leBytes 96 exchange.toNat ++ leBytes 96 own.toNat))))

/-- KEY_EXCHANGE. -/
def execKeyExchange (fn : Nat) (session : BitVec 16) (exchange : BitVec 768) (s : State) : Host.Outcome State Fault Refusal :=
  onBlock (keyExchange fn session exchange) s

/-- A session is complete; on a VF's mailbox it gives the partition session key, and the last import nonce is zero (R370). -/
def sessionUp (b : Block) (fn : Nat) (s : Session) : Block :=
  setGrotto b (fun g =>
    let g1 := { g with sessions := tabSet g.sessions fn { s with established := true } }
    if fn = 0 then g1
    else { g1 with sessionKeys := tabSet g1.sessionKeys fn (importKey s.secret), lastNonce := tabDel g1.lastNonce fn })

/-- FINISH, in the session it completes. -/
def finishSession (fn : Nat) (mac : BitVec 384) (b : Block) : Block :=
  answer b fn (fun c =>
    match (grTaken c fn).bind (itsSession c fn) with
    | some s =>
      if s.established = true then (c, .unexpectedRequest)
      else if Config.finishVerifies s.secret mac then (sessionUp c fn s, .finishRsp)
      else (c, .decryptError)
    | none => (c, .unexpectedRequest))

/-- FINISH. -/
def execFinish (fn : Nat) (mac : BitVec 384) (s : State) : Host.Outcome State Fault Refusal := onBlock (finishSession fn mac) s

/-- The secrets of a session updated. -/
def updateSession (s : Session) : Session := { s with secret := Config.updateSecret s.secret, updates := s.updates + 1 }

/-- KEY_UPDATE. -/
def keyUpdate (fn : Nat) (b : Block) : Block :=
  answerIn b fn (fun c => (setGrotto c (fun g => { g with sessions := tabMod g.sessions fn updateSession }), .keyUpdateAck))

/-- KEY_UPDATE. -/
def execKeyUpdate (fn : Nat) (s : State) : Host.Outcome State Fault Refusal := onBlock (keyUpdate fn) s

/-- END_SESSION: answered in the session that it ends. -/
def endSession (fn : Nat) (b : Block) : Block :=
  if inSession b fn then endSessionOf (grReply b fn .endSessionAck) fn else answer b fn (fun c => (c, .unexpectedRequest))

/-- END_SESSION. -/
def execEndSession (fn : Nat) (s : State) : Host.Outcome State Fault Refusal := onBlock (endSession fn) s

/-! ## Vendor-defined requests (R371) -/

def vendorDone : BitVec 8 := 0x00
def vendorNotPermitted : BitVec 8 := 0x01
def vendorInvalid : BitVec 8 := 0x02

/-- Whether a VF is ABSENT or in CONFIG_UNLOCKED (R372). -/
def interfaceFree (b : Block) (vf : Nat) : Bool := !grPresent b vf

/-- SET_MIGRATION_KEY (R372). -/
def setMigrationKey (fn : Nat) (vf : BitVec 8) (key : BitVec 256) (b : Block) : Block :=
  answerIn b fn (fun c =>
    let v := vf.toNat
    if v = 0 ∨ 63 < v then (c, .vendor vendorInvalid)
    else if fn = v ∨ (fn = 0 ∧ interfaceFree c v = true) then
      (setGrotto c (fun g => { g with migrationKeys := tabSet g.migrationKeys v key }), .vendor vendorDone)
    else (c, .vendor vendorNotPermitted))

/-- SET_MIGRATION_KEY. -/
def execSetMigrationKey (fn : Nat) (vf : BitVec 8) (key : BitVec 256) (s : State) : Host.Outcome State Fault Refusal :=
  onBlock (setMigrationKey fn vf key) s

/-- Functions that are not ABSENT. -/
def presentFns (b : Block) : List Nat := (b.fns.filter (fun (e : Nat × Fn) => e.2.state != .absent)).map (fun e => e.1)

/-- The block halts: every function that is not ABSENT enters HALTED (R388). -/
def haltAll (b : Block) : Block :=
  let b1 := (presentFns b).foldl (fun c f => setFnState c f .halted) b
  { b1 with recov := { b1.recov with halted := true } }

/-- Stages 1 to 3 of R386 at once: every partition destroyed, all memory zeroed, the keys destroyed. -/
def eraseAll (b : Block) : Block :=
  unlockKeys (unlockMemory (b.parts.foldl (fun c (e : Nat × Part) => removePart c e.1 e.2) b))

/-- DECOMMISSION (R388): it answers before it halts. -/
def decommission (fn : Nat) (b : Block) : Block :=
  if inSession b fn && fn == 0 && b.grotto.grant then haltAll (eraseAll (useGrant (grReply b 0 (.vendor vendorDone))))
  else answerIn b fn (fun c => (c, .vendor vendorNotPermitted))

/-- DECOMMISSION. -/
def execDecommission (fn : Nat) (s : State) : Host.Outcome State Fault Refusal := onBlock (decommission fn) s

end Sys2Proof.Machine
end

