-- ==== Sys2Proof/Machine/Tdisp.lean ====
section
/-!
DEFINITION. TDISP (R373 to R376) and IDE_KM with the key port (R378, R379, R454).
-/

namespace Sys2Proof.Machine

open Sys2Proof

/-! ## The interface report (R375) -/

/-- The calendar tables of a partition's quads, ascending, 2,000 bytes each. -/
def tableBytes (t : Tab (BitVec 6)) (d : PartDesc) : List Byte :=
  d.quads.flatMap (fun q => (List.range 1000).flatMap (fun i => leBytes 2 (tabGetD t (q * 1000 + i) 0).toNat))

/-- The device-specific part of the report. -/
def reportBytes (b : Block) (p : Part) (stream : BitVec 8) : List Byte :=
  padTo 256 p.desc.raw ++ (List.range 16).flatMap (fun i => leBytes 8 (s2Entry p i).w0.toNat ++ leBytes 8 (s2Entry p i).w1.toNat) ++
  digestBytes (Config.sha384 (tableBytes b.cal.active p.desc)) ++ digestBytes (Config.sha384 (tableBytes b.cal.staged p.desc)) ++
  leBytes 4 p.desc.baseSet.toNat ++ leBytes 4 stream.toNat ++ zeros 408

/-! ## TDISP requests, in the PF0 session -/

/-- Whether an identity names a stream that the key port reports as secure. -/
def streamOk (g : Grotto) (stream : BitVec 8) : Bool :=
  (List.range 4).any (fun i => g.streamSecure.getLsbD i && (g.streamIds.extractLsb' (8 * i) 8) == stream)

/-- Whether a lock meets R374; during a DEBUG_UNLOCK it does not (R391). -/
def lockOk (b : Block) (vf : Nat) (p : Part) (stream : BitVec 8) : Bool :=
  (fnAt b vf).state == .ready && !p.desc.diagnostic && b.grotto.debugState == 0 && !b.grotto.unlocking && streamOk b.grotto stream

/-- LOCK_INTERFACE_REQUEST (R373 to R375). -/
def lockInterface (vf stream : BitVec 8) (b : Block) : Block :=
  answerIn b 0 (fun c =>
    match tabGet c.grotto.tdisp vf.toNat, partAt c vf.toNat with
    | some t, some p =>
      if t.state = .unlocked ∧ lockOk c vf.toNat p stream = true then
        (setTdisp c vf.toNat (fun _ => ⟨.locked, stream, reportBytes c p stream⟩), .tdispOk)
      else (c, .tdispError)
    | _, _ => (c, .tdispError))

/-- LOCK_INTERFACE_REQUEST. -/
def execLockInterfaceRequest (vf stream : BitVec 8) (s : State) : Host.Outcome State Fault Refusal :=
  onBlock (lockInterface vf stream) s

/-- START_INTERFACE_REQUEST (R373). -/
def startInterface (vf : BitVec 8) (b : Block) : Block :=
  answerIn b 0 (fun c =>
    match tabGet c.grotto.tdisp vf.toNat with
    | some t => if t.state = .locked then (setTdisp c vf.toNat (fun x => { x with state := .run }), .tdispOk) else (c, .tdispError)
    | none => (c, .tdispError))

/-- START_INTERFACE_REQUEST. -/
def execStartInterfaceRequest (vf : BitVec 8) (s : State) : Host.Outcome State Fault Refusal := onBlock (startInterface vf) s

/-- Whether a STOP scrub may begin: the interface is not unlocked, and no PART_DESTROY of it runs (R373, R391). -/
def stopOk (b : Block) (vf : Nat) : Bool :=
  match partAt b vf with
  | some p => grPresent b vf && p.ending.isNone
  | none => false

/-- A STOP scrub begins: the contexts are aborted without records; their objects follow once they have stopped (R376). -/
def beginScrub (b : Block) (vf : Nat) : Block :=
  let b1 := abortCtxs (suppressCmds b (fun c => c.q.fn == vf && c.q.tag != 0)) vf
  modPart b1 vf (fun p => { p with ending := some (.scrub true) })

/-- Whether a PART_DESTROY of a VF runs. -/
def destroyRuns (b : Block) (vf : Nat) : Bool :=
  match partAt b vf with
  | some p => (match p.ending with
    | some (.destroy _ _) => true
    | _ => false)
  | none => false

/-- STOP_INTERFACE_REQUEST (R373, R376): the response follows the scrub; while a PART_DESTROY runs the interface does not exist
(R391). -/
def stopInterface (vf : BitVec 8) (b : Block) : Block :=
  if inSession b 0 && stopOk b vf.toNat then settle (beginScrub b vf.toNat)
  else answerIn b 0 (fun c => (c, if destroyRuns c vf.toNat then .tdispAbsent else .tdispError))

/-- STOP_INTERFACE_REQUEST. -/
def execStopInterfaceRequest (vf : BitVec 8) (s : State) : Host.Outcome State Fault Refusal := onBlock (stopInterface vf) s

/-- GET_DEVICE_INTERFACE_STATE (R373). -/
def interfaceState (vf : BitVec 8) (b : Block) : Block :=
  answerIn b 0 (fun c => (c, match tabGet c.grotto.tdisp vf.toNat with
    | some t => .tdispState t.state
    | none => .tdispError))

/-- GET_DEVICE_INTERFACE_STATE. -/
def execGetDeviceInterfaceState (vf : BitVec 8) (s : State) : Host.Outcome State Fault Refusal := onBlock (interfaceState vf) s

/-- Size of a VF's BAR0, the one MMIO range of its report (R375). -/
def bar0Bytes : Nat := 65536

/-- GET_DEVICE_INTERFACE_REPORT (R375). -/
def interfaceReport (vf : BitVec 8) (b : Block) : Block :=
  answerIn b 0 (fun c => (c, match tabGet c.grotto.tdisp vf.toNat with
    | some t => .tdispReport vf.toNat bar0Bytes t.report
    | none => .tdispError))

/-- GET_DEVICE_INTERFACE_REPORT. -/
def execGetDeviceInterfaceReport (vf : BitVec 8) (s : State) : Host.Outcome State Fault Refusal := onBlock (interfaceReport vf) s

/-! ## IDE_KM (R378, R379, R454) -/

/-- Whether the taken message is of the PF0 session. -/
def inPf0Session (b : Block) (fn : Nat) : Bool := fn == 0 && inSession b 0

/-- QUERY: the number of streams supported. -/
def ideQuery (fn : Nat) (b : Block) : Block :=
  answer b fn (fun c => (c, if inPf0Session c fn then .ideStreams 4 else .unexpectedRequest))

/-- IDE_KM_QUERY. -/
def execIdeKmQuery (fn : Nat) (s : State) : Host.Outcome State Fault Refusal := onBlock (ideQuery fn) s

/-- KP_CMD. -/
def keyCmd (stream : BitVec 8) (keySet : Bool) (sub : BitVec 2) (transmit : Bool) (op : BitVec 4) : BitVec 32 :=
  stream ++ BitVec.ofBool keySet ++ sub ++ BitVec.ofBool transmit ++ op ++ (0 : BitVec 16)

/-- Streams with programmed keys. -/
def ideStreams (g : Grotto) : List (BitVec 8) := (g.ide.map (fun k => k.stream)).eraseDups

/-- The entry of a key set in a sub-stream and direction. -/
def sameKey (stream : BitVec 8) (keySet : Bool) (sub : BitVec 2) (transmit : Bool) (k : IdeKey) : Bool :=
  k.stream == stream && k.keySet == keySet && k.sub == sub && k.transmit == transmit

/-- Whether a key may be programmed: a known sub-stream of no fifth stream (R378). -/
def keyAllowed (g : Grotto) (stream : BitVec 8) (sub : BitVec 2) : Bool :=
  sub != 3 && ((ideStreams g).contains stream || decide ((ideStreams g).length < 4))

/-- KEY_PROG: the key and its IV go out on the key port, and the Grotto keeps no copy; a command the controller rejects gives the
failure status. -/
def keyProg (fn : Nat) (stream : BitVec 8) (keySet : Bool) (sub : BitVec 2) (transmit : Bool) (key : BitVec 256) (iv : BitVec 96)
    (accepted : Bool) (b : Block) : Block :=
  answer b fn (fun c =>
    if inPf0Session c fn && keyAllowed c.grotto stream sub then
      let c1 := offer c (.key (keyCmd stream keySet sub transmit 1) key iv)
      if accepted then
        (setGrotto c1 (fun g => { g with ide := g.ide.filter (fun k => !sameKey stream keySet sub transmit k) ++
                                                 [⟨stream, keySet, sub, transmit, false⟩] }), .ideOk)
      else (c1, .ideFail)
    else (c, .ideFail))

/-- KEY_PROG. -/
def execKeyProg (fn : Nat) (stream : BitVec 8) (keySet : Bool) (sub : BitVec 2) (transmit : Bool) (key : BitVec 256)
    (iv : BitVec 96) (accepted : Bool) (s : State) : Host.Outcome State Fault Refusal :=
  onBlock (keyProg fn stream keySet sub transmit key iv accepted) s

/-- The VFs whose bound stream the key port does not report as secure break (R376). -/
def breakInsecure (b : Block) : Block :=
  ((b.grotto.tdisp.filter (fun (e : Nat × Tdisp) => !streamOk b.grotto e.2.stream)).map (fun e => e.1)).foldl tdispError b

/-- KP_STREAM_ID and KP_STREAM_SECURE as they stand. -/
def portReport (b : Block) (ids : BitVec 32) (secure : BitVec 4) : Block :=
  breakInsecure (setGrotto b (fun g => { g with streamIds := ids, streamSecure := secure }))

/-- A K_SET_GO or K_SET_STOP: the command goes out on the key port, whose report of its streams follows. -/
def keySetCmd (fn : Nat) (stream : BitVec 8) (keySet : Bool) (sub : BitVec 2) (transmit : Bool) (go accepted : Bool) (ids : BitVec 32)
    (secure : BitVec 4) (b : Block) : Block :=
  answer b fn (fun c =>
    if !inPf0Session c fn then (c, .unexpectedRequest)
    else if sub = 3 then (c, .ideFail)
    else
      let c1 := portReport (offer c (.key (keyCmd stream keySet sub transmit (if go then 2 else 3)) 0 0)) ids secure
      if accepted then
        (setGrotto c1 (fun g => { g with ide := g.ide.map (fun k => if sameKey stream keySet sub transmit k then { k with go := go } else k) }),
         .ideOk)
      else (c1, .ideFail))

/-- K_SET_GO. -/
def execKSetGo (fn : Nat) (stream : BitVec 8) (keySet : Bool) (sub : BitVec 2) (transmit : Bool) (accepted : Bool) (ids : BitVec 32)
    (secure : BitVec 4) (s : State) : Host.Outcome State Fault Refusal :=
  onBlock (keySetCmd fn stream keySet sub transmit true accepted ids secure) s

/-- K_SET_STOP. -/
def execKSetStop (fn : Nat) (stream : BitVec 8) (keySet : Bool) (sub : BitVec 2) (transmit : Bool) (accepted : Bool) (ids : BitVec 32)
    (secure : BitVec 4) (s : State) : Host.Outcome State Fault Refusal :=
  onBlock (keySetCmd fn stream keySet sub transmit false accepted ids secure) s

/-- STREAM_INSECURE: the secure bit of one of the controller's streams falls. -/
def execStreamInsecure (index : BitVec 2) (s : State) : Host.Outcome State Fault Refusal :=
  onBlock (fun b =>
    if alive b then portReport b b.grotto.streamIds (b.grotto.streamSecure &&& ~~~(1#4 <<< index.toNat)) else b) s

end Sys2Proof.Machine
end

