-- ==== Sys2Proof/Machine/Errors.lean ====
section
/-!
DEFINITION. Faults that come from outside the cores: fatal ones (R413, R424), those of attached engines (R192), and host-port errors
by the access they belong to (R304, R396, R405, R412, R466, R469).
-/

namespace Sys2Proof.Machine

open Sys2Proof

/-! ## FATAL_FAULT -/

def fatalCode : FatalReason → Nat
  | .dealerFirmware => 1
  | .grottoFirmware => 2
  | .internalMemory => 3
  | .dieLinkLost => 4
  | .farChannelLost => 5

/-- Whether the block sends a message-signalled interrupt. -/
def isMessage : PortOut → Bool
  | .msix _ _ => true
  | _ => false

/-- The kind-7 record, written without a message of its own: vector 0 is sent once at a fatal fault (R424). -/
def fatalRecord (b : Block) (reason : FatalReason) : Block :=
  let b1 := faultRecord b ⟨7, fatalCode reason, stStepLost, 0, 0, 0, false, 0, 0, 0, 0⟩
  { b1 with out := b.out ++ (b1.out.drop b.out.length).filter (fun o => !isMessage o) }

/-- A function that is not ABSENT enters HALTED, and its vector 0 is sent whatever its mask (R424). -/
def haltFn (b : Block) (fn : Nat) : Block :=
  let b1 := modFn b fn (fun x => { x with state := .halted, intCause := x.intCause ||| BitVec.ofNat 11 (2 ^ cStateChange) })
  offer b1 (.msix fn 0)

/-- GR_BOOT_STATUS.error 7 for a fault of the Grotto before bring-up is complete (R403; log entry 54). -/
def grottoError (b : Block) (reason : FatalReason) : Block :=
  if reason = .grottoFirmware ∧ b.boot.stage ≠ 8 then { b with boot := { b.boot with error := 7, part := 0 } } else b

/-- A fatal fault in its tick: the record is written when the host port still works. -/
def fatalFault (reason : FatalReason) (portWorks : Bool) (b : Block) : Block :=
  if alive b then
    let b1 := (presentFns b).foldl haltFn (grottoError (if portWorks then fatalRecord b reason else b) reason)
    { b1 with recov := { b1.recov with halted := true } }
  else b

/-- FATAL_FAULT. -/
def execFatalFault (cause : FatalCause) (s : State) : Host.Outcome State Fault Refusal :=
  onBlock (fatalFault cause.reason cause.portWorks) s

/-! ## ENGINE_FAULT -/

/-- The engine whose unit starts at a position. -/
def engineUnit (b : Block) (unit : Nat) : Option Engine :=
  b.boot.engines.find? (fun e =>
    decide (e.base ≤ unit) && decide (unit < e.base + enginePositions e) && (unit - e.base) % 4 ^ e.order == 0)

/-- The command field of the step whose trick runs on a unit, zero if none does (R413). -/
def runningCommand (b : Block) (unit : Nat) : Nat :=
  match b.dealer.running.find? (fun u => u.base == unit) with
  | some u => (match stepById b u.step with
    | some s => commandField s.cid s.cq
    | none => 0)
  | none => 0

/-- An EA_FAULT pulse of an engine unit: a block fault attributed to no context, in every tick, those before the time base starts
among them (R192, R460). -/
def engineFault (unit : Nat) (b : Block) : Block :=
  if alive b && b.tb.boundaryDone then
    match engineUnit b unit with
    | none => b
    | some e =>
      let mask := sum ((rangeFrom unit (4 ^ e.order)).map (fun i => 2 ^ i))
      blockFault b ⟨4, 1, stStepLost, 0, 0, 0, false, 0, runningCommand b unit, 0, mask⟩
  else b

/-- ENGINE_FAULT. -/
def execEngineFault (unit : Nat) (s : State) : Host.Outcome State Fault Refusal := onBlock (engineFault unit) s

/-! ## HOST_PORT_ERROR -/

/-- The page of a bus address. -/
def pageOf (a : Nat) : Nat := a / 4096 * 4096

/-- The kind-1 record of a host-port error (R302). -/
def hostRecord (b : Block) (vf tag : Nat) (write : Bool) (address command agents : Nat) : Block :=
  faultRecord b ⟨1, 4, stTranslationFault, tag, vf, 3, write, address, command, agents, 0⟩

/-- A context whose ring, fence page or mover command met the error is LOST, and the manager has a record (R273, R304). -/
def hostLoses (b : Block) (tag : Nat) (write : Bool) (address command agents : Nat) : Block :=
  match ctxAt b tag with
  | none => b
  | some c => loseCtx (hostRecord b c.fn tag write (pageOf address) command agents) tag stTranslationFault

/-- An error on an admin ring (R224, R466): fetch of the function stops as if enable were written 0. -/
def adminError (b : Block) (fn : Nat) (write : Bool) (address command : Nat) : Block :=
  let b1 := hostRecord b fn 0 write (pageOf address) command agFrontEnd
  stopFn (modFn b1 fn (fun x => { x with aqHostError := true })) fn

/-- An access to a fence page fails; that of a LOST context is not accessed any more (R255, R273). A failed swap may have been made
(R450). -/
def fenceError (tag address command : Nat) (write : Bool) (b : Block) : Block :=
  match ctxAt b tag with
  | some c =>
    if c.state = .live then
      settle (hostLoses (if write then blurBytes (hostAt c.fn (address / 8 * 8)) 8 b else b) tag write address command agDealer)
    else b
  | none => b

/-- The write of a command's record fails (R450). -/
def recordFails (c : Cmd) (b : Block) : Block :=
  match cqOf b c.q c.cq, recordOf b c with
  | some cq, some (st, detail) => failWrite (recordKey c.q.fn cq) (recordAt b c cq st detail) b
  | _, _ => b

/-- The read of the next admin SQ entry fails: the command is not executed. -/
def adminSqError (fn : Nat) (b : Block) : Block :=
  let q : QRef := ⟨fn, 0, 0⟩
  if canFetch b q then adminError (takeEntry b q) fn false ((fnAt b fn).aqSqBase.toNat + 64 * (fnAt b fn).sqHead) 0 else b

/-- The write of the next admin CQ record fails: the command has taken its effect and has no record. -/
def adminCqError (fn : Nat) (b : Block) : Block :=
  match nextRecord b fn with
  | some c =>
    if ticking b && c.q.tag == 0 then
      let b1 := adminError (recordFails c b) fn true ((fnAt b fn).aqCqBase.toNat + 32 * (fnAt b fn).cqTail) (commandField c.cid c.cq)
      settle (noteEnded (dropCmd b1 c.id) c.id)
    else b
  | none => b

/-- The read of the next entry of a context SQ fails: its head passes the entry (R469). -/
def contextSqError (q : QRef) (b : Block) : Block :=
  if canFetch b q && q.tag != 0 then
    let a := match sqOf b q with
      | some s => s.base.toNat + 64 * s.head
      | none => 0
    settle (hostLoses (takeEntry b q) q.tag.toNat false a 0 agFrontEnd)
  else b

/-- The write of the next record of a context CQ fails: the command has taken its effect and has no record. -/
def contextCqError (fn : Nat) (tag : BitVec 16) (cq : Nat) (b : Block) : Block :=
  match nextRecord b fn with
  | some c =>
    if ticking b && c.q.tag == tag && c.q.tag != 0 && c.cq == cq then
      let a := match cqOf b c.q cq with
        | some x => x.base.toNat + 32 * x.tail
        | none => 0
      let b1 := dropCmd (retireStep (recordFails c b) c.id) c.id
      settle (noteEnded (hostLoses b1 tag.toNat true a (commandField c.cid c.cq) agFrontEnd) c.id)
    else b
  | none => b

/-- Whether a command of R295 still moves tiles: a PLAN_LOAD does until its copy has ended. -/
def stillMoves : CmdStage → Bool
  | .mover _ => true
  | .planLoad _ _ _ _ _ .queued => true
  | .planLoad _ _ _ _ _ (.copying _) => true
  | _ => false

/-- A tile of a context's command of R295 fails. -/
def moverError (fn : Nat) (tag cid : BitVec 16) (address : Nat) (write : Bool) (b : Block) : Block :=
  match b.dealer.cmds.find? (fun c => c.q.fn == fn && c.q.tag == tag && c.cid == cid && stillMoves c.stage) with
  | some c => settle (hostLoses b tag.toNat write address (commandField c.cid c.cq) agMover)
  | none => b

/-- A tile of a step's staging fails: a block fault of the step's context. -/
def stagingError (fn address : Nat) (b : Block) : Block :=
  match (sortBy (fun (s : Step) => (s.pinnedAt.getD 0).toNat) (b.dealer.steps.filter (fun s => s.fn == fn && s.stage == .staging))).head? with
  | some s =>
    if ticking b && b.tb.boundaryDone then
      settle (blockFault b ⟨1, 4, stTranslationFault, s.tag.toNat, s.fn, 3, false, pageOf address, commandField s.cid s.cq, agMover, 0⟩)
    else b
  | none => b

/-- The opcodes whose bus parameter the manager's front end reads at fetch. -/
def readsParameter (op : BitVec 8) : Bool := op == 0x80 || op == 0x88 || op == 0x90 || op == 0x84

/-- A command fetched now whose access to host memory fails: it ends so, with no other effect. -/
def fetchFails (i : Instr) (h : Hdr) (op : BitVec 8) (own : Nat → Block → Block) (b : Block) : Block :=
  let q : QRef := ⟨0, 0, 0⟩
  if canFetch b q && cqHasRoom b q (recordCq b q h).1 then settle (fetchPacket i q h op own b) else b

/-- The BASE_LOAD in progress fails as on a digest mismatch, with its own status (R349, R466). -/
def baseLoadError (b : Block) : Block :=
  match b.dealer.cmds.findSome? (fun c => match c.stage with
    | .baseLoad i _ _ => some (c.id, i)
    | _ => none) with
  | some (id, i) => finish (baseFails b id i) id stTranslationFault 0
  | none => b

/-- A read of a bus parameter fails. -/
def parameterError (i : Instr) (h : Hdr) (op : BitVec 8) (b : Block) : Block :=
  if op = 0x90 ∧ b.dealer.cmds.any (fun c => match c.stage with
      | .baseLoad _ _ _ => true
      | _ => false) then settle (baseLoadError b)
  else if readsParameter op then fetchFails i h op (fun id c => finish c id stTranslationFault 0) b
  else b

/-- A write of the image of a PART_SAVE fails: it ends, the image's bytes are undefined, the partition stays FROZEN, and the cipher
engine's register is erased (R361, R466). -/
def saveImageError (vf : Nat) (b : Block) : Block :=
  match b.dealer.cmds.findSome? (fun c => match c.stage with
    | .saving v a left _ => if v = vf then some (c, a + left.length) else none
    | _ => none) with
  | some (c, upTo) =>
    let image := match c.packet with
      | .partSave _ _ _ image _ => image.toNat
      | _ => upTo
    let b1 := modMem b (fun m => { m with host := memWriteN m.host image (unknownBytes b.freeCtr (upTo - image)) })
    settle (eraseKeys (finish { b1 with freeCtr := b.freeCtr + (upTo - image) } c.id stTranslationFault 0))
  | none => b

/-- The last record of a ring was not written after all: it counts as dropped, and its entry is the next one's (R466). -/
def unwrite (r : AcRing) : AcRing :=
  if !r.enable then r
  else ringDrop (if r.tail = r.head then r else { r with tail := BitVec.ofNat 16 ((r.tail.toNat + ringEntries r - 1) % ringEntries r) })

/-- The read of a notice's buffer fails (step 2 of R396): the receiver stops acting on the message. -/
def mailboxError (fn : Nat) (m : MboxSel) (b : Block) : Block :=
  if takes b fn m || (mboxAt b fn m).taken.isSome then accessFails b fn m else b

/-- A write of the reply to a notice will fail (step 4 of R396). -/
def replyError (fn : Nat) (m : MboxSel) (write : Nat) (b : Block) : Block :=
  if takes b fn m || (mboxAt b fn m).taken.isSome then modMbox b fn m (fun x => { x with replyLost := some write }) else b

/-- The write of the last record of the fault ring failed: it is not one of the tick's records in the ring any more. -/
def faultRingError (b : Block) : Block :=
  let r := unwrite b.acct.fault
  let b1 := if b.acct.fault.enable then blurBytes (r.base.toNat + 256 * r.tail.toNat) 256 b else b
  { setFaultRing b1 r with recov := { b1.recov with recentKept := b1.recov.recentKept - 1 } }

/-- The write of the last record of the accounting ring failed. -/
def acctRingError (b : Block) : Block :=
  let r := unwrite b.acct.ring
  setAcctRing (if b.acct.ring.enable then blurBytes (r.base.toNat + 128 * r.tail.toNat) 128 b else b) r

/-- The write of the next tile of a Lantern dump fails: the dump stops (R466). -/
def dumpError (b : Block) : Block :=
  let l := b.lantern
  if l.dumping then
    let b1 := failWrite (l.dumpAddress.toNat + 4096 * l.dumped) (tileBytes b (ltBase l + 4096 * l.dumped)) b
    modLantern b1 (fun l => { l with dumping := false, result := 3 })
  else b

/-- The read of an image or chain that a recovery request names fails: MB_HOST_ACCESS, and the stage stays (R405, R406). -/
def bootImageError (b : Block) : Block :=
  match (mboxAt b 0 .rcv).taken with
  | some t => if (t.request = 3 ∧ b.boot.stage = 2) ∨ (t.request = 4 ∧ b.boot.stage = 3) ∨ (t.request = 7 ∧ b.boot.stage = 6)
      then rcvReply b mbHostAccess else b
  | none => b

/-- A failed or timed-out completion of the host port, by the access it belonged to. -/
def hostPortError (a : HostAccess) (b : Block) : Block :=
  if !alive b then b
  else
    match a with
    | .adminSq fn => adminSqError fn b
    | .adminCq fn => adminCqError fn b
    | .contextSq fn tag sq => contextSqError ⟨fn, tag, sq⟩ b
    | .contextCq fn tag cq => contextCqError fn tag cq.toNat b
    | .fencePage tag address command write => fenceError tag.toNat address.toNat command.toNat write b
    | .moverCommand fn tag cid address write => moverError fn tag cid address.toNat write b
    | .staging fn address => stagingError fn address.toNat b
    | .busParameter h op => parameterError (.hostPortError a) h op b
    | .saveImage vf => saveImageError vf b
    | .faultRing => faultRingError b
    | .acctRing => acctRingError b
    | .lanternDump => dumpError b
    | .mailbox fn m => mailboxError fn m b
    | .mailboxReply fn m write => replyError fn m write b
    | .bootImage => bootImageError b

/-- HOST_PORT_ERROR. -/
def execHostPortError (access : HostAccess) (s : State) : Host.Outcome State Fault Refusal := onBlock (hostPortError access) s

end Sys2Proof.Machine
end

