-- ==== Sys2Proof/Machine/Dispatch.lean ====
section
/-!
DEFINITION. What each command does: one arm per constructor of `Instr`, each a call of its meaning.
-/

namespace Sys2Proof.Machine

open Sys2Proof

/-- The effect of a command on the block: one arm per row of the table. -/
def exec (i : Instr) (s : State) : Host.Outcome State Fault Refusal :=
  match i with
  | .nop q h => Sys2Proof.Machine.execNop q h s
  | .memMap q h va bytes handle tier attrs page access objectOffset backing => Sys2Proof.Machine.execMemMap q h va bytes handle tier attrs page access objectOffset backing s
  | .memUnmap q h va bytes => Sys2Proof.Machine.execMemUnmap q h va bytes s
  | .memCopy q h srcVa dstVa bytes => Sys2Proof.Machine.execMemCopy q h srcVa dstVa bytes s
  | .memFill q h dstVa bytes pattern => Sys2Proof.Machine.execMemFill q h dstVa bytes pattern s
  | .memImport q h srcVa dstVa srcBytes formats flags => Sys2Proof.Machine.execMemImport q h srcVa dstVa srcBytes formats flags s
  | .memFree q h handle => Sys2Proof.Machine.execMemFree q h handle s
  | .planLoad q h va length => Sys2Proof.Machine.execPlanLoad q h va length s
  | .planUnload q h handle => Sys2Proof.Machine.execPlanUnload q h handle s
  | .stepCmd q h plan phase view bindingVa => Sys2Proof.Machine.execStepCmd q h plan phase view bindingVa s
  | .seqOpen q h f => Sys2Proof.Machine.execSeqOpen q h f s
  | .seqClose q h handle => Sys2Proof.Machine.execSeqClose q h handle s
  | .seqUpdate q h f mask handle => Sys2Proof.Machine.execSeqUpdate q h f mask handle s
  | .adapterBind q h va tiles flags => Sys2Proof.Machine.execAdapterBind q h va tiles flags s
  | .adapterRelease q h handle => Sys2Proof.Machine.execAdapterRelease q h handle s
  | .fenceSignal q h fence value => Sys2Proof.Machine.execFenceSignal q h fence value s
  | .fenceWait q h fence value => Sys2Proof.Machine.execFenceWait q h fence value s
  | .query q h kind resultVa => Sys2Proof.Machine.execQuery q h kind resultVa s
  | .queueCreate q h kind index level vector entriesLog2 ring => Sys2Proof.Machine.execQueueCreate q h kind index level vector entriesLog2 ring s
  | .queueDestroy q h kind index => Sys2Proof.Machine.execQueueDestroy q h kind index s
  | .ctxCreate q h fencePage fenceCount spill spillTiles => Sys2Proof.Machine.execCtxCreate q h fencePage fenceCount spill spillTiles s
  | .ctxDestroy q h => Sys2Proof.Machine.execCtxDestroy q h s
  | .partCreate q h vf descriptor => Sys2Proof.Machine.execPartCreate q h vf descriptor s
  | .partDestroy q h vf => Sys2Proof.Machine.execPartDestroy q h vf s
  | .partFreeze q h vf => Sys2Proof.Machine.execPartFreeze q h vf s
  | .partSave q h vf image capacity => Sys2Proof.Machine.execPartSave q h vf image capacity s
  | .partRestore q h vf image bytes => Sys2Proof.Machine.execPartRestore q h vf image bytes s
  | .partThaw q h vf => Sys2Proof.Machine.execPartThaw q h vf s
  | .calendarSet q h firstQuad quads table => Sys2Proof.Machine.execCalendarSet q h firstQuad quads table s
  | .baseLoad q h descriptor => Sys2Proof.Machine.execBaseLoad q h descriptor s
  | .baseRelease q h baseSet => Sys2Proof.Machine.execBaseRelease q h baseSet s
  | .debugUnlock q h => Sys2Proof.Machine.execDebugUnlock q h s
  | .completionRecordWrite fn => Sys2Proof.Machine.execCompletionRecordWrite fn s
  | .cqEntryReserve fn => Sys2Proof.Machine.execCqEntryReserve fn s
  | .fnEnable fn => Sys2Proof.Machine.execFnEnable fn s
  | .fnDisable fn => Sys2Proof.Machine.execFnDisable fn s
  | .stoppingDone fn => Sys2Proof.Machine.execStoppingDone fn s
  | .perFunctionReset fn flr => Sys2Proof.Machine.execPerFunctionReset fn flr s
  | .perFunctionResetComplete fn => Sys2Proof.Machine.execPerFunctionResetComplete fn s
  | .aqConfigWrite fn offset width value => Sys2Proof.Machine.execAqConfigWrite fn offset width value s
  | .sqDoorbell fn width value => Sys2Proof.Machine.execSqDoorbell fn width value s
  | .cqDoorbell fn width value => Sys2Proof.Machine.execCqDoorbell fn width value s
  | .fenceDoorbell fn width value => Sys2Proof.Machine.execFenceDoorbell fn width value s
  | .ppsPinWrite value => Sys2Proof.Machine.execPpsPinWrite value s
  | .tbNowLatch => Sys2Proof.Machine.execTbNowLatch s
  | .s2EntryRead value => Sys2Proof.Machine.execS2EntryRead value s
  | .s2EntryWrite value => Sys2Proof.Machine.execS2EntryWrite value s
  | .faultRingEnable value => Sys2Proof.Machine.execFaultRingEnable value s
  | .acctRingEnable value => Sys2Proof.Machine.execAcctRingEnable value s
  | .lanternEnable value => Sys2Proof.Machine.execLanternEnable value s
  | .lanternArm value => Sys2Proof.Machine.execLanternArm value s
  | .lanternDump value => Sys2Proof.Machine.execLanternDump value s
  | .lanternTrigger cause => Sys2Proof.Machine.execLanternTrigger cause s
  | .lanternStop => Sys2Proof.Machine.execLanternStop s
  | .registerWrite fn offset width value => Sys2Proof.Machine.execRegisterWrite fn offset width value s
  | .mailboxPost fn mbox value => Sys2Proof.Machine.execMailboxPost fn mbox value s
  | .mailboxTake fn mbox known => Sys2Proof.Machine.execMailboxTake fn mbox known s
  | .echo fn => Sys2Proof.Machine.execEcho fn s
  | .versions fn => Sys2Proof.Machine.execVersions fn s
  | .rootKey => Sys2Proof.Machine.execRootKey s
  | .helper => Sys2Proof.Machine.execHelper s
  | .loadGrotto => Sys2Proof.Machine.execLoadGrotto s
  | .chain => Sys2Proof.Machine.execChain s
  | .licensee => Sys2Proof.Machine.execLicensee s
  | .config t => Sys2Proof.Machine.execConfig t s
  | .loadDealer => Sys2Proof.Machine.execLoadDealer s
  | .start dealerStarts => Sys2Proof.Machine.execStart dealerStarts s
  | .timeBaseStart => Sys2Proof.Machine.execTimeBaseStart s
  | .getVersion fn => Sys2Proof.Machine.execGetVersion fn s
  | .getCapabilities fn => Sys2Proof.Machine.execGetCapabilities fn s
  | .negotiateAlgorithms fn offered => Sys2Proof.Machine.execNegotiateAlgorithms fn offered s
  | .getDigests fn => Sys2Proof.Machine.execGetDigests fn s
  | .getCertificate fn offset length => Sys2Proof.Machine.execGetCertificate fn offset length s
  | .challenge fn nonce => Sys2Proof.Machine.execChallenge fn nonce s
  | .getMeasurements fn index nonce => Sys2Proof.Machine.execGetMeasurements fn index nonce s
  | .keyExchange fn session exchange => Sys2Proof.Machine.execKeyExchange fn session exchange s
  | .finish fn mac => Sys2Proof.Machine.execFinish fn mac s
  | .keyUpdate fn => Sys2Proof.Machine.execKeyUpdate fn s
  | .endSession fn => Sys2Proof.Machine.execEndSession fn s
  | .setMigrationKey fn vf key => Sys2Proof.Machine.execSetMigrationKey fn vf key s
  | .decommission fn => Sys2Proof.Machine.execDecommission fn s
  | .lockInterfaceRequest vf stream => Sys2Proof.Machine.execLockInterfaceRequest vf stream s
  | .startInterfaceRequest vf => Sys2Proof.Machine.execStartInterfaceRequest vf s
  | .stopInterfaceRequest vf => Sys2Proof.Machine.execStopInterfaceRequest vf s
  | .getDeviceInterfaceState vf => Sys2Proof.Machine.execGetDeviceInterfaceState vf s
  | .getDeviceInterfaceReport vf => Sys2Proof.Machine.execGetDeviceInterfaceReport vf s
  | .ideKmQuery fn => Sys2Proof.Machine.execIdeKmQuery fn s
  | .keyProg fn stream keySet sub transmit key iv accepted => Sys2Proof.Machine.execKeyProg fn stream keySet sub transmit key iv accepted s
  | .kSetGo fn stream keySet sub transmit accepted ids secure => Sys2Proof.Machine.execKSetGo fn stream keySet sub transmit accepted ids secure s
  | .kSetStop fn stream keySet sub transmit accepted ids secure => Sys2Proof.Machine.execKSetStop fn stream keySet sub transmit accepted ids secure s
  | .streamInsecure index => Sys2Proof.Machine.execStreamInsecure index s
  | .resetRelease => Sys2Proof.Machine.execResetRelease s
  | .resetAssert => Sys2Proof.Machine.execResetAssert s
  | .ppsEdgeCapture tick => Sys2Proof.Machine.execPpsEdgeCapture tick s
  | .stoppedTimeout => Sys2Proof.Machine.execStoppedTimeout s
  | .roundBoundary presence cable report => Sys2Proof.Machine.execRoundBoundary presence cable report s
  | .presenceGrant => Sys2Proof.Machine.execPresenceGrant s
  | .presenceGrantExpiry => Sys2Proof.Machine.execPresenceGrantExpiry s
  | .dbgCableRelease => Sys2Proof.Machine.execDbgCableRelease s
  | .contextSwapIn fn => Sys2Proof.Machine.execContextSwapIn fn s
  | .trickWindowStart => Sys2Proof.Machine.execTrickWindowStart s
  | .bundleIssue core err => Sys2Proof.Machine.execBundleIssue core err s
  | .mma core d buffer clear => Sys2Proof.Machine.execMma core d buffer clear s
  | .rotate core d direct => Sys2Proof.Machine.execRotate core d direct s
  | .quantise core d => Sys2Proof.Machine.execQuantise core d s
  | .scale core d => Sys2Proof.Machine.execScale core d s
  | .vec core d => Sys2Proof.Machine.execVec core d s
  | .load core d => Sys2Proof.Machine.execLoad core d s
  | .store core d => Sys2Proof.Machine.execStore core d s
  | .gather core d => Sys2Proof.Machine.execGather core d s
  | .scatter core d => Sys2Proof.Machine.execScatter core d s
  | .accExport core d => Sys2Proof.Machine.execAccExport core d s
  | .accImport core d => Sys2Proof.Machine.execAccImport core d s
  | .sregLoad core d => Sys2Proof.Machine.execSregLoad core d s
  | .atomic core d => Sys2Proof.Machine.execAtomic core d s
  | .clipSave core d => Sys2Proof.Machine.execClipSave core d s
  | .scrub core => Sys2Proof.Machine.execScrub core s
  | .stateSave core => Sys2Proof.Machine.execStateSave core s
  | .loop core level bodyM1 countM1 => Sys2Proof.Machine.execLoop core level bodyM1 countM1 s
  | .wait core n => Sys2Proof.Machine.execWait core n s
  | .semSignal core sem amount => Sys2Proof.Machine.execSemSignal core sem amount s
  | .semWait core sem amount => Sys2Proof.Machine.execSemWait core sem amount s
  | .trickEnd core => Sys2Proof.Machine.execTrickEnd core s
  | .transferComplete core err => Sys2Proof.Machine.execTransferComplete core err s
  | .recoveryRound bad => Sys2Proof.Machine.execRecoveryRound bad s
  | .fatalFault cause => Sys2Proof.Machine.execFatalFault cause s
  | .engineFault unit => Sys2Proof.Machine.execEngineFault unit s
  | .hostPortError access => Sys2Proof.Machine.execHostPortError access s
  | .drainCreditCheck => Sys2Proof.Machine.execDrainCreditCheck s
  | .thermSample alerts pwr valid => Sys2Proof.Machine.execThermSample alerts pwr valid s
  | .placement bad => Sys2Proof.Machine.execPlacement bad s
  | .pinInstall step => Sys2Proof.Machine.execPinInstall step s
  | .saveTrick step => Sys2Proof.Machine.execSaveTrick step s
  | .fillTrick step errs => Sys2Proof.Machine.execFillTrick step errs s
  | .commit step => Sys2Proof.Machine.execCommit step s
  | .planVerifyRound fn errs => Sys2Proof.Machine.execPlanVerifyRound fn errs s
  | .moverSlot slot errs => Sys2Proof.Machine.execMoverSlot slot errs s
  | .objectZeroDone vf index => Sys2Proof.Machine.execObjectZeroDone vf index s
  | .invalidationRequest data => Sys2Proof.Machine.execInvalidationRequest data s
  | .invalidationComplete id => Sys2Proof.Machine.execInvalidationComplete id s
  | .accountingClose => Sys2Proof.Machine.execAccountingClose s
  | .calendarSwitch => Sys2Proof.Machine.execCalendarSwitch s
  | .refreshRateChange => Sys2Proof.Machine.execRefreshRateChange s
  | .trimRoundEnd => Sys2Proof.Machine.execTrimRoundEnd s
  | .unassignedOpcode q h opcode => Sys2Proof.Machine.execUnassignedOpcode q h opcode s
  | .jtagInstruction inst => Sys2Proof.Machine.execJtagInstruction inst s
  | .areaZeroingEnd vf => Sys2Proof.Machine.execAreaZeroingEnd vf s

end Sys2Proof.Machine
end

