-- ==== Sys2Proof/Machine/Reads.lean ====
section
/-!
DEFINITION. What reads of BAR0 return (R8, R222 to R234, R285, R335, R390, R393, R403, R408, R414, R424, R438 to R440, R468), the constants of
HP_CAP (R336, R451), and the flits of what the block sends on the host port (R448, R449).
-/

namespace Sys2Proof.Machine

open Sys2Proof

/-! ## Fields -/

/-- A flag at a bit of a word. -/
def flagAt (v : Bool) (n : Nat) : Nat := if v then 2 ^ n else 0

/-- One half of a 64-bit register. -/
def half (high : Bool) (v : BitVec 64) : BitVec 32 := if high then v.extractLsb' 32 32 else v.extractLsb' 0 32

/-! ## Registers of every function (R223 to R227, R234) -/

/-- The code of a function's state (R224). -/
def stateCode : FnState → Nat
  | .absent => 0
  | .ready => 1
  | .running => 2
  | .stopping => 3
  | .resetting => 4
  | .frozen => 5
  | .halted => 6

/-- FE_FN_STATUS. -/
def fnStatus (fn : Nat) (f : Fn) : BitVec 32 :=
  BitVec.ofNat 32 (flagAt f.aqHostError 17 + flagAt f.aqError 16 + fn * 256 + stateCode f.state)

/-- FE_AQ_CTRL. -/
def aqCtrl (f : Fn) : BitVec 32 := BitVec.ofNat 32 (f.aqLevel.toNat * 4096 + f.aqCqLog2.toNat * 256 + f.aqSqLog2.toNat * 16)

/-- A word of FE_DB, FE_FN, FE_INT or FE_AQ; the doorbells read zero (R233). -/
def feRead (fn : Nat) (f : Fn) (off : Nat) : BitVec 32 :=
  if off = 0x1018 ∨ off = 0x101C then half (off == 0x101C) f.dbError
  else if off = 0x1100 then fnStatus fn f
  else if off = 0x1104 then BitVec.ofNat 32 (flagAt f.enable 0)
  else if off = 0x1108 then (f.intCause &&& causeBits fn).setWidth 32
  else if off = 0x110C then f.intMask.setWidth 32
  else if off = 0x1110 then aqCtrl f
  else if off = 0x1118 ∨ off = 0x111C then half (off == 0x111C) f.aqSqBase
  else if off = 0x1120 ∨ off = 0x1124 then half (off == 0x1124) f.aqCqBase
  else 0

/-! ## Mailboxes (R393) -/

/-- A mailbox's STATUS. -/
def mboxStatusWord (b : Block) (fn : Nat) (m : MboxSel) : BitVec 32 :=
  let x := mboxAt b fn m
  BitVec.ofNat 32 (flagAt x.accessError 3 + flagAt (mboxReady b m) 2 + flagAt x.collision 1 + flagAt x.full 0)

/-- A word of a mailbox, zero where the function has none; NOTICE reads zero while no notice is held. -/
def mboxRead (b : Block) (fn : Nat) (m : MboxSel) (off : Nat) : BitVec 32 :=
  if !mboxPresent b fn m then 0
  else if off = 8 then mboxStatusWord b fn m
  else if off < 8 ∧ (mboxAt b fn m).full = true then half (off == 4) (mboxAt b fn m).notice
  else 0

/-- GR_BOOT_STATUS (R403). -/
def bootStatus (b : Block) : BitVec 32 :=
  BitVec.ofNat 32 (b.boot.error.toNat * 65536 + b.boot.part.toNat * 256 + b.boot.stage.toNat)

/-- GR_SEC_STATUS (R390). -/
def secStatus (b : Block) : BitVec 32 :=
  let g := b.grotto
  BitVec.ofNat 32 (flagAt g.attestKey.isSome 5 + flagAt g.unlocking 4 + flagAt (g.debugState == 1) 3 + flagAt g.grant 2 +
    flagAt g.presence 1 + flagAt g.cable 0)

/-! ## TB_ (R159) -/

/-- TB_STATUS. -/
def tbStatus (t : TimeBase) : BitVec 32 :=
  let trim := decide (t.round = trimRound)
  let slot := trim && decide (56000 ≤ t.tick) && decide (t.tick ≤ 62499)
  let state := match t.pps with
    | .locked => 0
    | .slewing => 1
    | .holdover => 2
    | .stopped => 3
  BitVec.ofNat 32 (flagAt slot 5 + flagAt trim 4 + flagAt t.earlySeen 3 + flagAt t.lateSeen 2 + state)

/-- A word of the TB_ block; the upper half of TB_NOW is the one that a 32-bit read of the lower half latched. -/
def tbRead (b : Block) (off : Nat) : BitVec 32 :=
  let t := b.tb
  if off = 0x4000 then half false ((now b).setWidth 64)
  else if off = 0x4004 then t.nowLatch
  else if off = 0x4008 then tbStatus t
  else if off = 0x400C then t.lastTrim.setWidth 32
  else if off = 0x4010 ∨ off = 0x4014 then half (off == 0x4014) (t.ppsEdge.setWidth 64)
  else if off = 0x4018 then BitVec.ofNat 32 (t.alertSeen.toNat * 65536 + t.throttled.toNat)
  else if off = 0x401C then BitVec.ofNat 32 (flagAt t.ppsPin 0)
  else 0

/-! ## AC_ (R414, R438, R439) -/

/-- A word of a ring's registers at its base: base, control, tail, head, status. -/
def ringRead (r : AcRing) (off : Nat) : BitVec 32 :=
  if off = 0 ∨ off = 4 then half (off == 4) r.base
  else if off = 8 then BitVec.ofNat 32 (r.size.toNat * 2 + if r.enable then 1 else 0)
  else if off = 0xC then r.tail.setWidth 32
  else if off = 0x10 then r.head.setWidth 32
  else if off = 0x14 then BitVec.ofNat 32 (r.dropped.toNat * 65536 + flagAt r.overflow 0)
  else 0

/-- AC_DIAG_ROUND of the selected core: zero where its last completed round was no diagnostic partition's. -/
def diagRound (d : Diag) : BitVec 64 :=
  BitVec.ofNat 64 (d.plannedNj % 2 ^ 32 * 2 ^ 32 + d.tag.toNat * 65536 + d.owner.toNat * 1024 + flagAt d.ran 9 + flagAt d.skipped 8)

/-- AC_DIAG_ECC of the selected core, likewise. -/
def diagEcc (c : Core) : BitVec 32 := if c.diag.owner = 0 then 0 else BitVec.ofNat 32 (min c.eccCount 0xFFFFFFFF)

/-- A word of the AC_ block. -/
def acRead (b : Block) (off : Nat) : BitVec 32 :=
  let c := coreAt b b.acct.diagSel.toNat
  if 0x41C0 ≤ off ∧ off < 0x41D8 then ringRead b.acct.fault (off - 0x41C0)
  else if off = 0x41D8 then b.acct.faultBlock
  else if off < 0x4118 then ringRead b.acct.ring (off - 0x4100)
  else if off = 0x4118 then BitVec.ofNat 32 (flagAt b.acct.useSamples 0)
  else if off = 0x4120 then b.acct.diagSel.setWidth 32
  else if off = 0x4128 ∨ off = 0x412C then half (off == 0x412C) (diagRound c.diag)
  else if off = 0x4130 then diagEcc c
  else 0

/-! ## LT_, MS_ and XL_ (R285, R335, R440) -/

/-- LT_STATUS. -/
def ltStatus (l : Lantern) : BitVec 32 :=
  BitVec.ofNat 32 (l.result.toNat * 2 ^ 30 + l.writeIndex.toNat * 32 + flagAt l.dumping 4 + flagAt l.wrapped 3 + flagAt l.triggered 2 +
    flagAt l.stopped 1 + flagAt l.active 0)

/-- A word of the LT_ block; LT_DUMP reads zero. -/
def ltRead (l : Lantern) (off : Nat) : BitVec 32 :=
  if off = 0x4200 then BitVec.ofNat 32 (l.die.toNat * 2 ^ 24 + l.offsetMib.toNat * 65536 + l.sizeMib.toNat * 256)
  else if off = 0x4204 then BitVec.ofNat 32 (l.postCount.toNat * 65536 + l.trigger.toNat * 4 + flagAt l.enable 0)
  else if off = 0x4208 then ltStatus l
  else 0

/-- MS_STACK_STATUS of a stack. -/
def stackStatus (s : StackStatus) : BitVec 32 :=
  BitVec.ofNat 32 (flagAt s.hot 24 + s.epochMax % 256 * 65536 + s.last % 256 * 256 + s.sparesMax.toNat)

/-- A half of an MS_ECC or MS_GECC register: the uncorrectable count, then the corrected one. -/
def eccRead (t : Tab Ecc) (k : Nat) (high : Bool) : BitVec 32 :=
  let e := tabGetD t k ⟨0, 0⟩
  if high then e.corrected else e.uncorrectable

/-- A word of the MS_ block; registers of absent stacks and slices read zero. -/
def msRead (b : Block) (off : Nat) : BitVec 32 :=
  let m := b.mem
  if off = 0x4300 then BitVec.ofNat 32 (flagAt m.forceX4 24 + m.rate.toNat)
  else if off = 0x4304 then m.farTrained.setWidth 32
  else if 0x4310 ≤ off ∧ off < 0x4340 then
    let k := (off - 0x4310) / 4
    if stackHere b k then stackStatus (tabGetD m.stackRegs k ⟨false, 0, 0, 0⟩) else 0
  else if 0x4340 ≤ off ∧ off < 0x43A0 then
    let k := (off - 0x4340) / 8
    if stackHere b k then eccRead m.ecc k (off % 8 == 4) else 0
  else if 0x43A0 ≤ off ∧ off < 0x4400 then
    let d := (off - 0x43A0) / 8
    if galleryHere b d then eccRead m.gecc d (off % 8 == 4) else 0
  else 0

/-- A word of the XL_ block; XL_S2_CMD reads zero. -/
def xlRead (x : Xlat) (off : Nat) : BitVec 32 :=
  if off = 0x4400 then BitVec.ofNat 32 (x.selVf.toNat * 256 + x.selEntry.toNat)
  else if off = 0x4408 ∨ off = 0x440C then half (off == 0x440C) x.w0
  else if off = 0x4410 ∨ off = 0x4414 then half (off == 0x4414) x.w1
  else if off = 0x441C then BitVec.ofNat 32 (x.result.toNat * 4 + flagAt x.busy 0)
  else 0

/-! ## BAR0 -/

/-- A word of the registers PF0 alone has. -/
def pf0Read (b : Block) (off : Nat) : BitVec 32 :=
  if off = 0x2210 then bootStatus b
  else if off = 0x22F0 then secStatus b
  else if off < 0x4000 then 0
  else if off < 0x4100 then tbRead b off
  else if off < 0x4200 then acRead b off
  else if off < 0x4300 then ltRead b.lantern off
  else if off < 0x4400 then msRead b off
  else if off < 0x4500 then xlRead b.xlat off
  else 0

/-- A word of a function's BAR0 that all of it answers. -/
def fullRead (fn : Nat) (b : Block) (off : Nat) : BitVec 32 :=
  if off < 0x100 then BitVec.ofNat 32 (leAt (fnAt b fn).cap off 4)
  else if off < 0x2000 then feRead fn (fnAt b fn) off
  else if off < 0x200C then mboxRead b fn .dl (off - 0x2000)
  else if 0x2100 ≤ off ∧ off < 0x210C then mboxRead b fn .gr (off - 0x2100)
  else if 0x2200 ≤ off ∧ off < 0x220C then mboxRead b fn .rcv (off - 0x2200)
  else if fn = 0 then pf0Read b off
  else 0

/-- Whether an offset answers while its function is ABSENT: FE_FN_STATUS, FE_INT_CAUSE and FE_INT_MASK, and of PF0 the recovery
mailbox, GR_BOOT_STATUS and GR_SEC_STATUS (R408, R468). -/
def absentReads (fn off : Nat) : Bool :=
  [0x1100, 0x1108, 0x110C].contains off || (fn == 0 && decide (0x2200 ≤ off) && decide (off < 0x2300))

/-- Whether an offset stays readable after a fatal fault (R424). -/
def haltedReads (off : Nat) : Bool :=
  [0x1100, 0x1108, 0x2008, 0x2108, 0x2208].contains off || (decide (0x41C0 ≤ off) && decide (off < 0x41DC))

/-- One aligned 32-bit word of a function's BAR0. What the words that R424 does not name read as in a halted block no rule gives, and
is free (log entry 118). -/
def bar0Word (fn : Nat) (b : Block) (off : Nat) : BitVec 32 :=
  if (fnAt b fn).state = .absent ∧ absentReads fn off = false then 0
  else if b.recov.halted ∧ haltedReads off = false then Config.haltedRead (fn * 65536 + off)
  else fullRead fn b off

/-- What a read of a function's BAR0 returns: zero of any width but 32 and 64 bits, at an offset that is no multiple of it, and of a
function that the build does not present (R222, R336). A 64-bit read of TB_NOW takes both halves of it at once. -/
def bar0Read (fn off width : Nat) (b : Block) : BitVec 64 :=
  if !b.boot.released || !aligned off width || (fn != 0 && !vfExists b fn) then 0
  else if width = 32 then (bar0Word fn b off).setWidth 64
  else if off = 0x4000 ∧ fn = 0 ∧ b.recov.halted = false ∧ (fnAt b 0).state ≠ .absent then (now b).setWidth 64
  else bar0Word fn b (off + 4) ++ bar0Word fn b off

/-! ## The host port (R336, R448, R449, R451) -/

/-- HP_CAP: zero before the acceptance of the configuration record. -/
def hpCap (b : Block) : BitVec 64 :=
  match b.boot.build with
  | none => 0
  | some d => BitVec.ofNat 64 ((d.maxFunctions - 1) * 2 ^ 48 + 63 * 2 ^ 40 + 16 * 2 ^ 32 + 0x7A12 * 2 ^ 16 + 0x7A11)

/-- The flit of a completion with data that answers a BAR0 read (R449). -/
def readAnswer (fn off width : Nat) (tag : BitVec 12) (b : Block) : Option (BitVec 128) × BitVec 1024 :=
  (some (BitVec.ofNat 128 (4 * 2 ^ 124 + fn % 64 * 2 ^ 118 + tag.toNat * 2 ^ 101)), (bar0Read fn off width b).setWidth 1024)

/-- The flits of a message the block offers on the host port: memory requests, and MSI-X requests with their vector as the address. -/
def portFlits (p : PortOut) (tag : BitVec 12) : List (Option (BitVec 128) × BitVec 1024) :=
  match p with
  | .request r => hostFlits r tag
  | .msix fn vector => [(some (BitVec.ofNat 128 (3 * 2 ^ 124 + fn % 64 * 2 ^ 118 + tag.toNat * 2 ^ 101 + vector % 64)), 0)]
  | _ => []

end Sys2Proof.Machine
end

