-- ==== Sys2Proof/Safety.lean ====
section
/-!
DEFINITION. What a safe run is: no step of it stops. The block has no faults, and refuses only what the spec leaves to documents of
its own (Refusal).
-/

namespace Sys2Proof.Safety

open Sys2Proof Sys2Proof.Machine

/-- The state after n steps, if none of them stops. -/
def run : Nat → State → Option State
  | 0, s => some s
  | n + 1, s =>
    match step s with
    | .next t => run n t
    | _ => none

/-- A run of n steps is safe: no step stops. -/
def Safe (n : Nat) (s : State) : Prop := (run n s).isSome = true

/-- A command whose meaning may be refused in a state: a debug instruction while debug is open. -/
def mayRefuse (c : Instr) (s : State) : Bool :=
  match c with
  | .jtagInstruction i => s.blk.jtag.debugOpen && debugInst i
  | _ => false

/-- Every memory of the block lists its bytes in canonical form (Memory.wf). -/
def memoriesWf (b : Block) : Prop :=
  Memory.wf b.mem.bytes ∧ Memory.wf b.mem.host ∧ ∀ e ∈ b.cores, Memory.wf e.2.spad

end Sys2Proof.Safety
end

