-- ==== Sys2Proof/Certificates/Slice0/Obligations.lean ====
section
/-!
DEFINITION. The statements for the provers, by the parts of the block they are about.
-/

namespace Sys2Proof.Certificates

open Sys2Proof Sys2Proof.Machine

/-! ## The queue of commands -/

/-- Commands run one after another on the block, none of them stopping. -/
def execAll : List Instr → State → Option State
  | [], s => some s
  | c :: cs, s =>
    match exec c s with
    | .next t => execAll cs t
    | _ => none

/-! ## Packets (R229, R230, R242) -/

/-- The queue, header and opcode of a packet. -/
def packetOf : Instr → Option (QRef × Hdr × BitVec 8)
  | .nop q h => some (q, h, 0x01)
  | .memMap q h _ _ _ _ _ _ _ _ _ => some (q, h, 0x10)
  | .memUnmap q h _ _ => some (q, h, 0x11)
  | .memCopy q h _ _ _ => some (q, h, 0x12)
  | .memFill q h _ _ _ => some (q, h, 0x13)
  | .memImport q h _ _ _ _ _ => some (q, h, 0x14)
  | .memFree q h _ => some (q, h, 0x15)
  | .planLoad q h _ _ => some (q, h, 0x20)
  | .planUnload q h _ => some (q, h, 0x21)
  | .stepCmd q h _ _ _ _ => some (q, h, 0x22)
  | .seqOpen q h _ => some (q, h, 0x30)
  | .seqClose q h _ => some (q, h, 0x31)
  | .seqUpdate q h _ _ _ => some (q, h, 0x32)
  | .adapterBind q h _ _ _ => some (q, h, 0x38)
  | .adapterRelease q h _ => some (q, h, 0x39)
  | .fenceSignal q h _ _ => some (q, h, 0x40)
  | .fenceWait q h _ _ => some (q, h, 0x41)
  | .query q h _ _ => some (q, h, 0x50)
  | .queueCreate q h _ _ _ _ _ _ => some (q, h, 0x60)
  | .queueDestroy q h _ _ => some (q, h, 0x61)
  | .ctxCreate q h _ _ _ _ => some (q, h, 0x70)
  | .ctxDestroy q h => some (q, h, 0x71)
  | .partCreate q h _ _ => some (q, h, 0x80)
  | .partDestroy q h _ => some (q, h, 0x81)
  | .partFreeze q h _ => some (q, h, 0x82)
  | .partSave q h _ _ _ => some (q, h, 0x83)
  | .partRestore q h _ _ _ => some (q, h, 0x84)
  | .partThaw q h _ => some (q, h, 0x85)
  | .calendarSet q h _ _ _ => some (q, h, 0x88)
  | .baseLoad q h _ => some (q, h, 0x90)
  | .baseRelease q h _ => some (q, h, 0x91)
  | .debugUnlock q h => some (q, h, 0x98)
  | _ => none

/-- Where the next packet of a queue is read from, as host memory is keyed. -/
def entryKey (b : Block) (q : QRef) : Nat :=
  match sqOf b q with
  | some s => hostAt q.fn (s.base.toNat + 64 * s.head)
  | none => 0

/-- The block once a packet is fetched and its CQ entry reserved, before its own work. -/
def fetched (i : Instr) (q : QRef) (h : Hdr) (op : BitVec 8) (b : Block) : Block :=
  addCmd (reserveCq (takeEntry b q) q (recordCq (takeEntry b q) q h).1) i q h op (.done stOk 0)

/-- The packet is the front end's next fetch and its CQ has a free entry. -/
def fetchable (q : QRef) (h : Hdr) (b : Block) : Bool :=
  canFetch b q && cqHasRoom (takeEntry b q) q (recordCq (takeEntry b q) q h).1

/-- A packet that is fetched, passes checks 1 to 6 of R242, and goes on to its own work. -/
def accepted (i : Instr) (q : QRef) (h : Hdr) (op : BitVec 8) (b : Block) : Bool :=
  fetchable q h b && (packetStatus (fetched i q h op b) q h op).isNone && !queueDying (fetched i q h op b) q

/-- A command has ended with a status and a detail, and waits for its record. -/
def Ended (t : Block) (id : Nat) (st : BitVec 16) (detail : BitVec 32) : Prop :=
  ∃ c ∈ t.dealer.cmds, c.id = id ∧ c.stage = .done st detail

/-- A command stands at a stage. -/
def Stands (t : Block) (id : Nat) (stage : CmdStage) : Prop := ∃ c ∈ t.dealer.cmds, c.id = id ∧ c.stage = stage


/-- A function's state changes to one it was not in: `x` is the function with its other fields as they become, the state_change
cause is set, and vector 0 is sent when that cause was 0 and is not masked. -/
def StateChanges (b : Block) (t : State) (fn : Nat) (st : FnState) (x : Fn) : Prop :=
  fnAt t.blk fn = { x with state := st, intCause := x.intCause ||| 0x40 } ∧
  t.blk.out = b.out ++ (if x.intCause.getLsbD 6 = false ∧ x.intMask.getLsbD 6 = true ∧ st ≠ .resetting then [.msix fn 0] else []) ∧
  (∀ f, f ≠ fn → fnAt t.blk f = fnAt b f) ∧ t.blk = { b with fns := t.blk.fns, out := t.blk.out }

/-- A doorbell is dropped: FE_DB_ERROR takes register, reason and value unless it holds a capture, the doorbell_error cause is set, and
nothing else but a vector sent changes. -/
def Dropped (b : Block) (t : State) (fn reg reason value : Nat) : Prop :=
  let x := fnAt b fn
  fnAt t.blk fn = { x with
    dbError := if x.dbError.getLsbD 63 then x.dbError else BitVec.ofNat 64 (2 ^ 63 + reg * 2 ^ 60 + reason * 2 ^ 56 + value)
    intCause := x.intCause ||| 1 } ∧
  (∀ f, f ≠ fn → fnAt t.blk f = fnAt b f) ∧ t.blk = { b with fns := t.blk.fns, out := t.blk.out }


/-- A partition's device interface that was locked or running is in ERROR (R376). -/
def InterfaceBreaks (b u : Block) (vf : Nat) : Prop :=
  ∀ x, tabGet b.grotto.tdisp vf = some x →
    tabGet u.grotto.tdisp vf = some (if x.state = .locked ∨ x.state = .run then { x with state := .error } else x)

/-- Lantern after its trigger fires: `post` × 256 more records are written, none where that is zero (R443). -/
def firedLantern (l : Lantern) (post : BitVec 16) : Lantern :=
  { l with postCount := post, triggered := true, left := some (256 * post.toNat)
           stopped := decide (256 * post.toNat = 0), active := decide (256 * post.toNat ≠ 0) }


/-! ## Mailboxes (R394 to R396) -/

/-- A taken message of a mailbox has been answered: its buffer in host memory holds the status, the reply length and the payload and is
otherwise as it was, the mailbox is empty, and the cause that says so is set. No other function changes, and no device memory. -/
def Replied (b u : Block) (fn : Nat) (m : MboxSel) (x : Taken) (status : Nat) (payload : List Byte) : Prop :=
  hostLE u (x.buffer + 4) 2 = status ∧ hostLE u (x.buffer + 12) 4 = payload.length ∧
  hostRead u (x.buffer + 16) payload.length = payload ∧
  (∀ a, (a < x.buffer + 4 ∨ x.buffer + 6 ≤ a) → (a < x.buffer + 12 ∨ x.buffer + 16 + payload.length ≤ a) →
    memRead u.mem.host a = memRead b.mem.host a) ∧
  u.mem = { b.mem with host := u.mem.host } ∧
  (mboxAt u fn m).full = false ∧ (mboxAt u fn m).notice = 0 ∧ (mboxAt u fn m).taken = none ∧
  (∀ k, k ≠ m → mboxAt u fn k = mboxAt b fn k) ∧ (fnAt u fn).intCause.getLsbD (emptyCause m) = true ∧
  (∀ f, f ≠ fn → fnAt u f = fnAt b f)

/-- The requests of GR_RCV: their code and the stage each is accepted in (R405). -/
def bringUpRow : Instr → Option (Nat × Nat)
  | .rootKey => some (1, 0)
  | .helper => some (2, 1)
  | .loadGrotto => some (3, 2)
  | .chain => some (4, 3)
  | .licensee => some (5, 4)
  | .config _ => some (6, 5)
  | .loadDealer => some (7, 6)
  | .start _ => some (8, 7)
  | _ => none

/-- The recovery mailbox holds a taken request of a code, which bring-up may act on, and no write of its reply is to fail. -/
def Asks (b : Block) (x : Taken) (code : Nat) : Prop :=
  alive b = true ∧ b.boot.starting = false ∧ (mboxAt b 0 .rcv).taken = some x ∧ (mboxAt b 0 .rcv).replyLost = none ∧ x.request = code

/-- What a request of GR_RCV leaves beyond its reply: only bring-up's and the Grotto's state, and for CONFIG the registers training
fills. -/
def BringUpFrame (b u : Block) : Prop :=
  u = { b with boot := u.boot, grotto := u.grotto, mem := u.mem, fns := u.fns, out := u.out }


/-! ## The Grotto's answers (R366 to R379) -/

/-- The Grotto's receiver handles a message on a function's secure mailbox, and no write of its answer is to fail. -/
def GrTakes (b : Block) (fn : Nat) (x : Taken) : Prop :=
  alive b = true ∧ (mboxAt b fn .gr).taken = some x ∧ (mboxAt b fn .gr).replyLost = none

/-- A request on the Grotto's mailbox has been answered with a response, and its mailbox is empty. -/
def Answered (u : Block) (fn : Nat) (x : Taken) (r : GrottoReply) : Prop :=
  u.grotto.reply = some r ∧ hostLE u (x.buffer + 4) 2 = 0 ∧ (mboxAt u fn .gr).full = false ∧ (mboxAt u fn .gr).taken = none ∧
  (fnAt u fn).intCause.getLsbD (emptyCause .gr) = true

/-- Beyond the Grotto's own state an answer changes host memory, its function, and what it sends. -/
def GrFrame (b u : Block) (fn : Nat) : Prop :=
  u = { b with grotto := u.grotto, mem := { b.mem with host := u.mem.host }, fns := u.fns, out := u.out } ∧
  (∀ f, f ≠ fn → fnAt u f = fnAt b f)

/-- The message of a function's mailbox is a secured one of an established session. -/
def Secured (b : Block) (fn : Nat) (x : Taken) (z : Session) : Prop :=
  GrTakes b fn x ∧ x.protocol = 2 ∧ tabGet b.grotto.sessions fn = some z ∧ z.id = sessionOf x ∧ z.established = true

/-- The requests that report what the Grotto holds, with their mailbox and their response. -/
def spdmReply (b : Block) : Instr → Option (Nat × GrottoReply)
  | .getVersion fn => some (fn, .version)
  | .getCapabilities fn => some (fn, .capabilities ⟨true, false, false, false, false⟩ 4080 4080)
  | .negotiateAlgorithms fn offered => some (fn, .algorithms (if offered then [.ecdsaP384, .sha384, .ecdheSecp384r1, .aes256Gcm, .spdmSchedule] else []))
  | .getDigests fn => some (fn, .digests (Config.sha384 (slot0 b.grotto)))
  | .getCertificate fn offset length =>
    let rest := (slot0 b.grotto).drop offset.toNat
    let part := rest.take (min length.toNat certPortion)
    some (fn, .certificate part (rest.length - part.length))
  | .challenge fn nonce =>
    some (fn, .challengeAuth (attested b.grotto (leBytes 32 nonce.toNat ++ digestBytes (Config.sha384 (slot0 b.grotto)))))
  | .getMeasurements fn index nonce =>
    some (fn, .measurements (measured b index)
      (attested b.grotto (leBytes 32 nonce.toNat ++ (measured b index).flatMap (fun m => m.content))))
  | _ => none

/-- The requests that use the negotiated algorithms, with their mailbox. -/
def algorithmRequest : Instr → Option Nat
  | .getDigests fn => some fn
  | .getCertificate fn _ _ => some fn
  | .challenge fn _ => some fn
  | .getMeasurements fn _ _ => some fn
  | .keyExchange fn _ _ => some fn
  | _ => none

/-- The requests of R371 that are answered inside a session only, with their mailbox. -/
def sessionRequest : Instr → Option Nat
  | .keyUpdate fn => some fn
  | .endSession fn => some fn
  | .setMigrationKey fn _ _ => some fn
  | .decommission fn => some fn
  | .lockInterfaceRequest _ _ => some 0
  | .startInterfaceRequest _ => some 0
  | .stopInterfaceRequest _ => some 0
  | .getDeviceInterfaceState _ => some 0
  | .getDeviceInterfaceReport _ => some 0
  | _ => none


/-! ## Reset (R11, R410, R429, R446) -/

/-- The block reset with BLK_RESET_N at a level: every register at its reset value and nothing of a bring-up left. Scratchpads,
accumulators, stacks and Gallery slices keep their bytes but for Lantern's records, which are zeroed; far memory does not survive; the
pins and what was sent stay. -/
def ResetTo (b u : Block) (released : Bool) : Prop :=
  u.boot = { Boot.reset with released := released } ∧ u.tb = TimeBase.reset ∧ u.cal = ⟨[], [], [], []⟩ ∧ u.fns = [] ∧ u.ctxs = [] ∧
  u.parts = [] ∧ u.dealer = Dealer.reset ∧ u.xlat = Xlat.reset ∧ u.acct = Acct.reset ∧ u.recov = Recovery.reset ∧
  u.lantern = Lantern.reset ∧ u.grotto = { Grotto.reset with draws := b.grotto.draws } ∧
  u.jtag = { b.jtag with debugOpen := false } ∧ u.pins = b.pins ∧ u.out = b.out ∧
  (tabRising b.cores = true → ∀ i, coreAt u i = { Core.reset with spad := (coreAt b i).spad, acc := (coreAt b i).acc }) ∧
  u.mem = { Mem.reset with bytes := u.mem.bytes, tiles := u.mem.tiles, host := b.mem.host } ∧
  (∀ a, memRead u.mem.bytes a =
    if b.lantern.held.1 ≤ a ∧ a < b.lantern.held.1 + 4096 * b.lantern.held.2 ∨ farBase 0 ≤ a then 0 else memRead b.mem.bytes a)

/-- The time base starts at epoch 0: the next tick is round 0, tick 0, the die alerts of this tick decide its throttling, and a START in
progress completes, PF0 in FUNCTION_READY (R142, R153, R407). -/
def EpochZero (b u : Block) (pps : PpsState) (edge : Stamp) : Prop :=
  u.tb = { b.tb with
    pps := pps, epoch := 0, round := 0, tick := 0, boundaryDone := false, earlySeen := false, lateSeen := false, inWindow := none
    ppsEdge := edge, nextThrottled := b.pins.therm &&& dieMask b, alertSeen := b.tb.alertSeen ||| (b.pins.therm &&& dieMask b) } ∧
  (b.boot.starting = true → u.boot = { b.boot with starting := false, stage := 8 } ∧ (fnAt u 0).state = .ready ∧
    (fnAt u 0).cap = capOfBuild b ∧ (∀ x, (mboxAt b 0 .rcv).taken = some x → (mboxAt b 0 .rcv).replyLost = none →
      (mboxAt u 0 .rcv).full = false ∧ hostLE u (x.buffer + 4) 2 = 0)) ∧
  (b.boot.starting = false → u.boot = b.boot ∧ u.fns = b.fns ∧ u.mem = b.mem) ∧
  u.mem.bytes = b.mem.bytes ∧ u.ctxs = b.ctxs ∧ u.parts = b.parts ∧ u.dealer = b.dealer ∧ u.cores = b.cores


/-! ## Cores -/

/-- The core may issue an operation of its next bundle now. -/
def Issuing (b : Block) (core : Nat) : Prop := issueDue b core = true ∧ (coreAt b core).seq.emptyLeft = 0

/-- The block in the tick of the core's next bundle, everything the cores do before that tick done. -/
def atBundle (b : Block) (core : Nat) : Block := toTick (workTo (coreAt b core).seq.next b) (coreAt b core).seq.next

/-- The compute and local operations, with their core. -/
def jobOf : Instr → Option (Nat × CoreOp)
  | .mma core d buffer clear => some (core, .mma d buffer.toNat clear)
  | .rotate core d q => some (core, .rotate d q)
  | .quantise core d => some (core, .quantise d)
  | .scale core d => some (core, .scale d)
  | .vec core d => some (core, .vec d)
  | .accExport core d => some (core, .accExport d)
  | .accImport core d => some (core, .accImport d)
  | .sregLoad core d => some (core, .sregLoad d)
  | .clipSave core d => some (core, .clipSave d)
  | _ => none

/-- A block in which a core has changed, and nothing else. -/
def CoreChanged (b u : Block) (core : Nat) (c : Core) : Prop :=
  coreAt u core = c ∧ (∀ x, x ≠ core → coreAt u x = coreAt b x) ∧ u = { b with cores := u.cores }

/-- A core changed, and nothing else of the block. -/
def OnlyCore (b : Block) (t : State) (core : Nat) (c : Core) : Prop := CoreChanged b t.blk core c

/-- An operation in work from a tick on: its job stands behind the others, with all of its schedule. -/
def InWork (old c : Core) (op : CoreOp) (t : Nat) : Prop :=
  c = { old with jobs := old.jobs ++ [⟨old.nextJob, op, [], []⟩], nextJob := old.nextJob + 1, work := c.work } ∧
  (∀ w, w ∈ c.work ↔ w ∈ old.work ∨ w ∈ jobWork old.nextJob t old.seq.loops op)

/-- A transfer that a core has put in flight and that has not issued yet, with the work of its ticks. -/
def InFlight (c : Core) (kind : XferKind) (cls issue line : Nat) : Prop :=
  ∃ x ∈ c.inflight, x.kind = kind ∧ x.cls = cls ∧ x.issue = issue ∧ x.line = line ∧ x.data = [] ∧ x.issued = false ∧ x.fault = none ∧
    ∀ w ∈ xferWork x, w ∈ c.work

/-- A core that has put transfers in flight: the rest of it stays. -/
def MoreInFlight (old c : Core) (n : Nat) : Prop :=
  c.inflight.length = old.inflight.length + n ∧ (∀ x ∈ old.inflight, x ∈ c.inflight) ∧ (∀ w ∈ old.work, w ∈ c.work) ∧
  c = { old with inflight := c.inflight, nextXfer := c.nextXfer, work := c.work }

/-- The memory of a block in which only the tile at an address may have changed, and what the block notes of tiles. -/
def OnlyTile (b u : Block) (tile : Nat) : Prop :=
  (∀ p, (p < tile ∨ tile + 4096 ≤ p) → memRead u.mem.bytes p = memRead b.mem.bytes p) ∧
  u.mem = { b.mem with bytes := u.mem.bytes, tiles := u.mem.tiles, cache := u.mem.cache }

/-- The sum of the first n values of a function. -/
def sumInt : Nat → (Nat → Int) → Int
  | 0, _ => 0
  | n + 1, f => sumInt n f + f n

/-- The products of the first n pairs of a function added to a value, one after the other with one rounding each. -/
def fmaSum : Nat → (Nat → F32 × F32) → F32 → F32
  | 0, _, acc => acc
  | n + 1, f, acc => f32Fma (f n).1 (f n).2 (fmaSum n f acc)


/-! ## Spill areas, units and zeroed memory -/

/-- What a save trick writes: each IPA with the 4 KiB it takes (R181), but for the cores that STATE_SAVE has moved. -/
def saved (b : Block) (s : Step) (u : UnitRun) (m : ByteMem) (spill : Nat) : List (Nat × List Byte) :=
  (spill, spillHeader b s u.base u.order) ::
    ((List.range (4 ^ u.order)).filter (fun j => !u.moved.contains (u.base + j))).flatMap (fun j =>
      (spillTilesOf m u.trick j).map (fun i => (spill + spillOff j i, spillTileBytes (coreAt b (u.base + j)) i)))

/-- The live tiles of core j of a unit stand in its scratchpad, and its buffer states are those of the spill header. -/
def Refilled (b t : Block) (s : Step) (u : UnitRun) (m : ByteMem) (spill j : Nat) : Prop :=
  (∀ i ∈ spillTilesOf m u.trick j, i < 256 →
    memReadN (coreAt t (u.base + j)).spad (4096 * i) 4096 = ipaTile b s.fn (spill + spillOff j i)) ∧
  (∀ k, k < 16 → bufState (coreAt t (u.base + j)) k =
    bufOfCode (bits (leAt (ipaTile b s.fn spill) (0x800 + 8 * j) 8) (4 * k) 4))

/-- The tiles of a list of writes lie apart in device memory. -/
def Apart (b : Block) (vf : Nat) (l : List (Nat × List Byte)) : Prop :=
  (l.map (fun e => ipaPlace b vf e.1)).Pairwise (fun x y => ∀ p q, x = some p → y = some q → p + 4096 ≤ q ∨ q + 4096 ≤ p)

/-- The tiles of a list of writes hold what was written, and no other byte of device or host memory has changed. -/
def Written (b t : Block) (vf : Nat) (l : List (Nat × List Byte)) : Prop :=
  (∀ e ∈ l, ∀ p, ipaPlace b vf e.1 = some p → tileBytes t p = e.2) ∧
  (∀ a, (∀ e ∈ l, ∀ p, ipaPlace b vf e.1 = some p → a < p ∨ p + 4096 ≤ a) → memRead t.mem.bytes a = memRead b.mem.bytes a) ∧
  t.mem.host = b.mem.host

/-- A context that a predicate holds of, with the least key of those. -/
def FirstOf (b : Block) (key : Nat × Ctx → Nat) (p : Nat × Ctx → Bool) (tag : Nat) (c : Ctx) : Prop :=
  ctxAt b tag = some c ∧ p (tag, c) = true ∧
  ∀ x y, ctxAt b x = some y → p (x, y) = true → x ≠ tag → key (tag, c) < key (x, y)

/-- The units on which steps hold carried state lie apart. -/
def HeldApart (b : Block) : Prop :=
  b.dealer.steps.Pairwise (fun x y => ∀ u w p q, x.holdsState = true → y.holdsState = true → x.unit = some u → y.unit = some w →
    stepPlan b x = some p → stepPlan b y = some q → overlap u (4 ^ imgOrder p.image) w (4 ^ imgOrder q.image) = false)

/-- Units start at multiples of their size: those of engines, and those steps last ran on. -/
def UnitsAligned (b : Block) : Prop :=
  (∀ e ∈ b.boot.engines, e.base % 4 ^ e.order = 0) ∧
  ∀ x ∈ b.dealer.steps, ∀ u p, x.unit = some u → stepPlan b x = some p → u % 4 ^ imgOrder p.image = 0

/-- A physical address that an IPA range of a partition reaches through a device entry of its stage 2. -/
def Reached (p : Part) (r : IpaRange) (a : Nat) : Prop :=
  ∃ i k x, i < 16 ∧ s2Valid (s2Entry p i) = true ∧ s2Host (s2Entry p i) = false ∧ k < s2Repeats (s2Entry p i) ∧
    r.ipa ≤ x ∧ x < r.ipa + r.len ∧ s2Base (s2Entry p i) + k * s2Length (s2Entry p i) ≤ x ∧
    x < s2Base (s2Entry p i) + (k + 1) * s2Length (s2Entry p i) ∧
    a = s2Out (s2Entry p i) + k * s2Stride (s2Entry p i) + (x - (s2Base (s2Entry p i) + k * s2Length (s2Entry p i)))


/-! ## Invariants -/

/-- What bring-up has done by its stage: until it stops, each stage's product is there exactly from the next stage on; a START in progress
waits in stage 7; and nothing of a bring-up is left in a block held in reset. -/
def BootOrder (x : Boot) : Prop :=
  (x.stage.toNat ≤ 8 ∨ x.stage = 0xF) ∧
  (x.stage ≠ 0xF →
    x.rootKey.isSome = decide (1 ≤ x.stage.toNat) ∧ x.grottoVersion.isSome = decide (3 ≤ x.stage.toNat) ∧
    x.licensee.isSome = decide (5 ≤ x.stage.toNat) ∧ x.build.isSome = decide (6 ≤ x.stage.toNat) ∧
    x.dealerVersion.isSome = decide (7 ≤ x.stage.toNat) ∧ x.dealerStarted = (x.starting || decide (x.stage = 8))) ∧
  (x.starting = true → x.stage = 7) ∧ x.zeroed = x.dealerStarted ∧ (x.released = false → x = Boot.reset)

/-- The block while BLK_RESET_N is held: every register at its reset value, the memories, the pins and the port aside. -/
def HeldInReset (b : Block) : Prop :=
  b.tb = TimeBase.reset ∧ b.cal = ⟨[], [], [], []⟩ ∧ b.boot = Boot.reset ∧ b.fns = [] ∧ b.ctxs = [] ∧ b.parts = [] ∧
  b.dealer = Dealer.reset ∧ b.xlat = Xlat.reset ∧ b.acct = Acct.reset ∧ b.recov = Recovery.reset ∧ b.lantern = Lantern.reset ∧
  b.grotto = { Grotto.reset with draws := b.grotto.draws } ∧ b.jtag.debugOpen = false ∧
  (∀ e ∈ b.cores, e.2 = { Core.reset with spad := e.2.spad, acc := e.2.acc }) ∧
  b.mem = { Mem.reset with bytes := b.mem.bytes, tiles := b.mem.tiles, host := b.mem.host }

end Sys2Proof.Certificates

open Sys2Proof Sys2Proof.Machine Sys2Proof.Certificates

/-! ## The machine -/

/-- A step with a command at the front of the queue is that command's effect on the state with the rest of the queue. -/
def Obligations.StepRunsFrontCommand : Prop :=
  ∀ (c : Instr) (s : State), step { s with pending := c :: s.pending } = exec c s

/-- With nothing waiting a step is one tick of the plan clock, inside a round that runs; else it changes nothing (the model's choice:
log entry 2). -/
def Obligations.EmptyQueueIsOneTick : Prop :=
  ∀ b : Block,
    (alive b = true ∧ ticking b = true ∧ b.tb.boundaryDone = true ∧ b.tb.tick < lastTick b.tb →
      step ⟨b, []⟩ = .next ⟨{ b with tb := { b.tb with tick := b.tb.tick + 1 } }, []⟩) ∧
    (alive b = false ∨ ticking b = false ∨ b.tb.boundaryDone = false ∨ lastTick b.tb ≤ b.tb.tick →
      step ⟨b, []⟩ = .next ⟨b, []⟩)

/-- No command reads or changes the queue of waiting commands. The only command that stops is a debug instruction of the JTAG port while
debug is open; no command ends in a fault (R463). The queue is first in, first out: as many steps as commands wait in front run exactly
those, in order. -/
def Obligations.QueueAndStops : Prop :=
  (
  ∀ (c : Instr) (s t : State) (l : List Instr), exec c s = .next t →
    t.pending = s.pending ∧ exec c { s with pending := l } = .next { t with pending := l }
  ) ∧
  (
  ∀ (c : Instr) (s : State),
    (Safety.mayRefuse c s = false → ∃ t, exec c s = .next t) ∧
    (Safety.mayRefuse c s = true → ∃ i, c = .jtagInstruction i ∧ exec c s = .refused .debugInstruction)
  ) ∧
  (
  ∀ (cs ds : List Instr) (s t : State), execAll cs s = some t →
    Safety.run cs.length { s with pending := cs ++ ds } = some { t with pending := ds }
  )

/-! ## Packets -/

/-- A packet that is not the front end's next fetch changes nothing of its own (the model's choice: log entry 3). NOP, and what the
fetch of any packet that passes its checks does: the SQ's head passes the entry, a CQ entry is reserved, the command takes the next
serial number and the fields of its header, and here ends with ST_OK; the read of its 64 bytes is offered on the host port, its own
function's fetch time and the clock move, and nothing else changes (R229, R230, R246). A packet whose CQ has no free entry is fetched
and held: what its checks gave is kept for when it has one, and nothing of its own work is done (R230, R242). A held command of a
function that is not frozen gets the next free entry of its completion queue: the entry is reserved, and the command ends with
ST_CONTEXT_LOST where its context has become LOST since, with what its checks at its fetch gave where one failed, and else its own work
begins (R230, R242). -/
def Obligations.FetchReservesAndNopCompletes : Prop :=
  (
  ∀ (i : Instr) (q : QRef) (h : Hdr) (op : BitVec 8) (s : State), packetOf i = some (q, h, op) → canFetch s.blk q = false →
    ∃ t, exec i s = .next t ∧ t.pending = s.pending ∧ (t.blk = s.blk ∨ t.blk = settle s.blk)
  ) ∧
  (
  ∀ (q : QRef) (h : Hdr) (s : State), accepted (.nop q h) q h 0x01 s.blk = true →
    ∃ t, exec (.nop q h) s = .next t ∧ t.pending = s.pending ∧
      (∃ c ∈ t.blk.dealer.cmds, c.id = s.blk.dealer.nextCmd ∧ c.q = q ∧ c.cid = h.cid ∧ c.tag = h.tag ∧ c.cq = h.cq.toNat ∧
        c.ordered = bit h.flags.toNat 0 ∧ c.noIrq = bit h.flags.toNat 1 ∧ c.stage = .done stOk 0) ∧
      (∀ c ∈ s.blk.dealer.cmds, c.id ≠ s.blk.dealer.nextCmd → c ∈ t.blk.dealer.cmds) ∧
      t.blk.dealer.cmds.length = s.blk.dealer.cmds.length + 1 ∧
      sqOf t.blk q = (sqOf s.blk q).map (fun x => { x with head := (x.head + 1) % 2 ^ x.log2 }) ∧
      cqOf t.blk q h.cq.toNat = (cqOf s.blk q h.cq.toNat).map (fun x => { x with reserved := x.reserved + 1 }) ∧
      (∀ f, f ≠ q.fn → fnAt t.blk f = fnAt s.blk f) ∧ (∀ g, g ≠ q.tag.toNat → ctxAt t.blk g = ctxAt s.blk g) ∧
      t.blk = { s.blk with
        tb := { s.blk.tb with tick := max s.blk.tb.tick (fetchTick s.blk q.fn) }
        fns := t.blk.fns
        ctxs := t.blk.ctxs
        out := (hostAsk (entryKey s.blk q) 64 s.blk).out
        dealer := { s.blk.dealer with cmds := t.blk.dealer.cmds, nextCmd := s.blk.dealer.nextCmd + 1 } }
  ) ∧
  (
  ∀ (i : Instr) (q : QRef) (h : Hdr) (op : BitVec 8) (s : State), packetOf i = some (q, h, op) →
    canFetch s.blk q = true → cqHasRoom (takeEntry s.blk q) q (recordCq (takeEntry s.blk q) q h).1 = false →
    ∃ t, exec i s = .next t ∧ t.pending = s.pending ∧
      let held := CmdStage.held (packetStatus (takeEntry s.blk q) q h op)
      Stands (addCmd (takeEntry s.blk q) i q h op held) s.blk.dealer.nextCmd held ∧
      (t.blk = addCmd (takeEntry s.blk q) i q h op held ∨ t.blk = settle (addCmd (takeEntry s.blk q) i q h op held))
  ) ∧
  (
  ∀ (fn : Nat) (s : State) (c : Cmd) (h : Hdr) (fail : Option (BitVec 16 × BitVec 32)),
    alive s.blk = true → (fnAt s.blk fn).state ≠ .frozen →
    nextHeld s.blk fn = some c → packetHdr c.packet = some h → c.stage = .held fail →
    let b := setCmd (reserveCq s.blk c.q c.cq) c.id (.done stOk 0)
    let lost := if c.opcode = 0x71 then none else lostCtx b c.q h
    (∀ x, lost = some x →
      exec (.cqEntryReserve fn) s = .next ⟨settle (finish b c.id stContextLost (x.lostStatus.setWidth 32)), s.pending⟩) ∧
    (∀ st detail, lost = none → fail = some (st, detail) →
      exec (.cqEntryReserve fn) s = .next ⟨settle (finish b c.id st detail), s.pending⟩) ∧
    (lost = none → fail = none → queueDying b c.q = true →
      exec (.cqEntryReserve fn) s = .next ⟨settle (finish b c.id stAborted 0), s.pending⟩) ∧
    (lost = none → fail = none → queueDying b c.q = false →
      exec (.cqEntryReserve fn) s = .next ⟨settle (doPacket c.packet c.id b), s.pending⟩) ∧
    cqOf b c.q c.cq = (cqOf s.blk c.q c.cq).map (fun x => { x with reserved := x.reserved + 1 })
  )

/-- The six checks of R242 in their order: the first that fails gives the status. A fetched packet that fails a check ends with that
check's status, and has no other effect than its fetch; commands that other commands wait on then settle (R242). -/
def Obligations.PacketChecksInOrder : Prop :=
  (
  ∀ (b : Block) (q : QRef) (h : Hdr) (op : BitVec 8) (sq : Sq), sqOf b q = some sq →
    let named := (cqOf b q h.cq.toNat).isSome
    let levelOk := decide (1 ≤ h.level.toNat) && decide (h.level.toNat ≤ sq.level.toNat)
    let assigned := [0x01, 0x10, 0x11, 0x12, 0x13, 0x14, 0x15, 0x20, 0x21, 0x22, 0x30, 0x31, 0x32, 0x38, 0x39, 0x40, 0x41, 0x50,
      0x60, 0x61, 0x70, 0x71, 0x80, 0x81, 0x82, 0x83, 0x84, 0x85, 0x88, 0x90, 0x91, 0x98].contains op.toNat
    let onQueue := op == 0x01 ||
      (if q.tag ≠ 0 then decide (op.toNat < 0x60) else if q.fn = 0 then decide (0x80 ≤ op.toNat)
        else decide (0x60 ≤ op.toNat) && decide (op.toNat < 0x80))
    let tagOk := if q.tag ≠ 0 then h.tag == q.tag else if op = 0x60 ∨ op = 0x61 ∨ op = 0x71 then h.tag != 0 else h.tag == 0
    let lost := fun c => op ≠ 0x71 ∧ ctxAt b (if q.tag ≠ 0 then q.tag else h.tag).toNat = some c ∧ c.fn = q.fn ∧ c.state = .lost
    let reserved := bit h.flags.toNat 2 || bit h.flags.toNat 3 || h.rsvd
    (named = false → packetStatus b q h op = some (stInvalidField, 0) ∧ (recordCq b q h).1 = 0) ∧
    (named = true → levelOk = false → packetStatus b q h op = some (stLevelUnsupported, 0)) ∧
    (named = true → levelOk = true → assigned = false → packetStatus b q h op = some (stInvalidOpcode, 0)) ∧
    (named = true → levelOk = true → assigned = true → (onQueue && tagOk) = false →
      packetStatus b q h op = some (stNotPermitted, 0)) ∧
    (named = true → levelOk = true → assigned = true → onQueue = true → tagOk = true → ∀ c, lost c →
      packetStatus b q h op = some (stContextLost, c.lostStatus.setWidth 32)) ∧
    (named = true → levelOk = true → assigned = true → onQueue = true → tagOk = true → (∀ c, ¬ lost c) →
      packetStatus b q h op = if reserved then some (stInvalidField, 0) else none)
  ) ∧
  (
  ∀ (i : Instr) (q : QRef) (h : Hdr) (op : BitVec 8) (st : BitVec 16) (d : BitVec 32) (s : State),
    packetOf i = some (q, h, op) → fetchable q h s.blk = true → packetStatus (fetched i q h op s.blk) q h op = some (st, d) →
    ∃ t, exec i s = .next t ∧ t.pending = s.pending ∧
      Ended (finish (fetched i q h op s.blk) s.blk.dealer.nextCmd st d) s.blk.dealer.nextCmd st d ∧
      (t.blk = finish (fetched i q h op s.blk) s.blk.dealer.nextCmd st d ∨
        t.blk = settle (finish (fetched i q h op s.blk) s.blk.dealer.nextCmd st d))
  )

/-- An opcode that is assigned to nothing, 0xF0 to 0xFF among them, ends with ST_INVALID_OPCODE and does nothing else; the row told of
an assigned opcode changes nothing (R242, R244; that the block defines no vendor diagnostic is log entry 24). -/
def Obligations.UnassignedOpcodesEnd : Prop :=
  ∀ (q : QRef) (h : Hdr) (op : BitVec 8) (s : State),
    (assigned op = false → fetchable q h s.blk = true → h.level ≠ 0 → (∀ x, sqOf s.blk q = some x → h.level.toNat ≤ x.level.toNat) →
      (cqOf s.blk q h.cq.toNat).isSome = true →
      ∃ t, exec (.unassignedOpcode q h op) s = .next t ∧ t.pending = s.pending ∧
        t.blk = finish (fetched (.unassignedOpcode q h op) q h op s.blk) s.blk.dealer.nextCmd stInvalidOpcode 0 ∧
        Ended t.blk s.blk.dealer.nextCmd stInvalidOpcode 0) ∧
    (assigned op = true → exec (.unassignedOpcode q h op) s = .next s)

/-! ## Sequences, adapter slots and fences -/

/-- SEQ_OPEN takes the first FREE entry of its partition's range, gives it the next generation and the packet's fields, and answers the
handle; SEQ_CLOSE of an OPEN entry frees it and keeps its generation, of any other entry it waits for the deal to end; SEQ_UPDATE
changes the fields its mask names, those of a seated entry from its next deal on. No other entry changes, and nothing outside the
Dealer. ADAPTER_BIND takes the first unbound slot of the partition's range, with the next generation, the VA range and its object, and
answers the handle; ADAPTER_RELEASE marks the slot dying and completes when nothing uses it. No other slot changes in the binding, and
nothing outside the Dealer. -/
def Obligations.SequenceAndAdapterCommands : Prop :=
  (
  ∀ (q : QRef) (h : Hdr) (s : State) (c : Ctx), ctxAt s.blk q.tag.toNat = some c →
    let id := s.blk.dealer.nextCmd
    (∀ (f : SeqFields) (p : Part) (i : Nat), partAt s.blk q.fn = some p → seqFieldsOk c f = true →
      p.desc.seqBase ≤ i → i < p.desc.seqBase + p.desc.seqCount → (seqAt s.blk i).state = .free →
      (∀ j, p.desc.seqBase ≤ j → j < i → (seqAt s.blk j).state ≠ .free) →
      let b := fetched (.seqOpen q h f) q h 0x30 s.blk
      accepted (.seqOpen q h f) q h 0x30 s.blk = true →
      ∃ t, exec (.seqOpen q h f) s = .next t ∧ t.pending = s.pending ∧
        (∃ g, g = (if (seqAt s.blk i).gen = 0x3FFFF then 1 else (seqAt s.blk i).gen + 1) ∧
          seqAt t.blk i = ⟨g, q.tag, .isOpen, f, none, 0, 0⟩ ∧ Ended t.blk id stOk (BitVec.ofNat 32 (g.toNat * 2 ^ 14 + i % 2 ^ 14))) ∧
        (∀ j, j ≠ i → seqAt t.blk j = seqAt s.blk j) ∧
        t.blk = { b with dealer := { b.dealer with seqs := t.blk.dealer.seqs, cmds := t.blk.dealer.cmds } }) ∧
    (∀ (handle : BitVec 32),
      let i := handle.toNat % 2 ^ 14
      let e := seqAt s.blk i
      let b := fetched (.seqClose q h handle) q h 0x31 s.blk
      e.state ≠ .free → e.gen.toNat = handle.toNat / 2 ^ 14 → e.tag = q.tag →
      accepted (.seqClose q h handle) q h 0x31 s.blk = true →
      ∃ t, exec (.seqClose q h handle) s = .next t ∧ t.pending = s.pending ∧
        (e.state = .isOpen → seqAt t.blk i = freeSeq e.gen ∧ Ended t.blk id stOk 0) ∧
        (e.state ≠ .isOpen → seqAt t.blk i = { e with state := .closing } ∧ Stands t.blk id (.seqClose i)) ∧
        (∀ j, j ≠ i → seqAt t.blk j = seqAt s.blk j) ∧
        t.blk = { b with dealer := { b.dealer with seqs := t.blk.dealer.seqs, cmds := t.blk.dealer.cmds } }) ∧
    (∀ (f : SeqFields) (mask : BitVec 16) (handle : BitVec 32),
      let i := handle.toNat % 2 ^ 14
      let e := seqAt s.blk i
      let new := mergeSeq mask f (nextFields e)
      let b := fetched (.seqUpdate q h f mask handle) q h 0x32 s.blk
      e.state ≠ .free → e.gen.toNat = handle.toNat / 2 ^ 14 → e.tag = q.tag → mask.toNat < 2 ^ 13 →
      mergeSeq mask SeqFields.zero f = SeqFields.zero → seqFieldsOk c new = true → (e.state = .isOpen ∨ openOnly new (nextFields e) = false) →
      accepted (.seqUpdate q h f mask handle) q h 0x32 s.blk = true →
      ∃ t, exec (.seqUpdate q h f mask handle) s = .next t ∧ t.pending = s.pending ∧
        (e.state = .isOpen → seqAt t.blk i = { e with f := mergeSeq mask f e.f } ∧
          (mask.getLsbD 4 = true → (seqAt t.blk i).f.position = f.position) ∧
          (mask.getLsbD 4 = false → (seqAt t.blk i).f.position = e.f.position)) ∧
        (e.state ≠ .isOpen → nextFields (seqAt t.blk i) = new ∧ seqAt t.blk i = { e with later := (seqAt t.blk i).later } ∧
          (reopen (seqAt t.blk i)).f = new) ∧
        Ended t.blk id stOk 0 ∧ (∀ j, j ≠ i → seqAt t.blk j = seqAt s.blk j) ∧
        t.blk = { b with dealer := { b.dealer with seqs := t.blk.dealer.seqs, cmds := t.blk.dealer.cmds } })
  ) ∧
  (
  ∀ (q : QRef) (h : Hdr) (s : State),
    let id := s.blk.dealer.nextCmd
    (∀ (va : BitVec 64) (tiles : BitVec 32) (flags : BitVec 8) (c : Ctx) (p : Part) (o : Obj) (index i : Nat),
      ctxAt (fetched (.adapterBind q h va tiles flags) q h 0x38 s.blk) q.tag.toNat = some c → partAt s.blk q.fn = some p →
      flags.toNat < 2 → va.toNat % 4096 = 0 → va.toNat < 2 ^ 48 → tiles ≠ 0 →
      (flags.getLsbD 0 = true → tiles.toNat % 2 = 0) → rangeObject c va.toNat tiles.toNat = some index →
      tabGet p.objects index = some o → adapterTier s.blk o.tier = true → objGone o id = false →
      (flags.getLsbD 0 = true → o.attrs.getLsbD 2 = false) →
      p.desc.adapterBase ≤ i → i < p.desc.adapterBase + p.desc.adapterCount → (adapterAt s.blk i).bound = false →
      (∀ j, p.desc.adapterBase ≤ j → j < i → (adapterAt s.blk j).bound = true) →
      accepted (.adapterBind q h va tiles flags) q h 0x38 s.blk = true →
      let b := fetched (.adapterBind q h va tiles flags) q h 0x38 s.blk
      ∃ t, exec (.adapterBind q h va tiles flags) s = .next t ∧ t.pending = s.pending ∧
        (∃ g, g = nextGen (adapterAt s.blk i).gen ∧
          adapterAt t.blk i = ⟨true, false, g, q.tag, va, tiles.toNat, flags.getLsbD 0, false, index⟩ ∧
          Ended t.blk id stOk (g ++ BitVec.ofNat 10 i)) ∧
        (∀ j, j ≠ i → adapterAt t.blk j = adapterAt s.blk j) ∧ (∃ k ∈ t.blk.dealer.cmds, k.id = id ∧ k.refs = [index]) ∧
        t.blk = { b with dealer := { b.dealer with adapters := t.blk.dealer.adapters, cmds := t.blk.dealer.cmds } }) ∧
    (∀ (handle : BitVec 32),
      let i := handle.toNat % 1024
      let a := adapterAt s.blk i
      a.bound = true → a.dying = false → a.gen.toNat = handle.toNat / 1024 → a.tag = q.tag →
      accepted (.adapterRelease q h handle) q h 0x39 s.blk = true →
      let b := fetched (.adapterRelease q h handle) q h 0x39 s.blk
      ∃ t u, exec (.adapterRelease q h handle) s = .next t ∧ t.pending = s.pending ∧ t.blk = settle u ∧
        adapterAt u i = { a with dying := true } ∧ (∀ j, j ≠ i → adapterAt u j = adapterAt s.blk j) ∧
        Stands u id (.adapterRelease i) ∧
        u = { b with dealer := { b.dealer with adapters := u.dealer.adapters, cmds := u.dealer.cmds } }) ∧
    (∀ (b : Block) (c : Cmd) (i : Nat), b.dealer.cmds = [c] → c.stage = .adapterRelease i → adapterInUse b i = false →
      adapterAt (adapterReleases b) i = { adapterNone with gen := (adapterAt b i).gen } ∧
      Ended (adapterReleases b) c.id stOk (if (adapterAt b i).half then 1 else 0))
  )

/-- FENCE_SIGNAL raises its fence record to its value in host memory, or saturates it and answers ST_FENCE_REGRESS; the waits of its
function on that record that it satisfies end with the record's value. No other byte of memory changes, and the one access to host
memory is the swap of the old value for the new. FENCE_WAIT ends at once with the record's value where the record has reached its value,
and otherwise waits; a fence doorbell reads the record and ends the waits of its function that it satisfies, but for those of a FROZEN
function; neither writes memory. -/
def Obligations.FencesSignalAndWait : Prop :=
  (
  ∀ (q : QRef) (h : Hdr) (fence : BitVec 16) (value : BitVec 64) (s : State) (c : Ctx),
    let b := fetched (.fenceSignal q h fence value) q h 0x40 s.blk
    let a := fenceAddr c fence.toNat
    let old := hostLE s.blk a 8
    let refused := decide (old % 2 ^ 63 = 2 ^ 63 - 1) || decide (value.toNat < old % 2 ^ 63)
    let new := if refused then 2 ^ 63 + old % 2 ^ 63 else old / 2 ^ 63 * 2 ^ 63 + value.toNat
    ctxAt b q.tag.toNat = some c → fence.toNat < c.fenceCount → value.toNat < 2 ^ 63 →
    accepted (.fenceSignal q h fence value) q h 0x40 s.blk = true →
    ∃ t, exec (.fenceSignal q h fence value) s = .next t ∧ t.pending = s.pending ∧
      hostLE t.blk a 8 = new ∧
      (∀ x, (x < a ∨ a + 8 ≤ x) → memRead t.blk.mem.host x = memRead s.blk.mem.host x) ∧
      (∀ k ∈ b.dealer.cmds, ∀ w, k.id ≠ s.blk.dealer.nextCmd → k.stage = .fenceWait a w → k.q.fn = q.fn → w ≤ new % 2 ^ 63 →
        { k with stage := .done stOk (BitVec.ofNat 32 (new % 2 ^ 63)) } ∈ t.blk.dealer.cmds) ∧
      (∀ k ∈ b.dealer.cmds, k.id ≠ s.blk.dealer.nextCmd → (∀ w, k.stage ≠ .fenceWait a w) → k ∈ t.blk.dealer.cmds) ∧
      Ended t.blk s.blk.dealer.nextCmd (if refused then stFenceRegress else stOk) 0 ∧
      t.blk = { b with mem := { b.mem with host := t.blk.mem.host }, dealer := { b.dealer with cmds := t.blk.dealer.cmds }
                       out := (hostRequest .cas a 16 (leBytes 8 old ++ leBytes 8 new) b).out }
  ) ∧
  (
  (∀ (q : QRef) (h : Hdr) (fence : BitVec 16) (value : BitVec 64) (s : State) (c : Ctx),
    let b := fetched (.fenceWait q h fence value) q h 0x41 s.blk
    let a := fenceAddr c fence.toNat
    let v := hostLE s.blk a 8 % 2 ^ 63
    ctxAt b q.tag.toNat = some c → fence.toNat < c.fenceCount → value.toNat < 2 ^ 63 →
    accepted (.fenceWait q h fence value) q h 0x41 s.blk = true →
    ∃ t, exec (.fenceWait q h fence value) s = .next t ∧ t.pending = s.pending ∧
      (value.toNat ≤ v → Ended t.blk s.blk.dealer.nextCmd stOk (BitVec.ofNat 32 v)) ∧
      (v < value.toNat → Stands t.blk s.blk.dealer.nextCmd (.fenceWait a value.toNat)) ∧
      t.blk = { b with dealer := { b.dealer with cmds := t.blk.dealer.cmds }, out := (hostAsk a 8 b).out }) ∧
  (∀ (fn : Nat) (v : BitVec 64) (s : State) (c : Ctx),
    let i := (v.extractLsb' 0 16).toNat
    let a := fenceAddr c i
    let x := hostLE s.blk a 8 % 2 ^ 63
    takesDoorbells s.blk fn = true → ctxAt s.blk (v.extractLsb' 32 16).toNat = some c → c.fn = fn → c.state = .live →
    i < c.fenceCount →
    ∃ t, exec (.fenceDoorbell fn 64 v) s = .next t ∧ t.pending = s.pending ∧
      (∀ k ∈ s.blk.dealer.cmds, ∀ w, (fnAt s.blk fn).state ≠ .frozen → k.stage = .fenceWait a w → k.q.fn = fn → w ≤ x →
        { k with stage := .done stOk (BitVec.ofNat 32 x) } ∈ t.blk.dealer.cmds) ∧
      (∀ k ∈ s.blk.dealer.cmds, (fnAt s.blk fn).state = .frozen ∨ (∀ w, k.stage = .fenceWait a w → k.q.fn ≠ fn ∨ x < w) →
        k ∈ t.blk.dealer.cmds) ∧
      t.blk = { s.blk with dealer := { s.blk.dealer with cmds := t.blk.dealer.cmds }, out := (hostAsk a 8 s.blk).out })
  )

/-! ## Memory objects and the mover -/

/-- MEM_MAP with handle 0 makes an object at the lowest free index, with the next generation, its extents and its creator, maps it, and
answers its handle: partition × 2^26 + generation × 2^16 + index; the context's tables follow its mappings. A writable mapping of a
read-only object is refused with ST_NOT_PERMITTED. No other object, mapping or context changes, and no byte of any memory. MEM_MAP with
a handle maps a range of the object it names and answers the handle; a writable mapping of a read-only object is refused with
ST_NOT_PERMITTED, and one whose tables find no room with ST_NO_RESOURCE. -/
def Obligations.MemMapMakesAndMaps : Prop :=
  (
  ∀ (q : QRef) (h : Hdr) (va bytes : BitVec 64) (tier attrs page access : BitVec 8) (backing : BitVec 64) (s : State) (c : Ctx)
    (p : Part) (pl : Nat) (ext : List Extent),
    let i : Instr := .memMap q h va bytes 0 tier attrs page access 0 backing
    let b := fetched i q h 0x10 s.blk
    let index := lowestFree p.objects 0
    let m : Mapping := ⟨va.toNat, bytes.toNat, pl, index, 0, access.getLsbD 0, access.getLsbD 1⟩
    let gen := nextGen (tabGetD p.objectGens index 0)
    accepted i q h 0x10 s.blk = true → ctxAt b q.tag.toNat = some c → partAt b q.fn = some p → pageLogOf page = some pl →
    rangeOk c va.toNat bytes.toNat pl = true → access.toNat < 4 → attrsOk tier attrs = true → (tier ≠ 0 → backing = 0) →
    (tier = 0 → backingOk p backing.toNat bytes.toNat pl = true ∧ ext = [⟨0, backing.toNat, bytes.toNat⟩]) →
    (tier ≠ 0 → allocObject b q.fn p tier.toNat (2 ^ pl) bytes.toNat = some ext) →
    index < 65536 → tablesFit b q.fn q.tag.toNat p (c.mappings ++ [m]) = true →
    ((access.getLsbD 0 && attrs.getLsbD 2) = true →
      exec i s = .next ⟨finish b s.blk.dealer.nextCmd stNotPermitted 0, s.pending⟩) ∧
    ((access.getLsbD 0 && attrs.getLsbD 2) = false → ∃ t, exec i s = .next t ∧ t.pending = s.pending ∧
      partAt t.blk q.fn = some { p with
        objects := tabSet p.objects index ⟨gen, .live, tier.toNat, attrs, pl, bytes.toNat, ext, backing.toNat, q.tag⟩
        objectGens := tabSet p.objectGens index gen } ∧
      ctxAt t.blk q.tag.toNat = some { c with
        mappings := c.mappings ++ [m], tables := placeTables b q.fn p q.tag.toNat c.tables (c.mappings ++ [m]) } ∧
      (∃ k ∈ t.blk.dealer.cmds, k.id = s.blk.dealer.nextCmd ∧ k.refs = [index]) ∧
      Ended t.blk s.blk.dealer.nextCmd stOk (BitVec.ofNat 32 (q.fn * 2 ^ 26 + gen.toNat * 2 ^ 16 + index)) ∧
      (∀ v, v ≠ q.fn → partAt t.blk v = partAt s.blk v) ∧ (∀ g, g ≠ q.tag.toNat → ctxAt t.blk g = ctxAt s.blk g) ∧
      t.blk = { b with parts := t.blk.parts, ctxs := t.blk.ctxs, dealer := { b.dealer with cmds := t.blk.dealer.cmds } })
  ) ∧
  (
  ∀ (q : QRef) (h : Hdr) (va bytes : BitVec 64) (handle : BitVec 32) (page access : BitVec 8) (off : BitVec 64) (s : State) (c : Ctx)
    (p : Part) (pl : Nat) (o : Obj),
    let i : Instr := .memMap q h va bytes handle 0 0 page access off 0
    let b := fetched i q h 0x10 s.blk
    let index := handle.toNat % 2 ^ 16
    let m : Mapping := ⟨va.toNat, bytes.toNat, pl, index, off.toNat, access.getLsbD 0, access.getLsbD 1⟩
    accepted i q h 0x10 s.blk = true → ctxAt b q.tag.toNat = some c → partAt b q.fn = some p → pageLogOf page = some pl →
    rangeOk c va.toNat bytes.toNat pl = true → access.toNat < 4 → handle ≠ 0 → handle.toNat / 2 ^ 26 = q.fn →
    tabGet p.objects index = some o → o.gen.toNat = handle.toNat / 2 ^ 16 % 2 ^ 10 → objGone o s.blk.dealer.nextCmd = false →
    pl ≤ o.pageLog → off.toNat % 2 ^ pl = 0 → off.toNat + bytes.toNat ≤ o.bytes →
    ((access.getLsbD 0 && o.attrs.getLsbD 2) = true →
      exec i s = .next ⟨finish b s.blk.dealer.nextCmd stNotPermitted 0, s.pending⟩) ∧
    ((access.getLsbD 0 && o.attrs.getLsbD 2) = false → tablesFit b q.fn q.tag.toNat p (c.mappings ++ [m]) = false →
      exec i s = .next ⟨finish b s.blk.dealer.nextCmd stNoResource 0, s.pending⟩) ∧
    ((access.getLsbD 0 && o.attrs.getLsbD 2) = false → tablesFit b q.fn q.tag.toNat p (c.mappings ++ [m]) = true →
      ∃ t, exec i s = .next t ∧ t.pending = s.pending ∧
        ctxAt t.blk q.tag.toNat = some { c with
          mappings := c.mappings ++ [m], tables := placeTables b q.fn p q.tag.toNat c.tables (c.mappings ++ [m]) } ∧ Ended t.blk s.blk.dealer.nextCmd stOk handle ∧
        (∃ k ∈ t.blk.dealer.cmds, k.id = s.blk.dealer.nextCmd ∧ k.refs = [index]) ∧
        (∀ g, g ≠ q.tag.toNat → ctxAt t.blk g = ctxAt s.blk g) ∧
        t.blk = { b with ctxs := t.blk.ctxs, dealer := { b.dealer with cmds := t.blk.dealer.cmds } })
  )

/-- MEM_UNMAP of a union of whole mappings removes exactly those and waits for its invalidation; MEM_FREE makes its object DYING and
waits until nothing references it. Neither writes memory. -/
def Obligations.UnmapAndFreeWait : Prop :=
  (∀ (q : QRef) (h : Hdr) (va bytes : BitVec 64) (s : State) (c : Ctx) (p : Part),
    let i : Instr := .memUnmap q h va bytes
    let b := fetched i q h 0x11 s.blk
    let hit := c.mappings.filter (fun m => overlap m.va m.bytes va.toNat bytes.toNat)
    let left := c.mappings.filter (fun m => !(hit.contains m))
    accepted i q h 0x11 s.blk = true → ctxAt b q.tag.toNat = some c → partAt b q.fn = some p → bytes ≠ 0 →
    (∀ m ∈ hit, va.toNat ≤ m.va ∧ m.va + m.bytes ≤ va.toNat + bytes.toNat) → sum (hit.map (fun m => m.bytes)) = bytes.toNat →
    (∀ m ∈ hit, ∀ o, tabGet p.objects m.object = some o → objGone o s.blk.dealer.nextCmd = false) →
    ∃ t, exec i s = .next t ∧ t.pending = s.pending ∧
      ctxAt t.blk q.tag.toNat = some { c with
        mappings := left, tables := placeTables b q.fn p q.tag.toNat c.tables left } ∧
      Stands t.blk s.blk.dealer.nextCmd (.invalidation s.blk.xlat.nextInv) ∧ t.blk.xlat.nextInv = s.blk.xlat.nextInv + 1 ∧
      (∃ v ∈ t.blk.xlat.invals, v.id = s.blk.xlat.nextInv ∧ v.source = .unmap s.blk.dealer.nextCmd ∧
        v.scope = .va q.tag va.toNat (va.toNat + bytes.toNat) ∧ v.receipt = now b ∧ v.abort = false) ∧
      (∀ g, g ≠ q.tag.toNat → ctxAt t.blk g = ctxAt s.blk g) ∧
      t.blk = { b with ctxs := t.blk.ctxs, xlat := t.blk.xlat, dealer := t.blk.dealer }) ∧
  (∀ (q : QRef) (h : Hdr) (handle : BitVec 32) (s : State) (p : Part) (o : Obj),
    let i : Instr := .memFree q h handle
    let b := fetched i q h 0x15 s.blk
    let index := handle.toNat % 2 ^ 16
    accepted i q h 0x15 s.blk = true → handle.toNat / 2 ^ 26 = q.fn → partAt b q.fn = some p →
    tabGet p.objects index = some o → o.gen.toNat = handle.toNat / 2 ^ 16 % 2 ^ 10 → o.state = .live →
    ∃ t u, exec i s = .next t ∧ t.pending = s.pending ∧ t.blk = settle u ∧
      (∃ p', partAt u q.fn = some p' ∧ tabGet p'.objects index = some { o with state := .dying s.blk.dealer.nextCmd } ∧
        (∀ j, j ≠ index → tabGet p'.objects j = tabGet p.objects j)) ∧
      Stands u s.blk.dealer.nextCmd (.memFree q.fn index) ∧
      u = { b with parts := u.parts, dealer := { b.dealer with cmds := u.dealer.cmds } })

/-- MEM_COPY, MEM_FILL and QUERY whose ranges resolve are given to the mover as one operation a tile, in ascending order, and reference
the objects of their ranges: a copy of each source tile to its destination, the pattern over the bytes of each tile that MEM_FILL
covers, and 256 bytes for a usage record, of which QUERY's detail tells the length; nothing is written at the fetch. MEM_IMPORT of a
container whose header keeps R332 is given to the mover: one that is not encrypted is read and then converted tile by tile; an encrypted
one, of a partition with a session key and a nonce above the last, is staged, read back and authenticated, and read back again to be
converted (R333). A header that does not keep R332 ends it with ST_INVALID_FIELD, and no session key with ST_NOT_PERMITTED; nothing is
written at the fetch. -/
def Obligations.MoverWorkStarts : Prop :=
  (
  (∀ (q : QRef) (h : Hdr) (src dst bytes : BitVec 64) (s : State) (from' to' : List (TilePlace × Nat)),
    let i : Instr := .memCopy q h src dst bytes
    let b := fetched i q h 0x12 s.blk
    accepted i q h 0x12 s.blk = true → bytes ≠ 0 → bytes.toNat % 4096 = 0 → src.toNat % 4096 = 0 → dst.toNat % 4096 = 0 →
    cmdTiles b q.tag.toNat s.blk.dealer.nextCmd 0xF5 false src.toNat bytes.toNat = .ok from' →
    cmdTiles b q.tag.toNat s.blk.dealer.nextCmd 0xF6 true dst.toNat bytes.toNat = .ok to' →
    ∃ t, exec i s = .next t ∧ t.pending = s.pending ∧
      Stands t.blk s.blk.dealer.nextCmd
        (.mover ⟨((places from').zip (places to')).map (fun e => .copy e.1 e.2), [], 0, none, []⟩) ∧
      (∃ k ∈ t.blk.dealer.cmds, k.id = s.blk.dealer.nextCmd ∧ k.refs = objectsOf (from' ++ to')) ∧
      t.blk = { b with dealer := { b.dealer with cmds := t.blk.dealer.cmds } }) ∧
  (∀ (q : QRef) (h : Hdr) (dst bytes pattern : BitVec 64) (s : State) (to' : List (TilePlace × Nat)),
    let i : Instr := .memFill q h dst bytes pattern
    let b := fetched i q h 0x13 s.blk
    accepted i q h 0x13 s.blk = true → bytes ≠ 0 → bytes.toNat % 8 = 0 → dst.toNat % 8 = 0 →
    cmdTiles b q.tag.toNat s.blk.dealer.nextCmd 0xF6 true dst.toNat bytes.toNat = .ok to' →
    ∃ t ops, exec i s = .next t ∧ t.pending = s.pending ∧
      Stands t.blk s.blk.dealer.nextCmd (.mover ⟨ops, [], 0, none, []⟩) ∧ ops.length = to'.length ∧
      (∃ k ∈ t.blk.dealer.cmds, k.id = s.blk.dealer.nextCmd ∧ k.refs = objectsOf to') ∧
      (∀ (n : Nat) (p : TilePlace), (places to')[n]? = some p →
        let lo := max dst.toNat p.va
        let hi := min (dst.toNat + bytes.toNat) (p.va + 4096)
        ops[n]? = some (.put p (lo - p.va) (List.replicate ((hi - lo) / 8) (leBytes 8 pattern.toNat)).flatten)) ∧
      t.blk = { b with dealer := { b.dealer with cmds := t.blk.dealer.cmds } }) ∧
  (∀ (q : QRef) (h : Hdr) (va : BitVec 64) (s : State) (to' : List (TilePlace × Nat)),
    let i : Instr := .query q h 0 va
    let b := fetched i q h 0x50 s.blk
    accepted i q h 0x50 s.blk = true → va.toNat % 64 = 0 →
    cmdTiles b q.tag.toNat s.blk.dealer.nextCmd 0xF8 true va.toNat 256 = .ok to' →
    ∃ t ops, exec i s = .next t ∧ t.pending = s.pending ∧
      Stands t.blk s.blk.dealer.nextCmd (.mover ⟨ops, [], 256, none, []⟩) ∧ ops.length = to'.length ∧
      (∃ k ∈ t.blk.dealer.cmds, k.id = s.blk.dealer.nextCmd ∧ k.refs = objectsOf to') ∧
      (∀ (n : Nat) (p : TilePlace), (places to')[n]? = some p →
        let lo := max va.toNat p.va
        let hi := min (va.toNat + 256) (p.va + 4096)
        ops[n]? = some (.put p (lo - p.va) (zeros (hi - lo)))) ∧
      t.blk = { b with dealer := { b.dealer with cmds := t.blk.dealer.cmds } })
  ) ∧
  (
  ∀ (q : QRef) (h : Hdr) (src dst n : BitVec 64) (formats flags : BitVec 8) (s : State) (from' : List (TilePlace × Nat)) (hd : List Byte),
    let i : Instr := .memImport q h src dst n formats flags
    let id := s.blk.dealer.nextCmd
    let b := fetched i q h 0x14 s.blk
    let sf := formats.toNat % 16
    let df := formats.toNat / 16
    let enc := flags.getLsbD 0
    accepted i q h 0x14 s.blk = true → importPair sf df = true → flags.toNat < 2 → 64 ≤ n.toNat →
    cmdTiles b q.tag.toNat id 0xF5 false src.toNat n.toNat = .ok from' → headerBytes b (places from') src.toNat = .ok hd →
    (importHeader hd sf enc n.toNat = none → exec i s = .next ⟨finish b id stInvalidField 0, s.pending⟩) ∧
    (∀ count payload to', importHeader hd sf enc n.toNat = some (count, payload) →
      (enc = true → sessionKey b q.fn = none → exec i s = .next ⟨finish b id stNotPermitted 0, s.pending⟩) ∧
      ((enc = true → sessionKey b q.fn ≠ none ∧ from'.length ≤ stagingTiles b q.fn ∧ lastNonce b q.fn < leAt hd 0x18 12) →
        0 < fmtBytes df count → cmdTiles b q.tag.toNat id 0xF6 true dst.toNat (fmtBytes df count) = .ok to' →
        let src' := places from'
        let conv := (places to').map (fun p =>
          MoverOp.conv p (max dst.toNat p.va - p.va) (max dst.toNat p.va - dst.toNat) (p.va + 4096 - max dst.toNat p.va))
        ∃ t, exec i s = .next t ∧ t.pending = s.pending ∧
          Stands t.blk id (.mover ⟨if enc then src'.map (fun p => .stage p 0) ++ src'.map (fun _ => .readStaged 0) ++ [.auth] ++
              src'.map (fun _ => .readStaged 0) ++ conv else src'.map (fun p => .read p) ++ conv,
            [], to'.length, some ⟨sf, df, src.toNat % 4096, payload, count, enc⟩, []⟩) ∧
          (∃ k ∈ t.blk.dealer.cmds, k.id = id ∧ k.refs = objectsOf (from' ++ to')) ∧
          t.blk = { b with dealer := { b.dealer with cmds := t.blk.dealer.cmds } }))
  )

/-- A tile copied by the mover between device memories whose source keeps its check: the destination holds the source's bytes, its check
is right, and no other byte of device memory and none of host memory changes; a source that fails its check stops the command with
ST_CHECKSUM, and so does one whose read an array reports as uncorrectable, which then fails every later check (R316, R317, R331). A
mover slot goes to the partition that holds it, after what the cores have done by its last tick: its current command's operations, an
import's apart, run while their tiles find capacity, and the command ends with their result when none is left or one fails; a slot that
nothing is served in passes. A slot once passed does not come again in its round. -/
def Obligations.MoverSlotsMoveTiles : Prop :=
  (
  ∀ (c : Cmd) (m : Moving) (x y : TilePlace), x.host = false → y.host = false → y.out % 4096 = 0 →
    (tileOk m.b x.out = false → runOp c m (.copy x y) = .error stChecksum) ∧
    (tileOk m.b x.out = true → ∃ m', runOp c m (.copy x y) = .ok m' ∧
      tileBytes m'.b y.out = tileBytes m.b x.out ∧ tileOk m'.b y.out = true ∧
      (∀ a, (a < y.out ∨ y.out + 4096 ≤ a) → memRead m'.b.mem.bytes a = memRead m.b.mem.bytes a) ∧
      m'.b.mem.host = m.b.mem.host ∧ m'.job = m.job ∧ m'.used = m.used) ∧
    (∀ trim errs ops, hasRoom trim m.used (opRes m.b (.copy x y)) = true → errAt errs x.out = .uncorrectable →
      ∃ u, runOps c trim errs (.copy x y :: ops) m = .error (stChecksum, u) ∧ tileOk u x.out = false ∧ u.mem.bytes = m.b.mem.bytes ∧
        u = { m.b with mem := { m.b.mem with tiles := u.mem.tiles, ecc := u.mem.ecc, gecc := u.mem.gecc, cache := u.mem.cache } })
  ) ∧
  (
  ∀ (i fn : Nat) (errs : List (Nat × ReadErr)) (s : State),
    let b := s.blk
    let x := { b.tb with tick := 7808 * i + 7807, moverSlots := i + 1 }
    let now' := { workTo (7808 * i + 7808) b with tb := x }
    let trim := decide (b.tb.round = 9999)
    alive b = true → ticking b = true →
    (i < b.tb.moverSlots → exec (.moverSlot i errs) s = .next { s with blk := settle b }) ∧
    (b.tb.moverSlots ≤ i → 7808 * i + 7807 ≤ lastTick b.tb → b.tb.tick ≤ 7808 * i + 7807 → slotOwner now' i = some fn →
      (∀ st ∈ now'.dealer.steps, st.fn = fn → st.stage ≠ .staging) →
      (∀ k ∈ now'.dealer.cmds, ∀ v a l d, k.stage ≠ .saving v a l d) →
      (currentCmd now' fn = none → exec (.moverSlot i errs) s = .next { s with blk := settle now' }) ∧
      (∀ c j, currentCmd now' fn = some c → c.stage = .mover j → j.imp = none →
        ∃ t u, exec (.moverSlot i errs) s = .next t ∧ t.pending = s.pending ∧ t.blk = settle u ∧ u.tb = x ∧ u.cores = now'.cores ∧
          (∀ code b1, runOps c trim errs j.ops ⟨now', j, []⟩ = .error (code, b1) → Ended u c.id code 0) ∧
          (∀ m, runOps c trim errs j.ops ⟨now', j, []⟩ = .ok m → m.job.ops = [] →
            Ended u c.id stOk (BitVec.ofNat 32 m.job.detail)) ∧
          (∀ m, runOps c trim errs j.ops ⟨now', j, []⟩ = .ok m → m.job.ops ≠ [] → Stands u c.id (.mover m.job)))) ∧
    (b.tb.moverSlots ≤ i → 7808 * i + 7807 ≤ lastTick b.tb → b.tb.tick ≤ 7808 * i + 7807 → slotOwner now' i = none →
      (∀ c ∈ now'.dealer.cmds, (∀ n src moved, c.stage ≠ .baseLoad n src moved) ∧ (∀ v a l d, c.stage ≠ .saving v a l d)) →
      now'.lantern.dumping = false →
      exec (.moverSlot i errs) s = .next { s with blk := settle now' })
  )

/-! ## Plans and steps -/

/-- PLAN_LOAD queues in its function's verification stream with its tiles resolved; PLAN_UNLOAD of a sealed plan makes it dying and
waits for the steps fetched before it. STEP of a plan that holds the phase becomes a step of the Dealer with the next serial number and
the packet's fields, set aside, and is taken up at once; one whose handle names no plan, or that was fetched after a PLAN_UNLOAD of it,
ends with ST_OBJECT_GONE, one whose phase the plan lacks with ST_INVALID_FIELD. A serve or forward step that finds no eligible sequence
ends with ST_OK and detail 0, and one that finds no free deal list waits for one (R173, R206, R211, R215). The entries a deal seats are
eligible ones of the partition's own range, at most as many as the plan has seats, in the order of class, served count and index; a
serve deal leaves an eligible entry out only when its seats are taken by entries that come before it (R210 to R213). A round of a
function's verification stream: a plan that the store has no room for and a table that is full end it with ST_NO_RESOURCE; four segment
entries are checked a round; a rejection, and a plan that passed, ends in the next changeover window, the plan then sealed at the lowest
free index under its next generation. -/
def Obligations.PlansLoadStepAndVerify : Prop :=
  (
  (∀ (q : QRef) (h : Hdr) (va : BitVec 64) (n : BitVec 32) (s : State) (l : List (TilePlace × Nat)),
    let i : Instr := .planLoad q h va n
    let b := fetched i q h 0x20 s.blk
    accepted i q h 0x20 s.blk = true →
    cmdTiles b q.tag.toNat s.blk.dealer.nextCmd 0xF7 false va.toNat n.toNat = .ok l →
    ∃ t, exec i s = .next t ∧ t.pending = s.pending ∧
      Stands t.blk s.blk.dealer.nextCmd (.planLoad va.toNat n.toNat (places l) [] 0 .queued) ∧
      (∃ k ∈ t.blk.dealer.cmds, k.id = s.blk.dealer.nextCmd ∧ k.refs = objectsOf l) ∧
      t.blk = { b with dealer := { b.dealer with cmds := t.blk.dealer.cmds } }) ∧
  (∀ (q : QRef) (h : Hdr) (handle : BitVec 32) (s : State) (c : Ctx) (p : Plan),
    let i : Instr := .planUnload q h handle
    let b := fetched i q h 0x21 s.blk
    let index := handle.toNat % 256
    accepted i q h 0x21 s.blk = true → ctxAt b q.tag.toNat = some c → tabGet c.plans index = some p →
    p.gen.toNat = handle.toNat / 256 → p.state = .isSealed →
    ∃ t u, exec i s = .next t ∧ t.pending = s.pending ∧ t.blk = settle u ∧
      (∃ c', ctxAt u q.tag.toNat = some c' ∧ tabGet c'.plans index = some { p with state := .dying } ∧
        (∀ j, j ≠ index → tabGet c'.plans j = tabGet c.plans j)) ∧
      Stands u s.blk.dealer.nextCmd (.planUnload index) ∧
      (∀ g, g ≠ q.tag.toNat → ctxAt u g = ctxAt s.blk g) ∧
      u = { b with ctxs := u.ctxs, dealer := { b.dealer with cmds := u.dealer.cmds } })
  ) ∧
  (
  (∀ (q : QRef) (h : Hdr) (plan : BitVec 32) (phase view : BitVec 8) (va : BitVec 64) (s : State) (c : Ctx),
    let i : Instr := .stepCmd q h plan phase view va
    let b := fetched i q h 0x22 s.blk
    let id := s.blk.dealer.nextCmd
    let sid := s.blk.dealer.nextStep
    let unloaded := b.dealer.cmds.any (fun x => x.q.tag == q.tag && x.stage == .planUnload (plan.toNat % 256) && decide (x.id < id))
    accepted i q h 0x22 s.blk = true → ctxAt b q.tag.toNat = some c →
    (∀ p, planAt c plan = some p → unloaded = false → phaseOk p.image phase.toNat = true →
      ∃ t u st, exec i s = .next t ∧ t.pending = s.pending ∧ t.blk = settle (takeUp u sid) ∧
        u.dealer.steps = s.blk.dealer.steps ++ [st] ∧ u.dealer.nextStep = sid + 1 ∧ Stands u id (.step sid) ∧
        st.id = sid ∧ st.cmd = id ∧ st.fn = q.fn ∧ st.tag = q.tag ∧ st.plan = plan ∧ st.phase = phase.toNat ∧ st.view = view ∧
        st.bindingVa = va ∧ st.stage = .setAside ∧ st.deal = none ∧ st.pins = [] ∧ st.next = 0 ∧
        u = { b with dealer := { b.dealer with cmds := u.dealer.cmds, steps := u.dealer.steps, nextStep := u.dealer.nextStep } }) ∧
    ((planAt c plan = none ∨ unloaded = true) → exec i s = .next ⟨settle (finish b id stObjectGone 0), s.pending⟩) ∧
    (∀ p, planAt c plan = some p → unloaded = false → phaseOk p.image phase.toNat = false →
      exec i s = .next ⟨settle (finish b id stInvalidField 0), s.pending⟩)) ∧
  (∀ (b : Block) (st : Step) (p : Part) (m : ByteMem),
    (dealt b st p m = [] → dealStep b st p m = endStep b st stOk 0) ∧
    (dealt b st p m ≠ [] → freeList b st.fn = none → dealStep b st p m = modStep b st.id (fun x => { x with stage := .noList })))
  ) ∧
  (
  ∀ (b : Block) (st : Step) (p : Part) (m : ByteMem),
    (∀ e ∈ dealt b st p m, p.desc.seqBase ≤ e.1 ∧ e.1 < p.desc.seqBase + p.desc.seqCount ∧ e.2 = seqAt b e.1 ∧
      eligibleSeq b st p.desc.pooling m e.2 = true) ∧
    (dealt b st p m).length ≤ imgSeats m ∧
    (dealt b st p m).Pairwise (fun x y => dealKey x ≤ dealKey y) ∧
    (st.phase = 0 → ∀ i, p.desc.seqBase ≤ i → i < p.desc.seqBase + p.desc.seqCount →
      eligibleSeq b st p.desc.pooling m (seqAt b i) = true → (i, seqAt b i) ∉ dealt b st p m →
      (dealt b st p m).length = imgSeats m ∧ ∀ e ∈ dealt b st p m, dealKey e ≤ dealKey (i, seqAt b i))
  ) ∧
  (
  ∀ (fn : Nat) (errs : List (Nat × ReadErr)) (s : State) (k : Cmd) (va n : Nat) (l : List TilePlace) (image : ByteMem)
    (hash : BitVec 384) (st : PlanLoadStage) (p : Part) (c : Ctx),
    let b := s.blk
    let all := imgTricks image * 4 ^ imgOrder image
    let put := fun (t : State) (x : PlanLoadStage) => Stands t.blk k.id (.planLoad va n l image hash x)
    alive b = true → ticking b = true → b.tb.boundaryDone = true → fn < 64 → (fnAt b fn).state ≠ .frozen →
    (fnAt b fn).lastVerify ≠ some (roundCount b.tb) → streamHead b fn = some k → k.stage = .planLoad va n l image hash st →
    partAt b fn = some p → ctxAt b k.q.tag.toNat = some c →
    ∃ t, exec (.planVerifyRound fn errs) s = .next t ∧ t.pending = s.pending ∧
      fnAt t.blk fn = { fnAt b fn with lastVerify := some (roundCount b.tb) } ∧ t.blk.tb = b.tb ∧ t.blk.cores = b.cores ∧
      (st = .queued → storeFits b fn p n = false → Stands t.blk k.id (.planLoad va n [] [] 0 (.ending stNoResource 0 false))) ∧
      (∀ r, st = .planChecks → planLevel b image n = some r →
        put t (.ending stPlanRejected (BitVec.ofNat 32 (0xFFFF * 65536 + r)) false)) ∧
      (st = .planChecks → planLevel b image n = none → loadLevel b p c image = none → put t (.segments 0)) ∧
      (∀ done, st = .segments done → (∀ trick, trick < imgTricks image → trickLevel b image trick = none) →
        put t (if done + 4 < all then .segments (done + 4) else .ending stOk 0 true)) ∧
      (∀ code detail, st = .ending code detail false → b.tb.tick ≤ 2047 → Ended t.blk k.id code detail) ∧
      (∀ code detail, st = .ending code detail true → b.tb.tick ≤ 2047 →
        let i := lowestFree c.plans 0
        let gen := nextGen (tabGetD p.planGens (k.q.tag.toNat * 256 + i) 0)
        Ended t.blk k.id stOk (gen ++ BitVec.ofNat 8 i) ∧
        ctxAt t.blk k.q.tag.toNat = some { c with plans := tabSet c.plans i ⟨gen, .isSealed, image, n, hash⟩ }) ∧
      (∀ code detail sealing, st = .ending code detail sealing → 2047 < b.tb.tick → put t st)
  )

/-! ## Contexts and partitions -/

/-- QUEUE_CREATE gives a live context an empty ring, a CQ armed and in its first phase; QUEUE_DESTROY takes away a ring that nothing
uses, and ends with ST_BUSY while something does. -/
def Obligations.QueueCreateAndDestroy : Prop :=
  ∀ (q : QRef) (h : Hdr) (s : State) (c : Ctx) (kind index : BitVec 8),
    let id := s.blk.dealer.nextCmd
    let g := h.tag.toNat
    c.fn = q.fn → c.state = .live →
    (∀ (level vector log2 : BitVec 8) (ring : BitVec 64),
      let i : Instr := .queueCreate q h kind index level vector log2 ring
      let b := fetched i q h 0x60 s.blk
      accepted i q h 0x60 s.blk = true → ctxAt b g = some c → index.toNat ≤ 7 → 4 ≤ log2.toNat → log2.toNat ≤ 12 →
      ring.toNat % 4096 = 0 → level = 1 →
      (kind = 1 → vector.toNat ≤ 63 → tabGet c.cqs index.toNat = none →
        ∃ t, exec i s = .next t ∧ t.pending = s.pending ∧
          ctxAt t.blk g = some { c with
            cqs := tabSet c.cqs index.toNat ⟨ring, log2.toNat, vector.toNat, 0, 0, true, true, 0⟩ } ∧ Ended t.blk id stOk 0 ∧
          (∀ x, x ≠ g → ctxAt t.blk x = ctxAt b x) ∧
          t.blk = { b with ctxs := t.blk.ctxs, dealer := { b.dealer with cmds := t.blk.dealer.cmds } }) ∧
      (kind = 0 → vector = 0 → tabGet c.sqs index.toNat = none → tabGet c.cqs 0 ≠ none →
        ∃ t, exec i s = .next t ∧ t.pending = s.pending ∧
          ctxAt t.blk g = some { c with sqs := tabSet c.sqs index.toNat ⟨ring, log2.toNat, 1, 0, 0⟩ } ∧ Ended t.blk id stOk 0 ∧
          (∀ x, x ≠ g → ctxAt t.blk x = ctxAt b x) ∧
          t.blk = { b with ctxs := t.blk.ctxs, dealer := { b.dealer with cmds := t.blk.dealer.cmds } })) ∧
    (let i : Instr := .queueDestroy q h kind index
      let b := fetched i q h 0x61 s.blk
      accepted i q h 0x61 s.blk = true → ctxAt b g = some c → kind.toNat ≤ 1 → hasQueue c kind index = true →
      ∃ t, exec i s = .next t ∧ t.pending = s.pending ∧
        (queueBusy b h.tag c kind index = true → t.blk = finish b id stBusy 0) ∧
        (queueBusy b h.tag c kind index = false →
          ctxAt t.blk g = some (if kind = 1 then { c with cqs := tabDel c.cqs index.toNat }
            else { c with sqs := tabDel c.sqs index.toNat }) ∧ Ended t.blk id stOk 0 ∧
          (∀ x, x ≠ g → ctxAt t.blk x = ctxAt b x) ∧
          t.blk = { b with ctxs := t.blk.ctxs, dealer := { b.dealer with cmds := t.blk.dealer.cmds } }))

/-- CTX_CREATE makes a live context, not resident and without queues, plans, mappings or a held deal, at the lowest free tag of its
partition's range, with the fence page and spill area of its packet, and answers the tag; no other context changes, and nothing outside
the contexts and the command (R251, R253, R254). CTX_DESTROY of a live or LOST context begins: the context is DESTROYING, its held deal
is released, every fetched and unfinished command of it that has a CQ entry and is no STEP ends with ST_ABORTED, every step that touches
it has ended or is marked aborted, and the CTX_DESTROY itself stands; a tag that names no such context of the function ends it with
ST_INVALID_FIELD. Nothing changes but contexts, the Dealer, and when functions last ended a PLAN_LOAD (R258). -/
def Obligations.ContextsAreMadeAndDestroyed : Prop :=
  (
  ∀ (q : QRef) (h : Hdr) (page : BitVec 64) (count : BitVec 32) (spill : BitVec 64) (tiles : BitVec 32) (s : State) (p : Part)
    (g : Nat),
    let i : Instr := .ctxCreate q h page count spill tiles
    let b := fetched i q h 0x70 s.blk
    accepted i q h 0x70 s.blk = true → partAt b q.fn = some p → page.toNat % 4096 = 0 → 1 ≤ count.toNat → count.toNat ≤ 65535 →
    spillOk b q.fn p spill tiles = true → (ctxsOf b q.fn).length < p.desc.maxContexts →
    p.desc.tagFirst ≤ g → g < p.desc.tagFirst + p.desc.tagCount → ctxAt b g = none →
    (∀ x, p.desc.tagFirst ≤ x → x < g → ctxAt b x ≠ none) →
    ∃ t c, exec i s = .next t ∧ t.pending = s.pending ∧ ctxAt t.blk g = some c ∧
      c = newCtx q.fn page count.toNat spill tiles.toNat (placeTables b q.fn p g [] []) ∧
      c.fn = q.fn ∧ c.state = .live ∧ c.resident = false ∧ c.fencePage = page ∧ c.fenceCount = count.toNat ∧ c.spill = spill ∧
      c.spillTiles = tiles.toNat ∧ c.sqs = [] ∧ c.cqs = [] ∧ c.plans = [] ∧ c.mappings = [] ∧ c.held = none ∧
      c.counters = Counters.zero ∧ Ended t.blk s.blk.dealer.nextCmd stOk (BitVec.ofNat 32 g) ∧
      (∀ x, x ≠ g → ctxAt t.blk x = ctxAt b x) ∧
      t.blk = { b with ctxs := t.blk.ctxs, dealer := { b.dealer with cmds := t.blk.dealer.cmds } }
  ) ∧
  (
  ∀ (q : QRef) (h : Hdr) (s : State),
    let i : Instr := .ctxDestroy q h
    let b := fetched i q h 0x71 s.blk
    accepted i q h 0x71 s.blk = true →
    (∀ c, ctxAt b h.tag.toNat = some c → c.fn = q.fn → c.state ≠ .destroying →
      ∃ t u, exec i s = .next t ∧ t.pending = s.pending ∧ t.blk = settle u ∧
        ctxAt u h.tag.toNat = some { c with state := .destroying, wantsSwapIn := false, held := none } ∧
        Stands u s.blk.dealer.nextCmd (.ctxDestroy h.tag none) ∧
        (∀ x ∈ b.dealer.cmds, abortable h.tag x = true → x.id ≠ s.blk.dealer.nextCmd → (∀ y ∈ b.dealer.steps, y.cmd ≠ x.id) →
          Ended u x.id stAborted 0) ∧
        (∀ x y, stepById b x.id = some x → stepTouches h.tag.toNat x = true → stepById u x.id = some y →
          y.stage = .finished ∨ y.aborted = true) ∧
        (∀ f, fnAt u f = { fnAt b f with loadEnded := (fnAt u f).loadEnded }) ∧
        u = { b with ctxs := u.ctxs, dealer := u.dealer, fns := u.fns }) ∧
    ((∀ c, ctxAt b h.tag.toNat = some c → c.fn ≠ q.fn ∨ c.state = .destroying) →
      exec i s = .next ⟨settle (finish b s.blk.dealer.nextCmd stInvalidField 0), s.pending⟩)
  )

/-- PART_CREATE of an absent VF by a descriptor that passes the checks of R341 and reaches no active trace buffer makes the partition it
describes, READY, its TDISP interface unlocked, a new far key drawn for it, every byte of its carve-outs zero, and answers the VF
number; every other byte but a held trace stays, and nothing changes but what the conclusion names. PART_DESTROY of a present partition
begins: it is marked as ending, every context of it is DESTROYING, no command it has in progress will be recorded, and an invalidation
of the whole partition is received; a STOP that is scrubbing it is answered that the interface does not exist. Of an absent one it ends
with ST_INVALID_FIELD. -/
def Obligations.PartitionsAreMadeAndDestroyed : Prop :=
  (
  ∀ (q : QRef) (h : Hdr) (vf : BitVec 8) (descriptor : BitVec 64) (s : State),
    let i : Instr := .partCreate q h vf descriptor
    let b := fetched i q h 0x80 s.blk
    let raw := hostRead b descriptor.toNat 256
    let v := vf.toNat
    accepted i q h 0x80 s.blk = true → vfExists b v = true → (fnAt b v).state = .absent → descOk b raw = true →
    poolOk b (partDesc raw) = true → meetsLantern b (partDesc raw) = false →
    ∃ t, exec i s = .next t ∧ t.pending = s.pending ∧
      partAt t.blk v = some (newPart (partDesc raw)) ∧ (fnAt t.blk v).state = .ready ∧
      tabGet t.blk.grotto.tdisp v = some ⟨.unlocked, 0, []⟩ ∧
      tabGet t.blk.grotto.farKeys v = some (Config.random b.grotto.draws) ∧
      t.blk.grotto = { b.grotto with draws := b.grotto.draws + 1, farKeys := t.blk.grotto.farKeys, tdisp := t.blk.grotto.tdisp } ∧
      (∀ r ∈ carveRanges (partDesc raw), ∀ a, r.1 ≤ a → a < r.1 + r.2 → memRead t.blk.mem.bytes a = 0) ∧
      (∀ a, (∀ r ∈ carveRanges (partDesc raw), a < r.1 ∨ r.1 + r.2 ≤ a) →
        (a < b.lantern.held.1 ∨ b.lantern.held.1 + 4096 * b.lantern.held.2 ≤ a) →
        memRead t.blk.mem.bytes a = memRead b.mem.bytes a) ∧
      (∀ w, w ≠ v → partAt t.blk w = partAt b w) ∧ (∀ w, w ≠ v → fnAt t.blk w = fnAt b w) ∧
      t.blk.mem.host = b.mem.host ∧ Ended t.blk s.blk.dealer.nextCmd stOk (vf.setWidth 32) ∧
      t.blk = { b with
        parts := t.blk.parts, fns := t.blk.fns, grotto := t.blk.grotto, mem := t.blk.mem, lantern := t.blk.lantern, out := t.blk.out
        cal := { b.cal with staged := t.blk.cal.staged }, dealer := { b.dealer with cmds := t.blk.dealer.cmds } }
  ) ∧
  (
  ∀ (q : QRef) (h : Hdr) (vf : BitVec 8) (s : State),
    let i : Instr := .partDestroy q h vf
    let b := fetched i q h 0x81 s.blk
    let v := vf.toNat
    accepted i q h 0x81 s.blk = true →
    (∀ p, vfExists b v = true → (fnAt b v).state ≠ .absent → partAt b v = some p →
      ∃ t u, exec i s = .next t ∧ t.pending = s.pending ∧ t.blk = settle u ∧
        partAt u v = some { p with ending := some (.destroy s.blk.dealer.nextCmd false) } ∧
        (∃ w ∈ u.xlat.invals, w.source = .partDestroy v ∧ w.scope = .part v ∧ w.abort = false ∧ w.receipt = now b) ∧
        (∀ k ∈ u.dealer.cmds, k.q.fn = v → k.suppressed = true) ∧
        (∀ g c, g < 65536 → ctxAt b g = some c → c.fn = v → ∃ c', ctxAt u g = some c' ∧ c'.state = .destroying) ∧
        (p.ending = some (.scrub true) → (fnAt b 0).gr.taken ≠ none → u.grotto.reply = some .tdispAbsent) ∧
        (∀ x, x ≠ v → partAt u x = partAt b x) ∧ u.boot = b.boot ∧ u.cal = b.cal ∧ u.mem.bytes = b.mem.bytes ∧ u.cores = b.cores) ∧
    ((vfExists b v = false ∨ (fnAt b v).state = .absent) →
      exec i s = .next ⟨settle (finish b s.blk.dealer.nextCmd stInvalidField 0), s.pending⟩)
  )

/-- PART_FREEZE of a running partition freezes it, breaks a locked or running device interface, and stands; nothing changes but its
function's state, contexts, the interface, the Dealer's work and the messages sent. PART_THAW of a frozen one lets it run, ends with
ST_OK, and processes its pending commands again in the order of their fetch. Other states end them with ST_BUSY, ST_INVALID_FIELD and
ST_NOT_PERMITTED. -/
def Obligations.PartitionsFreezeAndThaw : Prop :=
  ∀ (q : QRef) (h : Hdr) (vf : BitVec 8) (s : State),
    let v := vf.toNat
    let id := s.blk.dealer.nextCmd
    (let i : Instr := .partFreeze q h vf
      let b := fetched i q h 0x82 s.blk
      accepted i q h 0x82 s.blk = true → vfExists b v = true →
      ((fnAt b v).state = .running → ∃ t, exec i s = .next t ∧ t.pending = s.pending ∧ (fnAt t.blk v).state = .frozen ∧
        (fnAt t.blk v).intCause.getLsbD 6 = true ∧ Stands t.blk id (.freezing v) ∧
        (∀ x, tabGet b.grotto.tdisp v = some x → (x.state = .locked ∨ x.state = .run) →
          tabGet t.blk.grotto.tdisp v = some { x with state := .error }) ∧
        (∀ f, f ≠ v → fnAt t.blk f = fnAt b f) ∧
        t.blk = { b with
          fns := t.blk.fns, ctxs := t.blk.ctxs, dealer := t.blk.dealer, out := t.blk.out
          grotto := { b.grotto with tdisp := t.blk.grotto.tdisp } }) ∧
      ((fnAt b v).state = .frozen → exec i s = .next ⟨finish b id stBusy 0, s.pending⟩) ∧
      ((fnAt b v).state ≠ .frozen → (fnAt b v).state ≠ .running → exec i s = .next ⟨finish b id stInvalidField 0, s.pending⟩)) ∧
    (let i : Instr := .partThaw q h vf
      let b := fetched i q h 0x85 s.blk
      accepted i q h 0x85 s.blk = true → vfExists b v = true →
      ((fnAt b v).state = .frozen → ∃ t u, exec i s = .next t ∧ t.pending = s.pending ∧
        t.blk = settle (u.dealer.cmds.foldl (thawCmd v) u) ∧ (fnAt u v).state = .running ∧ Ended u id stOk 0 ∧
        (∀ f, f ≠ v → fnAt u f = fnAt b f) ∧
        u = { b with fns := u.fns, out := u.out, dealer := { b.dealer with cmds := u.dealer.cmds } }) ∧
      ((fnAt b v).state ≠ .frozen → exec i s = .next ⟨settle (finish b id stNotPermitted 0), s.pending⟩))

/-- PART_SAVE of a frozen partition with a migration key forms its image under that key and a new nonce and leaves it to the mover to
write, or ends with ST_NO_RESOURCE where the image is longer than the space; without a migration key it ends with ST_NOT_PERMITTED. The
partition stays as it is: reading its tiles touches only what the arrays keep of their reads and the cache. The mover writes the image 4
KiB at a time, and the command then ends with the image's size in KiB. PART_RESTORE under the VF's migration key of an image whose
descriptor passes R358: one that does not verify ends with ST_INVALID_FIELD and leaves no partition, one of whose plans a check rejects
ends with ST_PLAN_REJECTED and leaves none, and one that passes gives a FROZEN function of the image's descriptor and uses the key up.
-/
def Obligations.PartitionsAreSavedAndRestored : Prop :=
  (
  (∀ (q : QRef) (h : Hdr) (vf : BitVec 8) (image capacity : BitVec 64) (s : State) (p : Part),
    let i : Instr := .partSave q h vf image capacity
    let b := fetched i q h 0x83 s.blk
    let v := vf.toNat
    let id := s.blk.dealer.nextCmd
    accepted i q h 0x83 s.blk = true → vfExists b v = true → (fnAt b v).state = .frozen → partAt b v = some p →
    (tabGet b.grotto.migrationKeys v = none → exec i s = .next ⟨finish b id stNotPermitted 0, s.pending⟩) ∧
    (∀ key, tabGet b.grotto.migrationKeys v = some key →
      let img := imageOf (draw b).1 v p key ((draw b).2.setWidth 96)
      (capacity.toNat < img.length → exec i s = .next ⟨finish b id stNoResource 0, s.pending⟩) ∧
      (img.length ≤ capacity.toNat → ∃ t, exec i s = .next t ∧ t.pending = s.pending ∧
        Stands t.blk id (.saving v image.toNat img ((img.length + 1023) / 1024)) ∧ t.blk.mem.bytes = b.mem.bytes ∧
        t.blk.mem.host = b.mem.host ∧
        t.blk = { b with
          mem := { b.mem with tiles := t.blk.mem.tiles, cache := t.blk.mem.cache, ecc := t.blk.mem.ecc, gecc := t.blk.mem.gecc }
          grotto := { b.grotto with draws := b.grotto.draws + 1, cipherKeys := t.blk.grotto.cipherKeys }
          dealer := { b.dealer with cmds := t.blk.dealer.cmds } }))) ∧
  (∀ (b : Block) (id n vf a detail : Nat) (left : List Byte) (trim : Bool) (used : Tab Nat) (c : Cmd),
    cmdById b id = some c → c.stage = .saving vf a left detail →
    (left = [] → Ended (serveSave trim (n + 1) b id used) id stOk (BitVec.ofNat 32 detail) ∧
      (serveSave trim (n + 1) b id used).mem = b.mem) ∧
    (left ≠ [] → hasRoom trim used [1] = true → ∃ u, serveSave trim (n + 1) b id used = serveSave trim n u id (useRes used [1]) ∧
      Stands u id (.saving vf (a + 4096) (left.drop 4096) detail) ∧
      hostRead u a (left.take 4096).length = left.take 4096 ∧
      (∀ x, (x < a ∨ a + (left.take 4096).length ≤ x) → memRead u.mem.host x = memRead b.mem.host x) ∧
      u = { b with mem := { b.mem with host := u.mem.host }, out := u.out, dealer := { b.dealer with cmds := u.dealer.cmds } }) ∧
    (left ≠ [] → hasRoom trim used [1] = false → serveSave trim (n + 1) b id used = b))
  ) ∧
  (
  ∀ (q : QRef) (h : Hdr) (vf : BitVec 8) (image bytes : BitVec 64) (s : State) (key : BitVec 256),
    let i : Instr := .partRestore q h vf image bytes
    let b := fetched i q h 0x84 s.blk
    let v := vf.toNat
    let id := s.blk.dealer.nextCmd
    let img := hostRead b image.toNat bytes.toNat
    let raw := imageDesc img
    let asked := hostAsk image.toNat bytes.toNat b
    let bad := zeroCarve asked (partDesc raw)
    let saved := if imageHolds key img then readSaved key img else none
    accepted i q h 0x84 s.blk = true → vfExists b v = true → (fnAt b v).state = .absent → imageFits b v img = true →
    descOk b raw = true → poolOk b (partDesc raw) = true → meetsLantern b (partDesc raw) = false →
    tabGet b.grotto.migrationKeys v = some key →
    (saved = none → exec i s = .next ⟨settle (finish bad id stInvalidField 0), s.pending⟩) ∧
    (∀ x, saved = some x →
      (∀ d, restoreRejected (restoreAll asked v raw x) v = some d →
        exec i s = .next ⟨settle (finish bad id stPlanRejected d), s.pending⟩) ∧
      (restoreRejected (restoreAll asked v raw x) v = none →
        ∃ t u, exec i s = .next t ∧ t.pending = s.pending ∧ t.blk = settle u ∧ (fnAt u v).state = .frozen ∧
          tabGet u.grotto.migrationKeys v = none ∧ (∃ p, partAt u v = some p ∧ p.desc = partDesc raw) ∧
          Ended u id stOk (vf.setWidth 32))) ∧
    bad.parts = b.parts ∧ bad.ctxs = b.ctxs ∧ bad.fns = b.fns ∧ bad.grotto = b.grotto ∧ bad.dealer = b.dealer
  )

/-- CALENDAR_SET reads the table of its quads and writes the 1,000 staged entries of each where every entry keeps R146 and R344, and
leaves the active calendar alone; one bad entry refuses them all with ST_INVALID_FIELD. -/
def Obligations.CalendarSetStages : Prop :=
  ∀ (q : QRef) (h : Hdr) (first quads : BitVec 16) (table : BitVec 64) (s : State),
    let i : Instr := .calendarSet q h first quads table
    let b := fetched i q h 0x88 s.blk
    let id := s.blk.dealer.nextCmd
    let entry := fun (k j : Nat) => hostLE b (table.toNat + 2000 * k + 2 * j) 2
    accepted i q h 0x88 s.blk = true →
    ((∀ k, k < quads.toNat → quadHere b (first.toNat + k) = true ∧
        ∀ j, j < 1000 → entryOk b (first.toNat + k) (entry k j) = true) →
      ∃ t, exec i s = .next t ∧ t.pending = s.pending ∧ Ended t.blk id stOk 0 ∧
        (∀ k j, k < quads.toNat → j < 1000 →
          (tabGetD t.blk.cal.staged ((first.toNat + k) * 1000 + j) 0).toNat = entry k j) ∧
        (∀ x, (x < first.toNat * 1000 ∨ (first.toNat + quads.toNat) * 1000 ≤ x) →
          tabGetD t.blk.cal.staged x 0 = tabGetD b.cal.staged x 0) ∧
        t.blk = { hostAsk table.toNat (2000 * quads.toNat) b with
          cal := { b.cal with staged := t.blk.cal.staged }, dealer := { b.dealer with cmds := t.blk.dealer.cmds } }) ∧
    (∀ k j, k < quads.toNat → j < 1000 → entryOk b (first.toNat + k) (entry k j) = false →
      exec i s = .next ⟨finish (hostAsk table.toNat (2000 * quads.toNat) b) id stInvalidField 0, s.pending⟩)

/-- BASE_LOAD of a new set that the pool, the base entries of every die and the mover have room for takes the lowest free index, the
next generation, granules of the pool and its base entries, and stands for the mover to bring its tiles in; BASE_RELEASE of a set no
partition holds zeroes its memory and frees it with its base entries, of a held one it ends with ST_BUSY. -/
def Obligations.BaseSetsAreLoadedAndReleased : Prop :=
  ∀ (q : QRef) (h : Hdr) (s : State),
    let id := s.blk.dealer.nextCmd
    (∀ (descriptor : BitVec 64) (reps gold : Tab Nat),
      let i : Instr := .baseLoad q h descriptor
      let b := fetched i q h 0x90 s.blk
      let bs := hostRead b descriptor.toNat 256
      let k := lowestFree b.dealer.bases 0
      let gen := nextGen (tabGetD b.dealer.baseGens k 0)
      accepted i q h 0x90 s.blk = true → baseDescOk b bs = true → leAt bs 8 4 = 0 → k < 4 →
      baseEntriesFit b (leAt bs 6 2) (leAt bs 0x0C 4) = true → freeSlots b ≠ [] →
      baseRoom b (leAt bs 6 2) (leAt bs 0x0C 4) = some (reps, gold) →
      ∃ t x, exec i s = .next t ∧ t.pending = s.pending ∧ tabGet t.blk.dealer.bases k = some x ∧ x.gen = gen ∧ x.state = .loading ∧
        x.tiles = leAt bs 0x0C 4 ∧ x.dieMask = BitVec.ofNat 16 (leAt bs 6 2) ∧ x.replicas = reps ∧ x.golden = gold ∧
        x.digest = BitVec.ofNat 384 (leAt bs 0x18 48) ∧ tabGet t.blk.dealer.baseGens k = some gen ∧
        t.blk.xlat.base = b.xlat.base ++ (List.range (bld b).dies).flatMap (baseEntriesOn b k x) ∧
        Stands t.blk id (.baseLoad k (leAt bs 0x10 8) 0) ∧
        (∀ j, j ≠ k → tabGet t.blk.dealer.bases j = tabGet b.dealer.bases j) ∧
        t.blk = { hostAsk descriptor.toNat 256 b with
          xlat := { b.xlat with base := t.blk.xlat.base }
          dealer := { b.dealer with bases := t.blk.dealer.bases, baseGens := t.blk.dealer.baseGens, cmds := t.blk.dealer.cmds } }) ∧
    (∀ (set : BitVec 32) (x : BaseSet),
      let i : Instr := .baseRelease q h set
      let b := fetched i q h 0x91 s.blk
      accepted i q h 0x91 s.blk = true → tabGet b.dealer.bases (set.toNat % 4) = some x → x.gen.toNat = set.toNat / 4 →
      ((∃ e ∈ b.parts, e.2.desc.baseSet = set) → exec i s = .next ⟨finish b id stBusy 0, s.pending⟩) ∧
      ((∀ e ∈ b.parts, e.2.desc.baseSet ≠ set) →
        ∃ t, exec i s = .next t ∧ t.pending = s.pending ∧ tabGet t.blk.dealer.bases (set.toNat % 4) = none ∧
          Ended t.blk id stOk 0 ∧
          (∀ e ∈ x.replicas ++ x.golden, ∀ a, e.2 ≤ a → a < e.2 + (x.tiles + 262143) / 262144 * 2 ^ 30 →
            memRead t.blk.mem.bytes a = 0) ∧
          (∀ a, (∀ e ∈ x.replicas ++ x.golden, a < e.2 ∨ e.2 + (x.tiles + 262143) / 262144 * 2 ^ 30 ≤ a) →
            memRead t.blk.mem.bytes a = memRead b.mem.bytes a) ∧
          (∀ j, j ≠ set.toNat % 4 → tabGet t.blk.dealer.bases j = tabGet b.dealer.bases j) ∧
          (∀ e ∈ t.blk.xlat.base, e.index ≠ set.toNat % 4) ∧ t.blk.mem.host = b.mem.host ∧
          t.blk = { b with
            mem := t.blk.mem, xlat := { b.xlat with base := t.blk.xlat.base }
            dealer := { b.dealer with bases := t.blk.dealer.bases, cmds := t.blk.dealer.cmds } }))

/-- DEBUG_UNLOCK without a presence grant ends with ST_NOT_PERMITTED, and in debug state 1 with ST_OK. With a grant and no partitions it
zeroes every byte of the block's memories, drops the base sets and switches Lantern off, and stands; with partitions it begins to
destroy every one; debug does not open yet. The sample of the cable that finds it asserted after that erases the keys of R386, sets
debug state 1, opens the debug instructions and ends the command with ST_OK; a sample that finds it released does not. -/
def Obligations.DebugUnlockErasesFirst : Prop :=
  (∀ (q : QRef) (h : Hdr) (s : State),
    let i : Instr := .debugUnlock q h
    let b := fetched i q h 0x98 s.blk
    let id := s.blk.dealer.nextCmd
    accepted i q h 0x98 s.blk = true →
    ((b.grotto.cable = false ∨ b.grotto.grant = false) →
      exec i s = .next ⟨settle (finish b id stNotPermitted 0), s.pending⟩) ∧
    (b.grotto.cable = true → b.grotto.grant = true → b.grotto.debugState = 1 →
      exec i s = .next ⟨settle (finish b id stOk 0), s.pending⟩) ∧
    (b.grotto.cable = true → b.grotto.grant = true → b.grotto.debugState ≠ 1 → b.parts = [] →
      (∀ c ∈ b.dealer.cmds, c.stage ≠ .unlocking false) →
      ∃ t u, exec i s = .next t ∧ t.pending = s.pending ∧ t.blk = settle u ∧ (∀ a, memRead u.mem.bytes a = 0) ∧
        u.dealer.bases = [] ∧ u.lantern.enable = false ∧ u.grotto = { b.grotto with grant := false, unlocking := true } ∧
        Stands u id (.unlocking true) ∧ u.mem.host = b.mem.host ∧
        u = { b with
          mem := u.mem, lantern := u.lantern, grotto := u.grotto
          dealer := { b.dealer with bases := u.dealer.bases, cmds := u.dealer.cmds } }) ∧
    (b.grotto.cable = true → b.grotto.grant = true → b.grotto.debugState ≠ 1 → b.parts ≠ [] →
      ∃ t u, exec i s = .next t ∧ t.pending = s.pending ∧ t.blk = settle u ∧ u.grotto.grant = false ∧ u.grotto.unlocking = true ∧
        u.jtag.debugOpen = b.jtag.debugOpen ∧
        (∀ p ∈ u.parts, p.2.ending = some (.destroy id false)))) ∧
  (∀ (b : Block) (c : Cmd), b.dealer.cmds.find? (fun c => c.stage == .unlocking true) = some c →
    (b.grotto.cable = false → finishUnlock b = b) ∧
    (b.grotto.cable = true →
      let g := (finishUnlock b).grotto
      g.debugState = 1 ∧ g.unlocking = false ∧ g.blockFarKey = none ∧ g.farKeys = [] ∧ g.sessionKeys = [] ∧ g.migrationKeys = [] ∧
      g.cipherKeys = [] ∧ g.sessions = [] ∧ g.cdi1 = b.grotto.cdi1 ∧ g.aliasKey = b.grotto.aliasKey ∧ g.aliasCert = b.grotto.aliasCert ∧
      g.chain = b.grotto.chain ∧ (finishUnlock b).jtag.debugOpen = true ∧ Ended (finishUnlock b) c.id stOk 0 ∧
      finishUnlock b = { b with
        grotto := g, jtag := { b.jtag with debugOpen := true }, dealer := { b.dealer with cmds := (finishUnlock b).dealer.cmds } }))

/-! ## Functions, doorbells and records -/

/-- A write of enable = 1 in FUNCTION_READY runs the function where FE_AQ_CTRL is valid, clearing aq_error and aq_host_error, and sets
aq_error where it is not; a write of enable = 0 to a running function makes it STOPPING, and STOPPING ends in FUNCTION_READY, its admin
ring positions 0, once its last fetched command is gone, and not before. A VF whose TDISP state is CONFIG_LOCKED or ERROR ignores both
writes. In FUNCTION_READY a write to FE_AQ_CTRL or to an admin ring base takes the register's fields, low bits of a base dropped, and
sets the admin ring positions to 0 and the phase to 1; in any other state it changes nothing. -/
def Obligations.FunctionsRunByEnable : Prop :=
  (
  ∀ (fn : Nat) (s : State), alive s.blk = true →
    let b := s.blk
    let x := fnAt b fn
    (enableIgnored b fn = false → x.state = .ready → aqValid x = true →
      ∃ t, exec (.fnEnable fn) s = .next t ∧ t.pending = s.pending ∧
        StateChanges b t fn .running { x with enable := true, aqError := false, aqHostError := false, cqArmed := true }) ∧
    (enableIgnored b fn = false → x.state = .ready → aqValid x = false →
      ∃ t, exec (.fnEnable fn) s = .next t ∧ t.pending = s.pending ∧ fnAt t.blk fn = { x with enable := false, aqError := true } ∧
        (∀ f, f ≠ fn → fnAt t.blk f = fnAt b f) ∧ t.blk = { b with fns := t.blk.fns }) ∧
    (enableIgnored b fn = false → x.state = .running →
      ∃ t, exec (.fnDisable fn) s = .next t ∧ t.pending = s.pending ∧ StateChanges b t fn .stopping { x with enable := false }) ∧
    (enableIgnored b fn = true → exec (.fnEnable fn) s = .next s ∧ exec (.fnDisable fn) s = .next s) ∧
    (x.state = .stopping → (∀ c ∈ b.dealer.cmds, c.q.fn ≠ fn) →
      ∃ t, exec (.stoppingDone fn) s = .next t ∧ t.pending = s.pending ∧ StateChanges b t fn .ready
        { x with sqHead := 0, sqTail := 0, cqHead := 0, cqTail := 0, cqPhase := true, cqReserved := 0 }) ∧
    ((∃ c ∈ b.dealer.cmds, c.q.fn = fn) → exec (.stoppingDone fn) s = .next s)
  ) ∧
  (
  ∀ (fn : Nat) (v : BitVec 64) (s : State), alive s.blk = true →
    let b := s.blk
    let x := fnAt b fn
    let zeroed := fun (y : Fn) => { y with sqHead := 0, sqTail := 0, cqHead := 0, cqTail := 0, cqPhase := true, cqReserved := 0 }
    (x.state = .ready →
      (∃ t, exec (.aqConfigWrite fn 0x1110 32 v) s = .next t ∧ t.pending = s.pending ∧
        fnAt t.blk fn = zeroed { x with aqLevel := v.extractLsb' 12 4, aqCqLog2 := v.extractLsb' 8 4, aqSqLog2 := v.extractLsb' 4 4 } ∧
        (∀ f, f ≠ fn → fnAt t.blk f = fnAt b f) ∧ t.blk = { b with fns := t.blk.fns }) ∧
      (∃ t, exec (.aqConfigWrite fn 0x1118 64 v) s = .next t ∧ t.pending = s.pending ∧
        fnAt t.blk fn = zeroed { x with aqSqBase := v &&& 0xFFFFFFFFFFFFF000 } ∧
        (∀ f, f ≠ fn → fnAt t.blk f = fnAt b f) ∧ t.blk = { b with fns := t.blk.fns }) ∧
      (∃ t, exec (.aqConfigWrite fn 0x1120 64 v) s = .next t ∧ t.pending = s.pending ∧
        fnAt t.blk fn = zeroed { x with aqCqBase := v &&& 0xFFFFFFFFFFFFF000 } ∧
        (∀ f, f ≠ fn → fnAt t.blk f = fnAt b f) ∧ t.blk = { b with fns := t.blk.fns })) ∧
    (x.state ≠ .ready → ∀ offset width, exec (.aqConfigWrite fn offset width v) s = .next s)
  )

/-- A ring doorbell that is not a 64-bit write, or names a context, a queue or an index that is not there, is dropped with the reason of
R234; the fence doorbell likewise, for its width, its context and its fence. FE_DB_SQ records the tail of the SQ it names; for a
context's SQ it also notes the time, and asks for a context that is not resident to be swapped in, from the first such doorbell on. No
other queue changes. FE_DB_CQ releases the records before its head. Without arm nothing else happens; with arm and no record left the CQ
is armed; with arm and records left its vector is sent at once and the flag stays clear. No other completion queue changes. -/
def Obligations.RingDoorbells : Prop :=
  (
  ∀ (fn width : Nat) (v : BitVec 64) (s : State), takesDoorbells s.blk fn = true →
    let b := s.blk
    let g := (v.extractLsb' 32 16).toNat
    let low := v.toNat % 2 ^ 48
    let q : QRef := ⟨fn, v.extractLsb' 32 16, v.extractLsb' 24 3⟩
    let i := (v.extractLsb' 24 3).toNat
    let index := (v.extractLsb' 0 12).toNat
    (width ≠ 64 → ∃ t u w, exec (.sqDoorbell fn width v) s = .next t ∧ exec (.cqDoorbell fn width v) s = .next u ∧
      exec (.fenceDoorbell fn width v) s = .next w ∧ Dropped b t fn 0 4 0 ∧ Dropped b u fn 1 4 0 ∧ Dropped b w fn 2 4 0) ∧
    (g ≠ 0 → liveCtx b fn g = none → ∃ t u w, exec (.sqDoorbell fn 64 v) s = .next t ∧ exec (.cqDoorbell fn 64 v) s = .next u ∧
      exec (.fenceDoorbell fn 64 v) s = .next w ∧ Dropped b t fn 0 1 low ∧ Dropped b u fn 1 1 low ∧ Dropped b w fn 2 1 low) ∧
    ((g = 0 ∨ liveCtx b fn g ≠ none) →
      (sqOf b q = none → ∃ t, exec (.sqDoorbell fn 64 v) s = .next t ∧ Dropped b t fn 0 2 low) ∧
      (∀ x, sqOf b q = some x → 2 ^ x.log2 ≤ index → ∃ t, exec (.sqDoorbell fn 64 v) s = .next t ∧ Dropped b t fn 0 3 low) ∧
      (cqOf b q i = none → ∃ t, exec (.cqDoorbell fn 64 v) s = .next t ∧ Dropped b t fn 1 2 low) ∧
      (∀ x, cqOf b q i = some x → 2 ^ x.log2 ≤ index → ∃ t, exec (.cqDoorbell fn 64 v) s = .next t ∧ Dropped b t fn 1 3 low)) ∧
    (∀ c, g ≠ 0 → liveCtx b fn g = some c → c.fenceCount ≤ (v.extractLsb' 0 16).toNat →
      ∃ t, exec (.fenceDoorbell fn 64 v) s = .next t ∧ Dropped b t fn 2 3 low)
  ) ∧
  (
  ∀ (fn : Nat) (v : BitVec 64) (s : State) (x : Sq), takesDoorbells s.blk fn = true →
    let b := s.blk
    let g := (v.extractLsb' 32 16).toNat
    let i := (v.extractLsb' 24 3).toNat
    let index := (v.extractLsb' 0 12).toNat
    index < 2 ^ x.log2 →
    (g = 0 → i = 0 → sqOf b ⟨fn, 0, 0⟩ = some x →
      ∃ t, exec (.sqDoorbell fn 64 v) s = .next t ∧ t.pending = s.pending ∧ fnAt t.blk fn = { fnAt b fn with sqTail := index } ∧
        (∀ f, f ≠ fn → fnAt t.blk f = fnAt b f) ∧ t.blk = { b with fns := t.blk.fns }) ∧
    (∀ c, g ≠ 0 → liveCtx b fn g = some c → tabGet c.sqs i = some x →
      ∃ t c', exec (.sqDoorbell fn 64 v) s = .next t ∧ t.pending = s.pending ∧ ctxAt t.blk g = some c' ∧
        tabGet c'.sqs i = some { x with tail := index } ∧ (∀ j, j ≠ i → tabGet c'.sqs j = tabGet c.sqs j) ∧
        c' = { c with
          sqs := c'.sqs, lastDoorbell := some (now b), wantsSwapIn := c.wantsSwapIn || !c.resident
          wantsSince := if c.resident = true ∨ c.wantsSwapIn = true then c.wantsSince else some (now b) } ∧
        (∀ y, y ≠ g → ctxAt t.blk y = ctxAt b y) ∧ t.blk = { b with ctxs := t.blk.ctxs })
  ) ∧
  (
  ∀ (fn : Nat) (v : BitVec 64) (s : State) (x : Cq), takesDoorbells s.blk fn = true →
    let b := s.blk
    let q : QRef := ⟨fn, v.extractLsb' 32 16, 0⟩
    let i := (v.extractLsb' 24 3).toNat
    let index := (v.extractLsb' 0 12).toNat
    let left := (x.tail + 2 ^ x.log2 - index) % 2 ^ x.log2
    (q.tag ≠ 0 → liveCtx b fn q.tag.toNat ≠ none) → cqOf b q i = some x → index < 2 ^ x.log2 →
    ∃ t, exec (.cqDoorbell fn 64 v) s = .next t ∧ t.pending = s.pending ∧
      cqOf t.blk q i = some { x with head := index, armed := if v.getLsbD 31 then decide (left = 0) else x.armed } ∧
      t.blk.out = b.out ++ (if v.getLsbD 31 = true ∧ left ≠ 0 then [.msix fn x.vector] else []) ∧
      (∀ p j, (p.fn ≠ fn ∨ p.tag ≠ q.tag ∨ j ≠ i) → cqOf t.blk p j = cqOf b p j) ∧
      t.blk = { b with fns := t.blk.fns, ctxs := t.blk.ctxs, out := t.blk.out }
  )

/-- The next record of a function is written at its CQ's tail by a write of 32 bytes, with the phase, the time and the SQ's head; the
tail moves past it, the phase inverting at the wrap, its reservation ends, and an armed CQ sends its vector unless the command asked for
none. The command is gone. -/
def Obligations.CompletionRecordIsWritten : Prop :=
  ∀ (fn : Nat) (s : State) (c : Cmd) (st : BitVec 16) (detail : BitVec 32) (x : Cq) (y : Sq),
    let b := s.blk
    let at' := cmdRecordTick b fn c
    let k := hostAt fn (x.base.toNat + 32 * x.tail)
    let bytes := recordBytes c st detail (stampAt b.tb at') x.phase y.head
    alive b = true → ticking b = true → fn < 64 → at' ≤ lastTick b.tb →
    nextRecord b fn = some c → recordOf b c = some (st, detail) → cqOf b c.q c.cq = some x → sqOf b c.q = some y →
    ∃ t u, exec (.completionRecordWrite fn) s = .next t ∧ t.pending = s.pending ∧ t.blk = settle u ∧
      u.tb = { b.tb with tick := at' } ∧ hostRead u k 32 = bytes ∧
      (∀ a, (a < k ∨ k + 32 ≤ a) → memRead u.mem.host a = memRead b.mem.host a) ∧ u.mem.bytes = b.mem.bytes ∧
      cqOf u c.q c.cq = some { x with
        tail := (x.tail + 1) % 2 ^ x.log2
        phase := if (x.tail + 1) % 2 ^ x.log2 = 0 then !x.phase else x.phase
        reserved := x.reserved - 1
        armed := if c.noIrq then x.armed else false } ∧
      u.out = (hostWrite b k bytes).out ++
        (if c.noIrq = false ∧ x.armed = true ∧ (fnAt b fn).state ≠ .resetting then [.msix fn x.vector] else []) ∧
      u.dealer.cmds = b.dealer.cmds.filter (fun d => d.id != c.id) ∧ u.parts = b.parts ∧ u.cores = b.cores ∧ u.boot = b.boot

/-- A per-function reset, by FE_FN_CTRL or by the PCIe controller alike, takes a function that is not ABSENT, HALTED or in reset to
RESETTING, disabled, its notices discarded and its session ended, and no command of it will be recorded; a VF's interface breaks and its
contexts become DESTROYING; PF0 keeps its contexts, and none of its commands waits for a completion entry any more. A per-function reset
ends, once nothing of the function's work is left, in FUNCTION_READY: every BAR0 field of the function at its reset value, the
state_change and reset_done causes set, the capability table kept, and for PF0 the fields of XL_ and LT_; while work is left it does not
end. -/
def Obligations.PerFunctionResetStopsAndEnds : Prop :=
  (
  ∀ (fn : Nat) (flr : Bool) (s : State), alive s.blk = true →
    let b := s.blk
    (fnAt b fn).state ≠ .absent → (fnAt b fn).state ≠ .halted → (fnAt b fn).state ≠ .resetting →
    ∃ t u, exec (.perFunctionReset fn flr) s = .next t ∧ t.pending = s.pending ∧ t.blk = settle u ∧
      (fnAt u fn).state = .resetting ∧ (fnAt u fn).enable = false ∧ (fnAt u fn).intCause.getLsbD 6 = true ∧
      (∀ m, (mboxAt u fn m).full = false ∧ (mboxAt u fn m).notice = 0 ∧ (mboxAt u fn m).taken = none) ∧
      (∀ f, f ≠ fn → fnAt u f = { fnAt b f with loadEnded := (fnAt u f).loadEnded }) ∧ u.boot = b.boot ∧ u.cores = b.cores ∧
      tabGet u.grotto.sessions fn = none ∧ tabGet u.grotto.sessionKeys fn = none ∧
      (∀ c ∈ u.dealer.cmds, c.q.fn = fn → c.suppressed = true) ∧
      (fn ≠ 0 →
        (∀ x, tabGet b.grotto.tdisp fn = some x → x.state = .locked ∨ x.state = .run →
          tabGet u.grotto.tdisp fn = some { x with state := .error }) ∧
        (∀ g c, g < 65536 → ctxAt b g = some c → c.fn = fn → ∃ c', ctxAt u g = some c' ∧ c'.state = .destroying)) ∧
      (fn = 0 → u.ctxs = b.ctxs ∧ (∀ c ∈ u.dealer.cmds, c.q.fn = 0 → isHeld c = false))
  ) ∧
  (
  ∀ (fn : Nat) (s : State), alive s.blk = true → (fnAt s.blk fn).state = .resetting →
    let b := s.blk
    let x := fnAt b fn
    (resetDrained b fn = true →
      ∃ t, exec (.perFunctionResetComplete fn) s = .next t ∧ t.pending = s.pending ∧
        fnAt t.blk fn = { Fn.reset with
          state := .ready, intCause := 0x60, cap := x.cap, lastFetch := x.lastFetch, lastRecord := x.lastRecord
          lastSwap := x.lastSwap, lastVerify := x.lastVerify, loadEnded := x.loadEnded, mailAt := x.mailAt } ∧
        (∀ f, f ≠ fn → fnAt t.blk f = fnAt b f) ∧
        (if fn = 0 then t.blk.xlat = { b.xlat with selVf := 0, selEntry := 0, w0 := 0, w1 := 0, result := 0, busy := false } ∧
            t.blk.lantern = { Lantern.reset with held := b.lantern.held, vfs := b.lantern.vfs }
          else t.blk.xlat = b.xlat ∧ t.blk.lantern = b.lantern) ∧
        t.blk = { b with fns := t.blk.fns, xlat := t.blk.xlat, lantern := t.blk.lantern }) ∧
    (resetDrained b fn = false → exec (.perFunctionResetComplete fn) s = .next s)
  )

/-! ## Registers, Lantern and JTAG -/

/-- A write of TB_CTRL sets pps_pin in every state, and clears it in HOLDOVER only, which forgets the edges captured before; a read of
TB_NOW latches the upper half of the present timestamp. Setting enable of the fault ring or the accounting ring takes its size and sets
TAIL and HEAD to 0; while the ring is enabled the write changes nothing. A write to BAR0 acts by its offset: the doorbells, NOTICE and
LT_DUMP take it whole, a half of LT_DUMP with the other half zero, FE_INT_CAUSE clears the bits written 1, FE_INT_MASK keeps the bits
the function has, FE_FN_CTRL resets, enables or disables, and a write of a wrong width or alignment anywhere but at a doorbell is
ignored. What LT_DUMP's halves do is the model's choice (log entry 50). A read of a BAR0 register of a function that is present and not
halted returns its present fields at their places: the function's number and state, its cause and mask, its admin ring registers, the
captured doorbell error, and for PF0 the bring-up and security status; the doorbells read zero, and so does a read of another width or
alignment. -/
def Obligations.RegisterWritesOfPf0 : Prop :=
  (
  ∀ (value : BitVec 32) (s : State), alive s.blk = true → (fnAt s.blk 0).state ≠ .absent →
    let b := s.blk
    (∃ t, exec (.ppsPinWrite value) s = .next t ∧ t.pending = s.pending ∧
      t.blk = { b with tb :=
        if value.getLsbD 0 then { b.tb with ppsPin := true }
        else if b.tb.pps = .holdover then { b.tb with ppsPin := false, earlySeen := false, lateSeen := false, inWindow := none }
        else b.tb }) ∧
    (∃ t, exec .tbNowLatch s = .next t ∧ t.pending = s.pending ∧
      t.blk = { b with tb := { b.tb with nowLatch := BitVec.ofNat 32 ((now b).toNat / 2 ^ 32) } })
  ) ∧
  (
  ∀ (value : BitVec 32) (s : State), alive s.blk = true → (fnAt s.blk 0).state ≠ .absent → value.getLsbD 0 = true →
    let b := s.blk
    (∃ t, exec (.faultRingEnable value) s = .next t ∧ t.pending = s.pending ∧
      t.blk = { b with acct := { b.acct with fault := if b.acct.fault.enable then b.acct.fault
        else { b.acct.fault with size := (value.extractLsb' 1 4).setWidth 5, enable := true, tail := 0, head := 0 } } }) ∧
    (∃ t, exec (.acctRingEnable value) s = .next t ∧ t.pending = s.pending ∧
      t.blk = { b with acct := { b.acct with ring := if b.acct.ring.enable then b.acct.ring
        else { b.acct.ring with size := value.extractLsb' 1 5, enable := true, tail := 0, head := 0 } } })
  ) ∧
  (
  ∀ (fn offset width : Nat) (v : BitVec 64) (s : State), alive s.blk = true → fn < 64 → (fnAt s.blk fn).state ≠ .absent →
    let b := s.blk
    let x := fnAt b fn
    let low := v.extractLsb' 0 32
    let w := if aligned offset width then width else 0
    (∃ t, exec (.registerWrite fn 0x1108 32 v) s = .next t ∧ t.pending = s.pending ∧
      fnAt t.blk fn = { x with intCause := x.intCause &&& ~~~(v.extractLsb' 0 11) } ∧
      (∀ f, f ≠ fn → fnAt t.blk f = fnAt b f) ∧ t.blk = { b with fns := t.blk.fns }) ∧
    (∃ t, exec (.registerWrite fn 0x110C 32 v) s = .next t ∧ t.pending = s.pending ∧
      fnAt t.blk fn = { x with intMask := v.extractLsb' 0 11 &&& (if fn = 0 then 0x77F else 0x07F) } ∧
      (∀ f, f ≠ fn → fnAt t.blk f = fnAt b f) ∧ t.blk = { b with fns := t.blk.fns }) ∧
    exec (.registerWrite fn 0x1104 32 v) s =
      (if v.getLsbD 1 then exec (.perFunctionReset fn false) s
       else if v.getLsbD 0 then exec (.fnEnable fn) s else exec (.fnDisable fn) s) ∧
    (0x1000 ≤ offset → offset < 0x1008 → exec (.registerWrite fn offset width v) s = exec (.sqDoorbell fn w v) s) ∧
    (0x1008 ≤ offset → offset < 0x1010 → exec (.registerWrite fn offset width v) s = exec (.cqDoorbell fn w v) s) ∧
    (0x1010 ≤ offset → offset < 0x1018 → exec (.registerWrite fn offset width v) s = exec (.fenceDoorbell fn w v) s) ∧
    exec (.registerWrite fn 0x2000 64 v) s = exec (.mailboxPost fn .dl v) s ∧
    exec (.registerWrite fn 0x2100 64 v) s = exec (.mailboxPost fn .gr v) s ∧
    exec (.registerWrite 0 0x4210 64 v) s = exec (.lanternDump v) s ∧
    exec (.registerWrite 0 0x4210 32 v) s = exec (.lanternDump (low.setWidth 64)) s ∧
    exec (.registerWrite 0 0x4214 32 v) s = exec (.lanternDump (low ++ 0#32)) s ∧
    (fn = 0 → exec (.registerWrite 0 0x401C 32 v) s = exec (.ppsPinWrite low) s ∧
      (v.getLsbD 0 = true → exec (.registerWrite 0 0x41C8 32 v) s = exec (.faultRingEnable low) s ∧
        exec (.registerWrite 0 0x4108 32 v) s = exec (.acctRingEnable low) s ∧
        exec (.registerWrite 0 0x4204 32 v) s = exec (.lanternEnable low) s)) ∧
    ((offset < 0x1000 ∨ 0x1018 ≤ offset) → aligned offset width = false → exec (.registerWrite fn offset width v) s = .next s)
  ) ∧
  (
  ∀ (fn : Nat) (b : Block), b.boot.released = true → (fn = 0 ∨ vfExists b fn = true) → (fnAt b fn).state ≠ .absent →
    b.recov.halted = false →
    let x := fnAt b fn
    let one := fun (v : Bool) => if v then 1 else 0
    bar0Read fn 0x1100 32 b = BitVec.ofNat 64 ((one x.aqHostError * 2 ^ 17 + one x.aqError * 2 ^ 16 + fn * 2 ^ 8 + stateCode x.state) % 2 ^ 32) ∧
    bar0Read fn 0x1104 32 b = BitVec.ofNat 64 (one x.enable) ∧
    bar0Read fn 0x1108 32 b = (x.intCause &&& (if fn = 0 then 0x77F else 0x07F)).setWidth 64 ∧
    bar0Read fn 0x110C 32 b = x.intMask.setWidth 64 ∧
    bar0Read fn 0x1118 64 b = x.aqSqBase ∧ bar0Read fn 0x1120 64 b = x.aqCqBase ∧ bar0Read fn 0x1018 64 b = x.dbError ∧
    (∀ off, 0x1000 ≤ off → off < 0x1018 → ∀ width, bar0Read fn off width b = 0) ∧
    (∀ off width, aligned off width = false → bar0Read fn off width b = 0) ∧
    (fn = 0 →
      bar0Read 0 0x2210 32 b = BitVec.ofNat 64 (b.boot.error.toNat * 2 ^ 16 + b.boot.part.toNat * 2 ^ 8 + b.boot.stage.toNat) ∧
      bar0Read 0 0x22F0 32 b = BitVec.ofNat 64 (one b.grotto.attestKey.isSome * 2 ^ 5 + one b.grotto.unlocking * 2 ^ 4 +
        one (b.grotto.debugState == 1) * 2 ^ 3 + one b.grotto.grant * 2 ^ 2 + one b.grotto.presence * 2 + one b.grotto.cable))
  )

/-- The JTAG port executes the mandatory instructions and IDCODE, which selects 0x1A712C4D; while debug is locked every other
instruction acts as BYPASS. -/
def Obligations.JtagActsByItsInstruction : Prop :=
  ∀ (i : JtagInst) (s : State), (s.blk.jtag.debugOpen = false ∨ debugInst i = false) →
    ∃ t, exec (.jtagInstruction i) s = .next t ∧ t.pending = s.pending ∧
      t.blk.jtag = { s.blk.jtag with inst := match i with
        | .other _ => .bypass
        | j => j } ∧
      t.blk.out = s.blk.out ++ (if i = .idcode then [.tdo 0x1A712C4D] else []) ∧
      t.blk = { s.blk with jtag := t.blk.jtag, out := t.blk.out }

/-- The read command of XL_S2_CMD copies the selected range entry of a present partition to XL_S2_ENTRY0 and 1 with result 0, and
answers result 3 for an absent one; a command with both bits set, or one written while a stage-2 write is in progress, does nothing. The
write command of XL_S2_CMD is refused with result 3 for an absent partition, 1 for an entry PART_CREATE set and 2 for contents that
break R282 to R284. Where the old contents are invalid the new ones take effect at once; where they are valid an invalidation of the old
range without abort is received first, busy stays at 1 and the new contents wait. -/
def Obligations.StageTwoAccess : Prop :=
  (
  ∀ (value : BitVec 32) (s : State), alive s.blk = true → (fnAt s.blk 0).state ≠ .absent →
    let b := s.blk
    (b.xlat.pendingWrite = none → value.getLsbD 1 = true → value.getLsbD 0 = false →
      ∃ t, exec (.s2EntryRead value) s = .next t ∧ t.pending = s.pending ∧
        t.blk = { b with xlat := match partAt b b.xlat.selVf.toNat with
          | none => { b.xlat with result := 3 }
          | some p => { b.xlat with
              w0 := (s2Entry p b.xlat.selEntry.toNat).w0, w1 := (s2Entry p b.xlat.selEntry.toNat).w1, result := 0 } }) ∧
    ((b.xlat.pendingWrite ≠ none ∨ (value.getLsbD 0 = true ∧ value.getLsbD 1 = true)) →
      exec (.s2EntryRead value) s = .next s ∧ exec (.s2EntryWrite value) s = .next s)
  ) ∧
  (
  ∀ (value : BitVec 32) (s : State), alive s.blk = true → (fnAt s.blk 0).state ≠ .absent →
    let b := s.blk
    let vf := b.xlat.selVf.toNat
    let i := b.xlat.selEntry.toNat
    let e : RangeEntry := ⟨b.xlat.w0, b.xlat.w1⟩
    b.xlat.pendingWrite = none → value.getLsbD 0 = true → value.getLsbD 1 = false →
    (partAt b vf = none → ∃ t, exec (.s2EntryWrite value) s = .next t ∧ t.blk = { b with xlat := { b.xlat with result := 3 } }) ∧
    (∀ p, partAt b vf = some p →
      (i < 4 → ∃ t, exec (.s2EntryWrite value) s = .next t ∧ t.blk = { b with xlat := { b.xlat with result := 1 } }) ∧
      (4 ≤ i → s2Allowed p i e = false →
        ∃ t, exec (.s2EntryWrite value) s = .next t ∧ t.blk = { b with xlat := { b.xlat with result := 2 } }) ∧
      (4 ≤ i → s2Allowed p i e = true → s2Valid (s2Entry p i) = false →
        ∃ t p', exec (.s2EntryWrite value) s = .next t ∧ t.pending = s.pending ∧ partAt t.blk vf = some p' ∧ s2Entry p' i = e ∧
          (∀ j, j ≠ i → s2Entry p' j = s2Entry p j) ∧ p' = { p with stage2 := p'.stage2 } ∧
          (∀ w, w ≠ vf → partAt t.blk w = partAt b w) ∧ InterfaceBreaks b t.blk vf ∧
          t.blk.xlat = { b.xlat with pendingWrite := none, busy := false, result := 0 } ∧
          t.blk = { b with parts := t.blk.parts, xlat := t.blk.xlat, grotto := { b.grotto with tdisp := t.blk.grotto.tdisp }
                           fns := t.blk.fns, out := t.blk.out }) ∧
      (4 ≤ i → s2Allowed p i e = true → s2Valid (s2Entry p i) = true →
        ∃ t u, exec (.s2EntryWrite value) s = .next t ∧ t.pending = s.pending ∧ t.blk = settle u ∧
          u.xlat.busy = true ∧ u.xlat.result = b.xlat.result ∧ u.xlat.pendingWrite = some (vf, i, e) ∧ InterfaceBreaks b u vf ∧
          (∃ v ∈ u.xlat.invals, v.source = .stage2 ∧ v.abort = false ∧
            v.scope = .ipa vf (s2Base (s2Entry p i)) (s2Base (s2Entry p i) + s2Span (s2Entry p i))) ∧
          u.parts = b.parts ∧ u.mem = b.mem ∧ u.ctxs = b.ctxs))
  )

/-- Writing enable = 1 of LT_CTRL is refused with result 2 where the buffer does not lie in the Gallery of the build, and with result 1
where it meets a partition or the trigger pin serves PPS_IN; otherwise recording starts at the first record of the buffer, what an
earlier recording left being zeroed. The trigger fires by arm where it is trigger 0, by the edge of the pin where it is trigger 1 and by
a block fault where it is trigger 2: post_count × 256 more records are written, then recording stops; a post_count of zero stops it at
once. Once the records after the trigger have been written Lantern stops; a write of LT_DUMP starts a dump of the buffer to the page it
names, or is refused as enable is. -/
def Obligations.LanternRecordsAndDumps : Prop :=
  (
  ∀ (value : BitVec 32) (s : State), alive s.blk = true → (fnAt s.blk 0).state ≠ .absent →
    let b := s.blk
    let l := b.lantern
    let l1 := { l with postCount := value.extractLsb' 16 16, trigger := if l.dumping then l.trigger else value.extractLsb' 2 2 }
    value.getLsbD 0 = true → value.getLsbD 1 = false → l.enable = false →
    (ltPlaced b = false → ∃ t, exec (.lanternEnable value) s = .next t ∧ t.blk = { b with lantern := { l1 with result := 2 } }) ∧
    (ltPlaced b = true → (ltMeetsPart b = true ∨ (l1.trigger = 1 ∧ b.tb.ppsPin = true)) →
      ∃ t, exec (.lanternEnable value) s = .next t ∧ t.blk = { b with lantern := { l1 with result := 1 } }) ∧
    (ltPlaced b = true → ltMeetsPart b = false → (l1.trigger ≠ 1 ∨ b.tb.ppsPin = false) →
      ∃ t, exec (.lanternEnable value) s = .next t ∧ t.pending = s.pending ∧
        t.blk.lantern = { l1 with
          enable := true, active := true, result := 0, writeIndex := 0, wrapped := false, triggered := false, stopped := false
          left := none, inTick := ⟨0, 0, false, []⟩, droppedBefore := false, held := (ltBase l, ltTiles l), vfs := [] } ∧
        (∀ a, memRead t.blk.mem.bytes a =
          if l.held.1 ≤ a ∧ a < l.held.1 + 4096 * l.held.2 then 0 else memRead b.mem.bytes a) ∧
        t.blk.mem.host = b.mem.host ∧ t.blk = { b with lantern := t.blk.lantern, mem := t.blk.mem })
  ) ∧
  (
  ∀ (value : BitVec 32) (cause : LtCause) (s : State), alive s.blk = true →
    let b := s.blk
    let l := b.lantern
    l.active = true → l.triggered = false →
    ((fnAt b 0).state ≠ .absent → value.getLsbD 0 = true → value.getLsbD 1 = true → l.enable = true → l.trigger = 0 →
      ∃ t, exec (.lanternArm value) s = .next t ∧ t.pending = s.pending ∧
        t.blk = { b with lantern := firedLantern l (value.extractLsb' 16 16) }) ∧
    (((cause = .pinEdge ∧ l.trigger = 1 ∧ b.tb.ppsPin = false) ∨ (cause = .blockFault ∧ l.trigger = 2 ∧ b.recov.faultTick ≠ none)) →
      ∃ t, exec (.lanternTrigger cause) s = .next t ∧ t.pending = s.pending ∧
        t.blk = { b with lantern := firedLantern l l.postCount }) ∧
    (((cause = .pinEdge ∧ l.trigger ≠ 1) ∨ (cause = .blockFault ∧ l.trigger ≠ 2)) → exec (.lanternTrigger cause) s = .next s)
  ) ∧
  (
  ∀ (value : BitVec 64) (s : State), alive s.blk = true →
    let b := s.blk
    let l := b.lantern
    (l.active = true → l.left = some 0 →
      ∃ t, exec .lanternStop s = .next t ∧ t.pending = s.pending ∧
        t.blk = { b with lantern := { l with stopped := true, active := false } }) ∧
    (l.left ≠ some 0 → exec .lanternStop s = .next s) ∧
    ((fnAt b 0).state ≠ .absent → l.dumping = false →
      ∃ t, exec (.lanternDump value) s = .next t ∧ t.pending = s.pending ∧
        t.blk.lantern = (if ltPlaced b = false then { l with result := 2 }
          else if ltMeetsPart b = true then { l with result := 1 }
          else { l with dumping := true, dumped := 0, dumpAddress := value &&& 0xFFFFFFFFFFFFF000 }) ∧
        t.blk = { b with lantern := t.blk.lantern })
  )

/-! ## Mailboxes and bring-up -/

/-- A 64-bit write to NOTICE posts a notice to an empty mailbox; to a full one it overwrites the notice and the collision is recorded
with its cause. The function's other mailboxes and every other function stay as they are. A running receiver reads the notice of its
mailbox and answers a bad header with MB_INVALID_FIELD, every request of a stopped bring-up with MB_STOPPED, a vendor code on a VF with
MB_NOT_PERMITTED and on PF0 with what the vendor chooses, an unknown code with MB_UNKNOWN, or MB_OUT_OF_ORDER after bring-up, and for
the Grotto a message outside its session or of no known form with an error; a good request is held for the row that acts on it, its
buffer untouched. That a vendor's answer is free is log entry 24. ECHO answers with the request's own payload, and VERSIONS with the
versions of the Grotto's and the Dealer's firmware, the block's revision and the interface's; VERSIONS with a payload is refused. -/
def Obligations.MailboxesPostAndTake : Prop :=
  (
  ∀ (fn : Nat) (m : MboxSel) (v : BitVec 64) (s : State), alive s.blk = true → mboxPresent s.blk fn m = true →
    let b := s.blk
    let x := mboxAt b fn m
    ∃ t, exec (.mailboxPost fn m v) s = .next t ∧ t.pending = s.pending ∧
      mboxAt t.blk fn m = { x with notice := v, full := true, collision := x.collision || x.full } ∧
      (∀ k, k ≠ m → mboxAt t.blk fn k = mboxAt b fn k) ∧ (fnAt t.blk fn).state = (fnAt b fn).state ∧
      (fnAt t.blk fn).intCause = (if x.full then (fnAt b fn).intCause ||| 0x10 else (fnAt b fn).intCause) ∧
      (∀ f, f ≠ fn → fnAt t.blk f = fnAt b f) ∧ t.blk = { b with fns := t.blk.fns, out := t.blk.out }
  ) ∧
  (
  ∀ (fn : Nat) (m : MboxSel) (known : Bool) (s : State), takes s.blk fn m = true → (mboxAt s.blk fn m).replyLost = none →
    let b := s.blk
    let x := takenOf b fn (mboxAt b fn m).notice
    let secret := (itsSession b fn x).map (fun e => e.secret)
    ∃ t, exec (.mailboxTake fn m known) s = .next t ∧ t.pending = s.pending ∧
      t.blk = { b with grotto := t.blk.grotto, mem := t.blk.mem, fns := t.blk.fns, out := t.blk.out, freeCtr := t.blk.freeCtr } ∧
      (headerOk m x = false → Replied b t.blk fn m x 0x0002 []) ∧
      (headerOk m x = true →
        (m = .rcv → b.boot.stage = 0xF → Replied b t.blk fn m x 0x0007 []) ∧
        (m = .dl → 0xF000 ≤ x.request → fn ≠ 0 → Replied b t.blk fn m x 0x0003 []) ∧
        (m = .dl → 0xF000 ≤ x.request → fn = 0 → ∃ status payload, payload.length ≤ 4080 ∧ Replied b t.blk fn m x status payload) ∧
        (m = .dl → x.request < 0xF000 → x.request ≠ 1 → x.request ≠ 2 → Replied b t.blk fn m x 0x0001 []) ∧
        (m = .rcv → b.boot.stage ≠ 0xF → (x.request = 0 ∨ 8 < x.request) →
          Replied b t.blk fn m x (if b.boot.stage = 8 then 0x0005 else 0x0001) []) ∧
        (m = .gr → x.protocol = 2 → itsSession b fn x = none →
          Replied b t.blk fn m x 0 ((Config.replyBytes none GrottoReply.unexpectedRequest).take 4080) ∧
          t.blk.grotto = { b.grotto with reply := some .unexpectedRequest }) ∧
        (m = .gr → known = false → (x.protocol = 2 → itsSession b fn x ≠ none) →
          Replied b t.blk fn m x 0 ((Config.replyBytes secret GrottoReply.unsupportedRequest).take 4080) ∧
          t.blk.grotto = { b.grotto with reply := some .unsupportedRequest }) ∧
        ((m = .dl ∧ (x.request = 1 ∨ x.request = 2)) ∨ (m = .rcv ∧ b.boot.stage ≠ 0xF ∧ 1 ≤ x.request ∧ x.request ≤ 8) ∨
            (m = .gr ∧ known = true ∧ (x.protocol = 2 → itsSession b fn x ≠ none)) →
          mboxAt t.blk fn m = { mboxAt b fn m with taken := some x } ∧ t.blk.mem = b.mem ∧ t.blk.grotto = b.grotto ∧
          t.blk.out = (hostAsk x.buffer x.bytes b).out))
  ) ∧
  (
  ∀ (fn : Nat) (s : State) (x : Taken), alive s.blk = true → (mboxAt s.blk fn .dl).taken = some x →
    (mboxAt s.blk fn .dl).replyLost = none →
    let b := s.blk
    (x.request = 1 → ∃ t, exec (.echo fn) s = .next t ∧ t.pending = s.pending ∧
      ((mbPayload x).length < 2 ^ 32 → Replied b t.blk fn .dl x 0 (mbPayload x)) ∧
      t.blk = { b with mem := t.blk.mem, fns := t.blk.fns, out := t.blk.out }) ∧
    (x.request = 2 → ∃ t, exec (.versions fn) s = .next t ∧ t.pending = s.pending ∧
      (x.requestBytes = 0 → Replied b t.blk fn .dl x 0
        (leBytes 4 (b.boot.grottoVersion.getD 0).toNat ++ leBytes 4 (b.boot.dealerVersion.getD 0).toNat ++
          [0x04, 0x01, 0x02, 0x01])) ∧
      (x.requestBytes ≠ 0 → Replied b t.blk fn .dl x 0x0002 []) ∧
      t.blk = { b with mem := t.blk.mem, fns := t.blk.fns, out := t.blk.out })
  )

/-- Each request of GR_RCV is accepted only in its stage: in stage 0xF it receives MB_STOPPED, in any other stage MB_OUT_OF_ORDER, or
MB_ALREADY_ACCEPTED for a second configuration record, and has no effect. ROOT_KEY in stage 0 accepts the 97 bytes whose digest the boot
ROM holds; HELPER in stage 1 rebuilds the UDS and derives the DeviceID key, or stops bring-up; both advance the stage. A payload of
another length is refused and changes nothing. CHAIN in stage 3 accepts the delivered chain whose leaf carries the derived DeviceID
public key, and stops bring-up otherwise; LICENSEE in stage 4 accepts a certificate the root key signs and records its key and licensee.
-/
def Obligations.BringUpKeysAndCertificates : Prop :=
  (
  ∀ (i : Instr) (code stage : Nat) (s : State) (x : Taken),
    let b := s.blk
    bringUpRow i = some (code, stage) → Asks b x code → b.boot.stage.toNat ≠ stage →
    ∃ t, exec i s = .next t ∧ t.pending = s.pending ∧ t.blk.boot = b.boot ∧ t.blk.grotto = b.grotto ∧ BringUpFrame b t.blk ∧
      Replied b t.blk 0 .rcv x (if b.boot.stage = 0xF then 0x0007
        else if code = 6 ∧ b.boot.build ≠ none then 0x0006 else 0x0005) []
  ) ∧
  (
  ∀ (s : State) (x : Taken),
    let b := s.blk
    let p := mbPayload x
    (Asks b x 1 → b.boot.stage = 0 → ∃ t, exec .rootKey s = .next t ∧ t.pending = s.pending ∧ BringUpFrame b t.blk ∧
      t.blk.grotto = b.grotto ∧
      (if p.length ≠ 97 then t.blk.boot = b.boot ∧ Replied b t.blk 0 .rcv x 0x0002 []
       else if Config.sha384 p = Config.rootKeyDigest then
         t.blk.boot = { b.boot with rootKey := some p, stage := 1 } ∧ Replied b t.blk 0 .rcv x 0 []
       else t.blk.boot = b.boot ∧ Replied b t.blk 0 .rcv x 0x0004 [])) ∧
    (Asks b x 2 → b.boot.stage = 1 → ∃ t, exec .helper s = .next t ∧ t.pending = s.pending ∧ BringUpFrame b t.blk ∧
      (if p.length ≠ 1024 then t.blk.boot = b.boot ∧ t.blk.grotto = b.grotto ∧ Replied b t.blk 0 .rcv x 0x0002 []
       else if Config.helperHolds p = true then
         t.blk.boot = { b.boot with stage := 2 } ∧ Replied b t.blk 0 .rcv x 0 [] ∧
         (let k := keyOf (leBytes 32 (Config.udsOf p).toNat) "PLYNELL DEVICEID"
          t.blk.grotto = { b.grotto with
            uds := some (Config.udsOf p), deviceIdPrivate := some k, deviceIdPublic := some (leBytes 97 (Config.publicKey k).toNat) })
       else t.blk.boot = { b.boot with stage := 0xF, error := 1, part := 0 } ∧ t.blk.grotto = b.grotto ∧
         Replied b t.blk 0 .rcv x 0x0004 []))
  ) ∧
  (
  ∀ (s : State) (x : Taken),
    let b := s.blk
    let p := mbPayload x
    (Asks b x 4 → b.boot.stage = 3 → ∃ t, exec .chain s = .next t ∧ t.pending = s.pending ∧ BringUpFrame b t.blk ∧
      (if p.length ≠ 16 ∨ 65536 < leAt p 8 4 ∨ leAt p 12 4 ≠ 0 then
         t.blk.boot = b.boot ∧ t.blk.grotto = b.grotto ∧ Replied b t.blk 0 .rcv x 0x0002 []
       else if some (Config.chainLeaf (hostRead b (leAt p 0 8) (leAt p 8 4))) = b.grotto.deviceIdPublic then
         t.blk.boot = { b.boot with stage := 4 } ∧ Replied b t.blk 0 .rcv x 0 [] ∧
         t.blk.grotto = { b.grotto with chain := some (hostRead b (leAt p 0 8) (leAt p 8 4)) }
       else t.blk.boot = { b.boot with stage := 0xF, error := 2, part := 0 } ∧ t.blk.grotto = b.grotto ∧
         Replied b t.blk 0 .rcv x 0x0004 [])) ∧
    (Asks b x 5 → b.boot.stage = 4 → ∃ t, exec .licensee s = .next t ∧ t.pending = s.pending ∧ BringUpFrame b t.blk ∧
      t.blk.grotto = b.grotto ∧
      (if p.length ≠ 256 ∨ licenseeOk p = false then t.blk.boot = b.boot ∧ Replied b t.blk 0 .rcv x 0x0002 []
       else if Config.verifies (b.boot.rootKey.getD []) (p.take 0x80) (BitVec.ofNat 768 (leAt p 0x80 96)) = true then
         t.blk.boot = { b.boot with stage := 5, licensee := some ((p.drop 0x10).take 97, BitVec.ofNat 64 (leAt p 8 8)) } ∧
         Replied b t.blk 0 .rcv x 0 []
       else t.blk.boot = b.boot ∧ Replied b t.blk 0 .rcv x 0x0004 []))
  )

/-- LOAD_GROTTO and LOAD_DEALER copy the image their payload names and check it: a bad payload or header is refused with
MB_INVALID_FIELD, a bad signature with MB_BAD_SIGNATURE; a good image is kept and measured, its version recorded, and the stage
advances. Loading the Grotto derives CDI_1 and the alias key and erases the UDS and the private DeviceID key. CONFIG in stage 5 checks
the record's signature, then its fields, then trains the parts it declares, then the engines: the first check that fails stops bring-up
with its error code, a failed part's kind and index recorded; a good record is accepted with its engines and measured. -/
def Obligations.BringUpFirmwareAndRecord : Prop :=
  (
  ∀ (s : State) (x : Taken),
    let b := s.blk
    let p := mbPayload x
    let img := loadImage b p
    (Asks b x 3 → b.boot.stage = 2 → ∃ t, exec .loadGrotto s = .next t ∧ t.pending = s.pending ∧ BringUpFrame b t.blk ∧
      (if loadPayloadOk p = false ∨ 2097408 < leAt p 8 4 ∨ imageOk img 1 = false then
         t.blk.boot = b.boot ∧ t.blk.grotto = b.grotto ∧ Replied b t.blk 0 .rcv x 0x0002 []
       else if imageSigned b img = true then
         t.blk.boot = { b.boot with
           stage := 3, grottoVersion := some (BitVec.ofNat 32 (leAt img 8 4))
           images := tabSet b.boot.images 1 ⟨img, leAt img 0x14 4⟩ } ∧
         t.blk.grotto.m2 = some (Config.sha384 img) ∧ t.blk.grotto.uds = none ∧ t.blk.grotto.deviceIdPrivate = none ∧
         t.blk.grotto.cdi1.isSome = true ∧ t.blk.grotto.aliasKey.isSome = true ∧
         t.blk.grotto.deviceIdPublic = b.grotto.deviceIdPublic ∧ Replied b t.blk 0 .rcv x 0 []
       else t.blk.boot = b.boot ∧ t.blk.grotto = b.grotto ∧ Replied b t.blk 0 .rcv x 0x0004 [])) ∧
    (Asks b x 7 → b.boot.stage = 6 → ∃ t, exec .loadDealer s = .next t ∧ t.pending = s.pending ∧ BringUpFrame b t.blk ∧
      (if loadPayloadOk p = false ∨ 2097408 < leAt p 8 4 ∨ imageOk img 2 = false then
         t.blk.boot = b.boot ∧ t.blk.grotto = b.grotto ∧ Replied b t.blk 0 .rcv x 0x0002 []
       else if imageSigned b img = true then
         t.blk.boot = { b.boot with
           stage := 7, dealerVersion := some (BitVec.ofNat 32 (leAt img 8 4))
           images := tabSet b.boot.images 2 ⟨img, leAt img 0x14 4⟩ } ∧
         t.blk.grotto = { b.grotto with m3 := some (Config.sha384 img) } ∧ Replied b t.blk 0 .rcv x 0 []
       else t.blk.boot = b.boot ∧ t.blk.grotto = b.grotto ∧ Replied b t.blk 0 .rcv x 0x0004 []))
  ) ∧
  (
  ∀ (t' : Training) (s : State) (x : Taken),
    let b := s.blk
    let p := mbPayload x
    let es := enginesOf t'.engines
    let stopped := fun (u : Block) (error part : Nat) =>
      u.boot = { b.boot with stage := 0xF, error := BitVec.ofNat 8 error, part := BitVec.ofNat 8 part } ∧ u.grotto = b.grotto
    Asks b x 6 → b.boot.stage = 5 →
    ∃ t, exec (.config t') s = .next t ∧ t.pending = s.pending ∧ BringUpFrame b t.blk ∧
      t.blk.mem.bytes = b.mem.bytes ∧ (mboxAt t.blk 0 .rcv).full = false ∧ (mboxAt t.blk 0 .rcv).taken = none ∧
      (if p.length ≠ 160 then t.blk.boot = b.boot ∧ t.blk.grotto = b.grotto ∧ hostLE t.blk (x.buffer + 4) 2 = 0x0002
       else if recordSigned b p = false then stopped t.blk 3 0 ∧ hostLE t.blk (x.buffer + 4) 2 = 0x0004
       else if recordFields p = false then stopped t.blk 3 0 ∧ hostLE t.blk (x.buffer + 4) 2 = 0x0002
       else match (declaredParts (recordBuild p)).find? (partFailed t') with
         | some k => stopped t.blk 4 (k.1 * 64 + k.2) ∧ hostLE t.blk (x.buffer + 4) 2 = 0x0002
         | none =>
           if enginesOk t' = true then
             t.blk.boot = { b.boot with stage := 6, build := some (recordBuild p), engines := es } ∧
             t.blk.grotto = { b.grotto with m4 := some (Config.sha384 p), m5 := some (Config.sha384 (es.flatMap (fun e => e.raw))) } ∧
             hostLE t.blk (x.buffer + 4) 2 = 0
           else stopped t.blk 5 0 ∧ hostLE t.blk (x.buffer + 4) 2 = 0x0002)
  )

/-- START in stage 7 zeroes every scratchpad, accumulator memory, stack and Gallery slice, leaving far memory, locks debug and takes a
new block far key; with the Dealer started its reply waits for epoch 0, and where the Dealer does not start bring-up stops with error 6.
The time base starts once zeroing and the Dealer's start are complete. -/
def Obligations.StartZeroesAndStartsTheDealer : Prop :=
  ∀ (dealerStarts : Bool) (s : State) (x : Taken),
    let b := s.blk
    (Asks b x 8 → b.boot.stage = 7 → mbPayload x = [] →
      ∃ t, exec (.start dealerStarts) s = .next t ∧ t.pending = s.pending ∧ t.blk.cores = [] ∧
        (∀ a, memRead t.blk.mem.bytes a = if farBase 0 ≤ a then memRead b.mem.bytes a else 0) ∧ t.blk.grotto.debugState = 0 ∧
        t.blk.grotto.blockFarKey = some (Config.random b.grotto.draws) ∧ t.blk.grotto.draws = b.grotto.draws + 1 ∧
        (∀ k, b.grotto.cdi1.isSome = true → b.grotto.aliasKey = some k → t.blk.grotto.attestKey.isSome = true) ∧
        (if dealerStarts then
           t.blk.boot = { b.boot with zeroed := true, dealerStarted := true, starting := true } ∧ t.blk.fns = b.fns ∧
           t.blk.mem.host = b.mem.host ∧ t.blk.out = b.out
         else t.blk.boot = { b.boot with stage := 0xF, error := 6, part := 0 } ∧ hostLE t.blk (x.buffer + 4) 2 = 0x0007) ∧
        t.blk = { b with boot := t.blk.boot, grotto := t.blk.grotto, mem := t.blk.mem, fns := t.blk.fns, out := t.blk.out
                         cores := t.blk.cores }) ∧
    (Asks b x 8 → b.boot.stage = 7 → mbPayload x ≠ [] →
      ∃ t, exec (.start dealerStarts) s = .next t ∧ t.pending = s.pending ∧ t.blk.boot = b.boot ∧ t.blk.grotto = b.grotto ∧
        t.blk.cores = b.cores ∧ Replied b t.blk 0 .rcv x 0x0002 []) ∧
    (alive b = true → b.boot.zeroed = true → b.boot.dealerStarted = true →
      ∃ t, exec .timeBaseStart s = .next t ∧ t.pending = s.pending ∧ t.blk = { b with tb := { b.tb with started := true } }) ∧
    ((b.boot.zeroed = false ∨ b.boot.dealerStarted = false) → exec .timeBaseStart s = .next s)

/-! ## The Grotto -/

/-- The requests that report answer from what the Grotto holds: the version, the capabilities of R368 with both sizes 4,080 bytes, its
algorithms where the requester offers them, the digest of slot 0, a portion of slot 0, and signatures of the attestation key over the
nonce. Only the negotiation is remembered. A request that uses the algorithms is answered with an unexpected-request error before a
negotiation has chosen them (model choice, log entry 122). The measurement block served for each of the four base sets is the digest of
a READY set, or 48 bytes of zero. -/
def Obligations.GrottoReportsWhatItHolds : Prop :=
  (
  (∀ (i : Instr) (fn : Nat) (r : GrottoReply) (s : State) (x : Taken), spdmReply s.blk i = some (fn, r) → GrTakes s.blk fn x →
    (algorithmRequest i = none ∨ tabGetD s.blk.grotto.negotiated fn false = true) →
    ∃ t, exec i s = .next t ∧ t.pending = s.pending ∧ Answered t.blk fn x r ∧ GrFrame s.blk t.blk fn ∧
      t.blk.grotto = { s.blk.grotto with
        reply := some r
        negotiated := match i with
          | .negotiateAlgorithms _ offered => tabSet s.blk.grotto.negotiated fn offered
          | _ => s.blk.grotto.negotiated }) ∧
  (∀ (i : Instr) (fn : Nat) (s : State) (x : Taken), algorithmRequest i = some fn → GrTakes s.blk fn x →
    tabGetD s.blk.grotto.negotiated fn false = false →
    ∃ t, exec i s = .next t ∧ t.pending = s.pending ∧ Answered t.blk fn x .unexpectedRequest ∧ GrFrame s.blk t.blk fn ∧
      t.blk.grotto = { s.blk.grotto with reply := some .unexpectedRequest })
  ) ∧
  (
  ∀ (fn i : Nat) (nonce : BitVec 256) (s : State) (x : Taken), i < 4 → GrTakes s.blk fn x →
    tabGetD s.blk.grotto.negotiated fn false = true →
    ∃ t sig, exec (.getMeasurements fn (BitVec.ofNat 8 (8 + i)) nonce) s = .next t ∧
      Answered t.blk fn x (.measurements [⟨8 + i, match tabGet s.blk.dealer.bases i with
        | some z => if z.state = .ready then digestBytes z.digest else zeros 48
        | none => zeros 48⟩] sig)
  )

/-- KEY_EXCHANGE opens a session in place of any earlier one, whose session key goes with it; FINISH, in the session it is of, completes
it where its HMAC fits, and on a VF's mailbox gives the partition session key and forgets the last import nonce. A FINISH of no session,
or of one that is complete, is answered with an unexpected-request error. Inside its session KEY_UPDATE updates the session's secrets
and END_SESSION ends it, its session key destroyed with it; outside a session every request of R371 is answered with an
unexpected-request error and changes nothing. -/
def Obligations.SessionsAndTheirRequests : Prop :=
  (
  ∀ (fn : Nat) (s : State) (x : Taken), GrTakes s.blk fn x →
    let b := s.blk
    (tabGetD b.grotto.negotiated fn false = true → ∀ (session : BitVec 16) (exchange : BitVec 768), ∃ t sig, exec (.keyExchange fn session exchange) s = .next t ∧
      t.pending = s.pending ∧ GrFrame b t.blk fn ∧ Answered t.blk fn x
        (.keyExchangeRsp session (Config.exchangeData (Config.random b.grotto.draws)) sig) ∧
      tabGet t.blk.grotto.sessions fn =
        some ⟨session, Config.sessionSecret exchange (Config.random b.grotto.draws), false, 0⟩ ∧
      tabGet t.blk.grotto.sessionKeys fn = none ∧ t.blk.grotto.draws = b.grotto.draws + 1 ∧
      (∀ f, f ≠ fn → tabGet t.blk.grotto.sessions f = tabGet b.grotto.sessions f)) ∧
    (∀ (mac : BitVec 384) (z : Session), x.protocol = 2 → tabGet b.grotto.sessions fn = some z → z.id = sessionOf x → z.established = false →
      ∃ t, exec (.finish fn mac) s = .next t ∧ t.pending = s.pending ∧ GrFrame b t.blk fn ∧
        (if Config.finishVerifies z.secret mac = true then
           Answered t.blk fn x .finishRsp ∧ tabGet t.blk.grotto.sessions fn = some { z with established := true } ∧
           (fn ≠ 0 → tabGet t.blk.grotto.sessionKeys fn = some (importKey z.secret) ∧ tabGet t.blk.grotto.lastNonce fn = none)
         else Answered t.blk fn x .decryptError ∧ t.blk.grotto.sessions = b.grotto.sessions)) ∧
    (∀ mac : BitVec 384, (x.protocol ≠ 2 ∨ tabGet b.grotto.sessions fn = none ∨
        ∃ z, tabGet b.grotto.sessions fn = some z ∧ (z.id ≠ sessionOf x ∨ z.established = true)) →
      ∃ t, exec (.finish fn mac) s = .next t ∧ GrFrame b t.blk fn ∧ Answered t.blk fn x .unexpectedRequest ∧
        t.blk.grotto = { b.grotto with reply := some .unexpectedRequest })
  ) ∧
  (
  (∀ (fn : Nat) (s : State) (x : Taken) (z : Session), Secured s.blk fn x z →
    (∃ t, exec (.keyUpdate fn) s = .next t ∧ t.pending = s.pending ∧ GrFrame s.blk t.blk fn ∧ Answered t.blk fn x .keyUpdateAck ∧
      tabGet t.blk.grotto.sessions fn = some { z with secret := Config.updateSecret z.secret, updates := z.updates + 1 } ∧
      (∀ f, f ≠ fn → tabGet t.blk.grotto.sessions f = tabGet s.blk.grotto.sessions f)) ∧
    (∃ t, exec (.endSession fn) s = .next t ∧ t.pending = s.pending ∧ GrFrame s.blk t.blk fn ∧ Answered t.blk fn x .endSessionAck ∧
      tabGet t.blk.grotto.sessions fn = none ∧ tabGet t.blk.grotto.sessionKeys fn = none ∧
      (∀ f, f ≠ fn → tabGet t.blk.grotto.sessions f = tabGet s.blk.grotto.sessions f))) ∧
  (∀ (i : Instr) (fn : Nat) (s : State) (x : Taken), sessionRequest i = some fn → GrTakes s.blk fn x → inSession s.blk fn = false →
    ∃ t, exec i s = .next t ∧ t.pending = s.pending ∧ GrFrame s.blk t.blk fn ∧ Answered t.blk fn x .unexpectedRequest ∧
      t.blk.grotto = { s.blk.grotto with reply := some .unexpectedRequest })
  )

/-- SET_MIGRATION_KEY sets the key of a VF in the VF's own session, or in PF0's while the VF's interface is unlocked or the VF absent; a
number that is no VF is refused as invalid and any other case as not permitted. DECOMMISSION in PF0's session under a presence grant
destroys every partition, zeroes all device memory, destroys the keys and halts the block, every function that is not ABSENT with it;
without the grant, or on another function, it is not permitted. -/
def Obligations.MigrationKeysAndDecommission : Prop :=
  (
  ∀ (fn : Nat) (vf : BitVec 8) (key : BitVec 256) (s : State) (x : Taken) (z : Session), Secured s.blk fn x z →
    let b := s.blk
    let v := vf.toNat
    ∃ t, exec (.setMigrationKey fn vf key) s = .next t ∧ t.pending = s.pending ∧ GrFrame b t.blk fn ∧
      ((1 ≤ v ∧ v ≤ 63 ∧ (fn = v ∨ (fn = 0 ∧ grPresent b v = false))) →
        Answered t.blk fn x (.vendor 0x00) ∧ tabGet t.blk.grotto.migrationKeys v = some key ∧
        (∀ w, w ≠ v → tabGet t.blk.grotto.migrationKeys w = tabGet b.grotto.migrationKeys w)) ∧
      ((v = 0 ∨ 63 < v) → Answered t.blk fn x (.vendor 0x02) ∧ t.blk.grotto.migrationKeys = b.grotto.migrationKeys) ∧
      ((1 ≤ v ∧ v ≤ 63 ∧ fn ≠ v ∧ (fn ≠ 0 ∨ grPresent b v = true)) →
        Answered t.blk fn x (.vendor 0x01) ∧ t.blk.grotto.migrationKeys = b.grotto.migrationKeys)
  ) ∧
  (
  ∀ (fn : Nat) (s : State) (x : Taken) (z : Session), Secured s.blk fn x z →
    let b := s.blk
    (fn = 0 → b.grotto.grant = true →
      ∃ t, exec (.decommission fn) s = .next t ∧ t.pending = s.pending ∧ t.blk.recov.halted = true ∧
        (∀ f, (fnAt t.blk f).state = .halted ∨ (fnAt t.blk f).state = .absent) ∧
        t.blk.parts = [] ∧ t.blk.mem.bytes = [] ∧ t.blk.dealer.bases = [] ∧ t.blk.grotto.grant = false ∧
        t.blk.grotto.attestKey = none ∧ t.blk.grotto.blockFarKey = none ∧ t.blk.grotto.farKeys = [] ∧ t.blk.grotto.sessionKeys = [] ∧
        t.blk.grotto.migrationKeys = [] ∧ t.blk.grotto.sessions = [] ∧ t.blk.grotto.reply = some (.vendor 0x00) ∧
        hostLE t.blk (x.buffer + 4) 2 = 0 ∧ t.blk.boot = b.boot) ∧
    ((fn ≠ 0 ∨ b.grotto.grant = false) →
      ∃ t, exec (.decommission fn) s = .next t ∧ t.pending = s.pending ∧ GrFrame b t.blk fn ∧ Answered t.blk fn x (.vendor 0x01))
  )

/-- LOCK_INTERFACE_REQUEST locks an unlocked interface that meets R374 to its stream and makes its report; START_INTERFACE_REQUEST runs
a locked one; the state and the report, with the 65,536 bytes of the VF's BAR0, are told as they stand; a request that its state does
not allow, or that names a VF with no interface, is answered with an error and leaves every interface. STOP_INTERFACE_REQUEST of an
interface that is not unlocked begins its scrub: every context of the partition is being destroyed and the commands of its contexts end
without records; the answer follows the scrub. Of a VF with no partition or an unlocked interface it is answered with an error; while
its PART_DESTROY runs, with the answer that the interface does not exist. -/
def Obligations.DeviceInterfaces : Prop :=
  (
  ∀ (vf : BitVec 8) (s : State) (x : Taken) (z : Session), Secured s.blk 0 x z →
    let b := s.blk
    let v := vf.toNat
    (∀ (stream : BitVec 8) (y : Tdisp) (p : Part), tabGet b.grotto.tdisp v = some y → partAt b v = some p →
      ∃ t, exec (.lockInterfaceRequest vf stream) s = .next t ∧ t.pending = s.pending ∧ GrFrame b t.blk 0 ∧
        (if y.state = .unlocked ∧ (fnAt b v).state = .ready ∧ p.desc.diagnostic = false ∧ b.grotto.debugState = 0 ∧
            b.grotto.unlocking = false ∧ streamOk b.grotto stream = true then
           Answered t.blk 0 x .tdispOk ∧ tabGet t.blk.grotto.tdisp v = some ⟨.locked, stream, reportBytes b p stream⟩
         else Answered t.blk 0 x .tdispError ∧ t.blk.grotto.tdisp = b.grotto.tdisp)) ∧
    (∀ y : Tdisp, tabGet b.grotto.tdisp v = some y →
      (∃ t, exec (.startInterfaceRequest vf) s = .next t ∧ t.pending = s.pending ∧ GrFrame b t.blk 0 ∧
        (if y.state = .locked then Answered t.blk 0 x .tdispOk ∧ tabGet t.blk.grotto.tdisp v = some { y with state := .run }
         else Answered t.blk 0 x .tdispError ∧ t.blk.grotto.tdisp = b.grotto.tdisp)) ∧
      (∃ t, exec (.getDeviceInterfaceState vf) s = .next t ∧ t.pending = s.pending ∧ GrFrame b t.blk 0 ∧
        Answered t.blk 0 x (.tdispState y.state) ∧ t.blk.grotto.tdisp = b.grotto.tdisp) ∧
      (∃ t, exec (.getDeviceInterfaceReport vf) s = .next t ∧ t.pending = s.pending ∧ GrFrame b t.blk 0 ∧
        Answered t.blk 0 x (.tdispReport v 65536 y.report) ∧ t.blk.grotto.tdisp = b.grotto.tdisp)) ∧
    (tabGet b.grotto.tdisp v = none → ∀ (stream : BitVec 8) (i : Instr),
      i ∈ [.lockInterfaceRequest vf stream, .startInterfaceRequest vf, .getDeviceInterfaceState vf, .getDeviceInterfaceReport vf] →
      ∃ t, exec i s = .next t ∧ Answered t.blk 0 x .tdispError ∧ t.blk.grotto.tdisp = b.grotto.tdisp)
  ) ∧
  (
  ∀ (vf : BitVec 8) (s : State) (x : Taken) (z : Session), Secured s.blk 0 x z →
    let b := s.blk
    let v := vf.toNat
    (∀ p, partAt b v = some p → p.ending = none → grPresent b v = true →
      ∃ t u, exec (.stopInterfaceRequest vf) s = .next t ∧ t.pending = s.pending ∧ t.blk = settle u ∧
        (∃ p', partAt u v = some p' ∧ p'.ending = some (.scrub true) ∧ p'.desc = p.desc) ∧
        (∀ g c, g < 65536 → ctxAt b g = some c → c.fn = v → ∃ c', ctxAt u g = some c' ∧ c'.state = .destroying) ∧
        (∀ k ∈ u.dealer.cmds, k.q.fn = v → k.q.tag ≠ 0 → k.suppressed = true) ∧ u.grotto = b.grotto ∧ u.mem = b.mem ∧
        (∀ f, fnAt u f = { fnAt b f with loadEnded := (fnAt u f).loadEnded })) ∧
    (∀ p id started, partAt b v = some p → p.ending = some (.destroy id started) →
      ∃ t, exec (.stopInterfaceRequest vf) s = .next t ∧ t.pending = s.pending ∧ GrFrame b t.blk 0 ∧ Answered t.blk 0 x .tdispAbsent ∧
        t.blk.grotto = { b.grotto with reply := some .tdispAbsent }) ∧
    ((partAt b v = none ∨ (grPresent b v = false ∧ ∀ p, partAt b v = some p → p.ending = none)) →
      ∃ t, exec (.stopInterfaceRequest vf) s = .next t ∧ t.pending = s.pending ∧ GrFrame b t.blk 0 ∧ Answered t.blk 0 x .tdispError ∧
        t.blk.grotto = { b.grotto with reply := some .tdispError })
  )

/-- In PF0's session QUERY answers four streams, KEY_PROG sends the key and its IV on the key port and keeps no copy, and K_SET_GO and
K_SET_STOP of a known sub-stream send their commands and take the port's report; a stream the port reports insecure breaks the
interfaces bound to it. A sub-stream the port does not have, a fifth stream, and a key command outside the session fail and send
nothing. A stream of the controller that falls insecure: its secure bit is 0, and every locked or running interface bound to a stream
that is not secure is in ERROR, its function's fetch stopped. Nothing else changes but what is sent. -/
def Obligations.IdeStreamsAndKeys : Prop :=
  (
  ∀ (stream : BitVec 8) (keySet transmit : Bool) (sub : BitVec 2) (key : BitVec 256) (iv : BitVec 96) (accepted : Bool)
    (ids : BitVec 32) (secure : BitVec 4) (s : State) (x : Taken) (z : Session), Secured s.blk 0 x z →
    let b := s.blk
    let broken := fun (u : Block) => ∀ v y, tabGet b.grotto.tdisp v = some y →
      streamOk { b.grotto with streamIds := ids, streamSecure := secure } y.stream = false → (y.state = .locked ∨ y.state = .run) →
      ∃ y', tabGet u.grotto.tdisp v = some y' ∧ y'.state = .error
    (∃ t, exec (.ideKmQuery 0) s = .next t ∧ t.pending = s.pending ∧ GrFrame b t.blk 0 ∧ Answered t.blk 0 x (.ideStreams 4)) ∧
    (∃ t, exec (.keyProg 0 stream keySet sub transmit key iv accepted) s = .next t ∧ t.pending = s.pending ∧ GrFrame b t.blk 0 ∧
      (if keyAllowed b.grotto stream sub = true then
         .key (keyCmd stream keySet sub transmit 1) key iv ∈ t.blk.out ∧
         (if accepted then Answered t.blk 0 x .ideOk ∧ (⟨stream, keySet, sub, transmit, false⟩ : IdeKey) ∈ t.blk.grotto.ide
          else Answered t.blk 0 x .ideFail ∧ t.blk.grotto.ide = b.grotto.ide)
       else Answered t.blk 0 x .ideFail ∧ t.blk.grotto.ide = b.grotto.ide)) ∧
    (sub ≠ 3 →
      (∃ t, exec (.kSetGo 0 stream keySet sub transmit accepted ids secure) s = .next t ∧ t.pending = s.pending ∧
        .key (keyCmd stream keySet sub transmit 2) 0 0 ∈ t.blk.out ∧ t.blk.grotto.streamIds = ids ∧ t.blk.grotto.streamSecure = secure ∧
        broken t.blk ∧ Answered t.blk 0 x (if accepted then .ideOk else .ideFail) ∧
        (accepted = true → ∀ k ∈ t.blk.grotto.ide, sameKey stream keySet sub transmit k = true → k.go = true)) ∧
      (∃ t, exec (.kSetStop 0 stream keySet sub transmit accepted ids secure) s = .next t ∧ t.pending = s.pending ∧
        .key (keyCmd stream keySet sub transmit 3) 0 0 ∈ t.blk.out ∧ t.blk.grotto.streamIds = ids ∧ t.blk.grotto.streamSecure = secure ∧
        broken t.blk ∧ Answered t.blk 0 x (if accepted then .ideOk else .ideFail) ∧
        (accepted = true → ∀ k ∈ t.blk.grotto.ide, sameKey stream keySet sub transmit k = true → k.go = false))) ∧
    (∀ go : Bool, ∃ t, exec (if go then .kSetGo 0 stream keySet 3 transmit accepted ids secure
        else .kSetStop 0 stream keySet 3 transmit accepted ids secure) s = .next t ∧ t.pending = s.pending ∧ GrFrame b t.blk 0 ∧
      Answered t.blk 0 x .ideFail ∧ t.blk.grotto = { b.grotto with reply := some .ideFail }) ∧
    (∀ (fn : Nat) (u : State) (y : Taken) (i : Instr) (r : GrottoReply), GrTakes u.blk fn y → (fn ≠ 0 ∨ inSession u.blk 0 = false) →
      (i, r) ∈ [(.ideKmQuery fn, .unexpectedRequest), (.keyProg fn stream keySet sub transmit key iv accepted, .ideFail),
        (.kSetGo fn stream keySet sub transmit accepted ids secure, .unexpectedRequest),
        (.kSetStop fn stream keySet sub transmit accepted ids secure, .unexpectedRequest)] →
      ∃ t, exec i u = .next t ∧ t.pending = u.pending ∧ GrFrame u.blk t.blk fn ∧ Answered t.blk fn y r ∧
        t.blk.grotto = { u.blk.grotto with reply := some r })
  ) ∧
  (
  ∀ (index : BitVec 2) (s : State), alive s.blk = true →
    let b := s.blk
    let secure := b.grotto.streamSecure &&& ~~~(1#4 <<< index.toNat)
    let g := { b.grotto with streamSecure := secure }
    ∃ t, exec (.streamInsecure index) s = .next t ∧ t.pending = s.pending ∧ t.blk.grotto.streamSecure = secure ∧
      (∀ v y, tabGet b.grotto.tdisp v = some y → streamOk g y.stream = false → (y.state = .locked ∨ y.state = .run) →
        tabGet t.blk.grotto.tdisp v = some { y with state := .error } ∧
        ((fnAt b v).state = .running → (fnAt t.blk v).state = .stopping)) ∧
      (tabRising b.grotto.tdisp = true →
        ∀ v y, tabGet b.grotto.tdisp v = some y → streamOk g y.stream = true → tabGet t.blk.grotto.tdisp v = some y) ∧
      t.blk = { b with grotto := { g with tdisp := t.blk.grotto.tdisp }, fns := t.blk.fns, out := t.blk.out }
  )

/-! ## Reset and time -/

/-- RESET_RELEASE of a block in reset and RESET_ASSERT of one out of it reset every register; a release or an assertion that changes no
level does nothing. The sample that finds the debug cable released while debug is unlocked or being unlocked resets the block
internally. -/
def Obligations.ResetsOfTheBlock : Prop :=
  ∀ s : State,
    let b := s.blk
    (b.boot.released = false → (∃ t, exec .resetRelease s = .next t ∧ t.pending = s.pending ∧ ResetTo b t.blk true) ∧
      exec .resetAssert s = .next s) ∧
    (b.boot.released = true → (∃ t, exec .resetAssert s = .next t ∧ t.pending = s.pending ∧ ResetTo b t.blk false) ∧
      exec .resetRelease s = .next s) ∧
    (alive b = true → b.grotto.cable = false → (b.grotto.debugState = 0x01 ∨ b.grotto.unlocking = true) →
      ∃ t, exec .dbgCableRelease s = .next t ∧ t.pending = s.pending ∧ ResetTo b t.blk true) ∧
    ((b.grotto.cable = true ∨ (b.grotto.debugState ≠ 0x01 ∧ b.grotto.unlocking = false)) → exec .dbgCableRelease s = .next s)

/-- A block that a fatal fault or DECOMMISSION has halted stays halted through every command but the assertion and the release of
BLK_RESET_N. -/
def Obligations.HaltedStays : Prop :=
  ∀ (i : Instr) (s t : State), s.blk.recov.halted = true → i ≠ .resetAssert → i ≠ .resetRelease → exec i s = .next t →
    t.blk.recov.halted = true

/-- The first edge after the time base has been started, or its absence, starts epoch 0, LOCKED by the edge and in HOLDOVER without it.
While the pin serves the Lantern trigger no edge is captured. A captured edge is noted with its time: late in rounds 0 to 4,999 but for
tick 0 of round 0, early from round 5,000 to trim tick 62,499, and in window from trim tick 62,500 to the limit, where it becomes tick 0
of the next epoch. The end of the trim round begins the next epoch: round 0, tick 0, the PPS state by what the epoch captured, the trim
length kept, the running tricks ended, and the figures of the close shown. -/
def Obligations.EpochsBeginByTheEdge : Prop :=
  (
  ∀ (c : Nat) (s : State), alive s.blk = true → s.blk.tb.pps = .stopped →
    let b := s.blk
    (b.tb.started = true → b.tb.ppsPin = true →
      ∃ t, exec (.ppsEdgeCapture c) s = .next t ∧ t.pending = s.pending ∧ EpochZero b t.blk .locked 0) ∧
    (b.tb.started = true → ∃ t, exec .stoppedTimeout s = .next t ∧ t.pending = s.pending ∧ EpochZero b t.blk .holdover b.tb.ppsEdge) ∧
    (b.tb.started = false → exec (.ppsEdgeCapture c) s = .next s ∧ exec .stoppedTimeout s = .next s) ∧
    (b.tb.ppsPin = false → exec (.ppsEdgeCapture c) s = .next s)
  ) ∧
  (
  ∀ (c : Nat) (s : State), alive s.blk = true → ticking s.blk = true → s.blk.tb.boundaryDone = true → s.blk.tb.ppsPin = true →
    let b := s.blk
    let x := b.tb
    (x.tick ≤ c → (x.round ≠ 9999 → c ≤ 124999) → (x.round = 9999 → c ≤ 62499) → x.round ≤ 9999 →
      let late := decide (x.round < 5000 ∧ (x.round ≠ 0 ∨ c ≠ 0))
      ∃ t, exec (.ppsEdgeCapture c) s = .next t ∧ t.pending = s.pending ∧
        t.blk = { b with tb := { x with
          tick := c, ppsEdge := stampAt x c, earlySeen := x.earlySeen || decide (5000 ≤ x.round), lateSeen := x.lateSeen || late } }) ∧
    (x.round = 9999 → 62500 ≤ c → c ≤ trimLen x → x.tick < c → x.earlySeen = false → x.inWindow = none →
      ∃ t, exec (.ppsEdgeCapture c) s = .next t ∧ t.pending = s.pending ∧
        t.blk = { b with tb := { x with tick := c - 1, inWindow := some c, ppsEdge := mkStamp (x.epoch + 1) 0 0 } })
  ) ∧
  (
  ∀ s : State, alive s.blk = true → ticking s.blk = true → s.blk.tb.boundaryDone = true →
    let b := s.blk
    (b.tb.round = 9999 → ∃ t u, exec .trimRoundEnd s = .next t ∧ t.pending = s.pending ∧ t.blk = settle u ∧
      u.tb.epoch = b.tb.epoch + 1 ∧ u.tb.round = 0 ∧ u.tb.tick = 0 ∧ u.tb.boundaryDone = false ∧
      u.tb.earlySeen = false ∧ u.tb.lateSeen = false ∧ u.tb.inWindow = none ∧
      u.tb.lastTrim = BitVec.ofNat 18 (if b.tb.earlySeen then 62500 else match b.tb.inWindow with
        | some c => c
        | none => if b.tb.pps = .locked ∨ b.tb.lateSeen = true then 187500 else 125000) ∧
      u.tb.pps = (if b.tb.earlySeen then .slewing else if b.tb.inWindow.isSome then .locked
        else if b.tb.lateSeen then .slewing else .holdover) ∧
      u.dealer.running = [] ∧
      (∀ g c, ctxAt b g = some c → ∃ c', ctxAt u g = some c' ∧ c' = { c with closed := c.closing, closing := none }) ∧
      u.parts = b.parts ∧ u.mem = b.mem ∧ u.boot = b.boot) ∧
    (b.tb.round ≠ 9999 → ∃ t, exec .trimRoundEnd s = .next t ∧ t.blk = settle b)
  )

/-- While a die is throttled, round n of 0 to 9,998 is skipped on every unit that contains a core of it when n + n / 1,000 is odd; no
loaded run of such a unit runs (R154). -/
def Obligations.ThrottledDiesSkipRounds : Prop :=
  (∀ (b : Block) (base order : Nat), order ≤ 4 → base % 4 ^ order = 0 → b.tb.round ≤ 9998 →
    (unitSkipped b base order = true ↔
      ((b.tb.round + b.tb.round / 1000) % 2 = 1 ∧
        ∃ d, d < 12 ∧ b.tb.throttled.getLsbD d = true ∧ ∃ x ∈ unitCores base order, x / 64 = d))) ∧
  (∀ (presence cable : Bool) (report : RoundReport) (s : State), alive s.blk = true → ticking s.blk = true →
    s.blk.tb.round < 9998 →
    ∃ t u, exec (.roundBoundary presence cable report) s = .next t ∧ t.blk = settle u ∧
      u.tb.throttled = (if s.blk.tb.boundaryDone && !s.blk.tb.sampled then s.blk.pins.therm &&& dieMask s.blk
        else s.blk.tb.nextThrottled) ∧
      ∀ r ∈ u.dealer.running, unitSkipped u r.base r.order = false)

/-- A round boundary ends the running tricks, the rest of the round's work done first with the errors reported for it, and begins the
next round at tick 0: die throttling by the last sample, or by the alerts as they stand where none was told; only loaded tricks run, and
after a block fault none, the round then being a recovery round; the pins are sampled. In the first boundary of an epoch the round stays
0 and no partition is restrained. At the last tick of a round the die alerts are sampled and decide the next round's throttling, and one
value of PWR_SAMPLE is added to the epoch's or counted as missing; a presence hold of 30,000 samples grants presence once, and a grant
ends 100,000 samples after the release. -/
def Obligations.RoundsBeginAndAreSampled : Prop :=
  (
  ∀ (presence cable : Bool) (report : RoundReport) (s : State), alive s.blk = true → ticking s.blk = true →
    s.blk.tb.round ≠ 9999 →
    let b := if s.blk.tb.boundaryDone then workTo 125000 (tickErrs 124999 report.errs s.blk) else s.blk
    let fresh := b.tb.boundaryDone && !b.tb.sampled
    let a := b.pins.therm &&& dieMask b
    let alerts := if fresh then a else b.tb.nextThrottled
    let round := if b.tb.boundaryDone then b.tb.round + 1 else b.tb.round
    ∃ t u, exec (.roundBoundary presence cable report) s = .next t ∧ t.pending = s.pending ∧ t.blk = settle u ∧
      u.tb = { b.tb with
        round := round, tick := 0, boundaryDone := true, moverSlots := 0, sampled := false, throttled := alerts
        nextThrottled := alerts, alertSeen := if fresh then b.tb.alertSeen ||| a else b.tb.alertSeen } ∧
      u.recov.recovering = b.recov.faultTick.isSome ∧ u.recov.faultTick = none ∧ u.recov.ended = false ∧ u.dealer.loaded = [] ∧
      (b.recov.faultTick.isSome = true → u.dealer.running = []) ∧ (∀ r ∈ u.dealer.running, ∃ l ∈ b.dealer.loaded, r = { l with sems := r.sems }) ∧
      u.pins = { b.pins with presence := presence, cable := cable, temps := report.temps } ∧
      u.grotto.presence = presence ∧ u.grotto.cable = cable ∧
      u.grotto.presenceRun = (if presence then b.grotto.presenceRun + 1 else 0) ∧
      (round = 0 → ∀ v p, partAt u v = some p → p.restrained = false) ∧ u.boot = b.boot ∧ u.mem.host = b.mem.host
  ) ∧
  (
  ∀ (alerts : BitVec 12) (pwr : BitVec 32) (valid : Bool) (s : State), alive s.blk = true →
    let b := s.blk
    let g := b.grotto
    let a := alerts &&& dieMask b
    (ticking b = true → b.tb.boundaryDone = true → b.tb.sampled = false →
      ∃ t, exec (.thermSample alerts pwr valid) s = .next t ∧ t.pending = s.pending ∧
        t.blk = { b with
          pins := { b.pins with therm := alerts, pwr := pwr, pwrValid := valid }
          tb := { b.tb with
            tick := max b.tb.tick (lastTick b.tb), nextThrottled := a, alertSeen := b.tb.alertSeen ||| a, sampled := true }
          acct := t.blk.acct } ∧
        t.blk.acct = (if valid = true ∧ pwr.toNat ≤ 1000000 then
            { b.acct with sampleSum := b.acct.sampleSum + pwr.toNat, samples := b.acct.samples + 1 }
          else { b.acct with sampleMissing := true })) ∧
    (g.presence = true → g.presenceRun = 30000 →
      ∃ t, exec .presenceGrant s = .next t ∧ t.pending = s.pending ∧
        t.blk = { b with grotto := { g with grant := true, releasedRun := 0, presenceRun := 30001 } }) ∧
    (g.presenceRun ≠ 30000 → exec .presenceGrant s = .next s) ∧
    (g.grant = true → 100000 < g.releasedRun →
      ∃ t, exec .presenceGrantExpiry s = .next t ∧ t.pending = s.pending ∧
        t.blk = { b with grotto := { g with grant := false, releasedRun := 0 } }) ∧
    (g.releasedRun ≤ 100000 → exec .presenceGrantExpiry s = .next s)
  )

/-- The housekeeping of the trim round: at tick 2,048 the epoch's accounts are closed, once; at tick 50,000 every staged calendar
becomes active; then each stack of the build takes its refresh rate from its highest reading of the epoch. -/
def Obligations.TrimRoundTasks : Prop :=
  ∀ s : State, alive s.blk = true → ticking s.blk = true → s.blk.tb.boundaryDone = true → s.blk.tb.round = 9999 →
    let b := s.blk
    (b.tb.tick ≤ 2048 → b.acct.closedAt ≠ some b.tb.epoch →
      ∃ t, exec .accountingClose s = .next t ∧ t.pending = s.pending ∧ t.blk.tb = { b.tb with tick := 2048 } ∧
        (∀ g c, ctxAt b g = some c → ∃ c', ctxAt t.blk g = some c' ∧
          c' = { c with counters := Counters.zero, closing := c'.closing } ∧
          c'.closing = some ⟨b.tb.epoch, c.counters.unitTicks, c.counters.plannedNj * ratio b / 65536⟩) ∧
        (∀ v p, partAt b v = some p → partAt t.blk v = some { p with totals := Counters.zero, faults := 0 }) ∧
        t.blk.acct = { b.acct with
          ring := t.blk.acct.ring, sampleSum := 0, samples := 0, sampleMissing := false, useWasZero := !b.acct.useSamples
          retired := [], destroyedParts := [], closedAt := some b.tb.epoch } ∧
        (fnAt t.blk 0).intCause.getLsbD 8 = true ∧ t.blk.mem.bytes = b.mem.bytes ∧ t.blk.dealer = b.dealer ∧ t.blk.cal = b.cal) ∧
    (b.acct.closedAt = some b.tb.epoch → exec .accountingClose s = .next s) ∧
    (b.tb.tick ≤ 50000 → ∃ t, exec .calendarSwitch s = .next t ∧ t.pending = s.pending ∧ t.blk.tb = { b.tb with tick := 50000 } ∧
      t.blk.cal = { b.cal with active := b.cal.staged } ∧ t.blk.mem = b.mem ∧ t.blk.parts = b.parts ∧ t.blk.ctxs = b.ctxs ∧
      (∀ v x, v ∈ switchChanges b → tabGet b.grotto.tdisp v = some x → (x.state = .locked ∨ x.state = .run) →
        tabGet t.blk.grotto.tdisp v = some { x with state := .error })) ∧
    (b.tb.tick ≤ 55999 → ∃ t, exec .refreshRateChange s = .next t ∧ t.pending = s.pending ∧
      (∀ k, k < 12 → t.blk.mem.rate.extractLsb' (2 * k) 2 =
        (if stackHere b k = true then
           (if b.mem.forceX4 = true ∨ 90 ≤ (tabGetD b.mem.stackRegs k ⟨false, 0, 0, 0⟩).epochMax then 2
            else if 80 ≤ (tabGetD b.mem.stackRegs k ⟨false, 0, 0, 0⟩).epochMax then 1 else 0)
         else b.mem.rate.extractLsb' (2 * k) 2)) ∧
      t.blk = { b with tb := { b.tb with tick := max b.tb.tick 50001 }, mem := { b.mem with rate := t.blk.mem.rate } })

/-! ## The Dealer and the cores -/

/-- CONTEXT_SWAP_IN in a changeover window makes the context whose doorbell has asked longest resident, in a free slot or in that of the
resident context without work whose last doorbell is oldest. TRICK_WINDOW_START, tick 2,048 of an ordinary round: the sequencer of every
core of a running trick starts at its segment's first bundle unless a block fault came before, every core's window registers are cleared
and its scratchpad kept, and each unit of an attached engine gets its round start. -/
def Obligations.SwapInsAndTheTrickWindow : Prop :=
  (
  ∀ (fn tag : Nat) (s : State) (p : Part) (c : Ctx),
    let b := s.blk
    let inSlot := { c with resident := true, wantsSwapIn := false, wantsSince := none, swapRound := some (roundCount b.tb) }
    let residents := (b.ctxs.filter (fun (e : Nat × Ctx) => e.2.fn == fn && e.2.resident)).length
    alive b = true → ticking b = true → b.tb.boundaryDone = true → b.tb.tick ≤ 2047 → partAt b fn = some p →
    (fnAt b fn).lastSwap ≠ some (roundCount b.tb) → tabRising b.ctxs = true → FirstOf b wantKey (fun e => wantsSlot b fn e.2) tag c →
    (residents < p.desc.residentContexts →
      ∃ t, exec (.contextSwapIn fn) s = .next t ∧ t.pending = s.pending ∧ ctxAt t.blk tag = some inSlot ∧
        (∀ x, x ≠ tag → ctxAt t.blk x = ctxAt b x) ∧
        fnAt t.blk fn = { fnAt b fn with lastSwap := some (roundCount b.tb) } ∧ (∀ f, f ≠ fn → fnAt t.blk f = fnAt b f) ∧
        t.blk = { b with ctxs := t.blk.ctxs, fns := t.blk.fns }) ∧
    (p.desc.residentContexts ≤ residents → ∀ old z, FirstOf b doorbellKey (givesSlot b fn) old z →
      ∃ t, exec (.contextSwapIn fn) s = .next t ∧ t.pending = s.pending ∧ ctxAt t.blk tag = some inSlot ∧
        ctxAt t.blk old = some { z with resident := false } ∧ (∀ x, x ≠ tag → x ≠ old → ctxAt t.blk x = ctxAt b x) ∧
        t.blk = { b with ctxs := t.blk.ctxs, fns := t.blk.fns })
  ) ∧
  (
  ∀ s : State, alive s.blk = true → ticking s.blk = true → s.blk.tb.boundaryDone = true → s.blk.tb.round ≠ 9999 →
    s.blk.tb.tick ≤ 2048 →
    let b := s.blk
    ∃ t, exec .trickWindowStart s = .next t ∧ t.pending = s.pending ∧ t.blk.tb = { b.tb with tick := 2048 } ∧
      (∀ i, let c := coreAt t.blk i
        c.clip = [] ∧ c.sregChannel = [] ∧ c.sregRow = [] ∧ c.rotBuf = [] ∧ c.l1 = [] ∧ c.lineTags = [] ∧ c.engineRan = false ∧
        (i < 768 → c.spad = (coreAt b i).spad) ∧ (768 ≤ i → c.spad = []) ∧ c.acc = (coreAt b i).acc ∧ c.bufs = (coreAt b i).bufs ∧ c.active = (coreAt b i).active ∧
        c.inflight = (coreAt b i).inflight ∧ c.jobs = (coreAt b i).jobs ∧ c.work = (coreAt b i).work) ∧
      (b.recov.faultTick = none → ∀ r ∈ b.dealer.running, r.kind = .trick → ∀ i ∈ unitCores r.base r.order,
        (coreAt t.blk i).seq = match (coreAt b i).active with
          | some g => ⟨true, 2048, 0, g.lead, []⟩
          | none => Sequencer.idle) ∧
      (b.recov.faultTick ≠ none → ∀ i, (coreAt t.blk i).seq = (coreAt b i).seq) ∧
      (∃ l, t.blk.out = b.out ++ l ∧ ∀ r ∈ b.dealer.running, 768 ≤ r.base → .engineRound r.base ∈ l) ∧
      t.blk.dealer = b.dealer ∧ t.blk.ctxs = b.ctxs ∧ t.blk.parts = b.parts ∧ t.blk.mem.host = b.mem.host
  )

/-- PLACEMENT loads runs of admitted steps only, on units whose quads their partition owns in the next round, and gives no core two
runs; for a trim round, or where a segment fails its CRC, which is a block fault, it loads none. -/
def Obligations.PlacementKeepsUnitsApart : Prop :=
  ∀ (bad : List (Nat × Nat)) (s : State),
    let b := s.blk
    let n := if b.tb.round = 9999 then 0 else b.tb.round + 1
    alive b = true → ticking b = true → b.tb.boundaryDone = true → b.recov.faultTick = none →
    tabRising b.parts = true → HeldApart b → UnitsAligned b →
    ∃ t, exec (.placement bad) s = .next t ∧ t.pending = s.pending ∧
      (∀ u ∈ t.blk.dealer.loaded, ∃ x ∈ b.dealer.steps, x.id = u.step ∧ x.stage = .admitted ∧ x.lost = false ∧ x.aborted = false ∧
        unitOwned b x.fn n u.base u.order = true) ∧
      t.blk.dealer.loaded.Pairwise (fun u w => overlap u.base (4 ^ u.order) w.base (4 ^ w.order) = false) ∧
      (n = 9999 → t.blk.dealer.loaded = []) ∧ (t.blk.recov.faultTick ≠ none → t.blk.dealer.loaded = []) ∧
      t.blk.dealer.running = b.dealer.running ∧ (bad = [] → t.blk = { b with
        tb := { b.tb with tick := max b.tb.tick (if b.tb.round = 9999 then 50001 else 2048) }
        cores := t.blk.cores, dealer := { b.dealer with loaded := t.blk.dealer.loaded, steps := t.blk.dealer.steps } })

/-- PIN_INSTALL of a walked step: a pin set that fits the free entries is installed whole, and the step is admitted, or staged if it has
tiles to copy; one that no empty table could hold ends the step with ST_STEP_TOO_WIDE, and one that has to wait leaves all as it was. A
step whose base set cannot serve it ends with ST_BASE_UNAVAILABLE. -/
def Obligations.PinsAreInstalledWhole : Prop :=
  ∀ (id : Nat) (s : State) (st : Step) (p : Part) (pl : Plan) (c : Ctx),
    let b := s.blk
    stepById b id = some st → partAt b st.fn = some p → stepPlan b st = some pl → ctxAt b st.tag.toNat = some c → alive b = true →
    st.stage = .walked → admits b st.fn p = true → swapDone b c = true → (imgUsesBase pl.image = true → baseWaits b p = false) →
    (imgUsesBase pl.image = true → baseOk b p pl.image = false → st.rewalk = false → (∃ k ∈ b.dealer.cmds, k.id = st.cmd) →
      (∀ x ∈ b.dealer.steps, x.id ≠ st.id → x.cmd ≠ st.cmd) →
      ∃ t u, exec (.pinInstall id) s = .next t ∧ t.pending = s.pending ∧ t.blk = settle u ∧ Ended u st.cmd stBaseUnavailable 0 ∧
        stepById u id = none) ∧
    ((imgUsesBase pl.image = true → baseOk b p pl.image = true) → pinsHeldBack b st = false →
      st.stageOps.length ≤ stagingTiles b st.fn →
    ((∀ d, d < 17 → pinsNeeded st d ≤ pinShare p d) → pinsFit b st p = true →
      ∃ t u, exec (.pinInstall id) s = .next t ∧ t.pending = s.pending ∧ t.blk = settle u ∧
        (st.stageOps = [] → stepById u id = some { st with
            stage := .admitted, pinnedAt := some (now b), admittedAt := some (st.admittedAt.getD (now b)) } ∧
          (∀ r ∈ st.pins, ∃ e ∈ u.xlat.l2, e.vf = st.fn ∧ e.req = r) ∧ (∀ e ∈ b.xlat.l2, ∃ e' ∈ u.xlat.l2,
            e' = { e with pins := e'.pins } ∧ e.pins ≤ e'.pins) ∧
          u = { b with
            xlat := { b.xlat with l2 := u.xlat.l2 }, dealer := { b.dealer with steps := u.dealer.steps } }) ∧
        (st.stageOps ≠ [] → ∃ x, stepById u id = some x ∧ x.stage = .staging ∧ x.pinnedAt = some (now b))) ∧
    ((∀ d, d < 17 → pinsNeeded st d ≤ pinShare p d) → pinsFit b st p = false →
      ∃ t, exec (.pinInstall id) s = .next t ∧ t.pending = s.pending ∧ t.blk = settle b) ∧
    (∀ d, d < 17 → pinShare p d < pinsNeeded st d → (∀ e, e < d → pinsNeeded st e ≤ pinShare p e) → st.rewalk = false →
      (∃ k ∈ b.dealer.cmds, k.id = st.cmd) → (∀ x ∈ b.dealer.steps, x.id ≠ st.id → x.cmd ≠ st.cmd) →
      ∃ t u, exec (.pinInstall id) s = .next t ∧ t.pending = s.pending ∧ t.blk = settle u ∧
        Ended u st.cmd stStepTooWide (BitVec.ofNat 32 (min (pinsNeeded st d) 0xFFFF * 65536 + min (pinShare p d) 0xFFFF)) ∧
        stepById u id = none))

/-- An MMA issued at t lands its products in tick t + H + D + 3, H its head and D its product ticks, and a clearing one clears its
buffer at t + H + 4. It adds to the accumulator of each lane of its rows and columns, in a buffer of its mode's state, the exact sum of
the products of the codes it has read, or in an FP32 mode the products one after the other with one rounding each; every other
accumulator stays, and so does all of a buffer in another state. A line with an invalid T byte raises a block fault and ends the
operation. -/
def Obligations.MmaAccumulatesProducts : Prop :=
  (∀ (id t : Nat) (l : List LoopFrame) (d : MmaDesc) (buf : Nat) (clear : Bool) (m : MmaMode),
    mmaMode d.wFmt.toNat d.aFmt.toNat = some m →
    let h := if d.seatGathered then 256 else 64
    (⟨t + h + mmaTicks d m + 3, true, .set id 1⟩ : Work) ∈ jobWork id t l (.mma d buf clear) ∧
    ((⟨t + h + 4, true, .set id 0⟩ : Work) ∈ jobWork id t l (.mma d buf clear) ↔ clear = true)) ∧
  (∀ (j : Job) (d : MmaDesc) (buf : Nat) (clear : Bool) (m : MmaMode) (c : Core), j.op = .mma d buf clear →
    mmaMode d.wFmt.toNat d.aFmt.toNat = some m → (d.seatGathered = true → m.fp32 = true) →
    (let u := jobSet j 0 c;
      bufState u buf = modeState m ∧ (∀ i k, i < 64 → k < 64 → accAt u buf i k = 0) ∧
      (∀ n i k, n ≠ buf → i < 64 → k < 64 → accAt u n i k = accAt c n i k) ∧ (∀ n, n ≠ buf → bufState u n = bufState c n) ∧
      u = { c with acc := u.acc, bufs := u.bufs }) ∧
    (let u := jobSet j 1 c;
      (bufState c buf ≠ modeState m → u = c) ∧
      (bufState c buf = modeState m →
        (∀ i k, i ≤ d.rowsM1.toNat → k ≤ d.colsM1.toNat →
          let as := mmaA j d i
          let ws := mmaW j d i k
          let n := min as.length ws.length
          accAt u buf i k =
            if m.fp32 then (fmaSum n (fun x => (codeF32 fmtBF16 (as.getD x 0), codeF32 fmtBF16 (ws.getD x 0)))
              ((accAt c buf i k).setWidth 32)).setWidth 48
            else accAt c buf i k + BitVec.ofInt 48
              (sumInt n (fun x => codeInt d.aFmt.toNat (as.getD x 0) * codeInt d.wFmt.toNat (ws.getD x 0)))) ∧
        (∀ i k, i < 64 → k < 64 → (d.rowsM1.toNat < i ∨ d.colsM1.toNat < k) → accAt u buf i k = accAt c buf i k) ∧
        (∀ n i k, n ≠ buf → i < 64 → k < 64 → accAt u n i k = accAt c n i k) ∧ u = { c with acc := u.acc }))) ∧
  (∀ (b : Block) (core key line mask : Nat) (j : Job), jobAt (coreAt b core) j.id = some j →
    fetchBad j.op key mask (memReadN (coreAt b core).spad (64 * line) 64) = true →
    let u := doAct b core (.fetch j.id key line mask)
    u.recov.faultTick ≠ none ∧ u.dealer.loaded = [] ∧ jobAt (coreAt u core) j.id = none ∧ (coreAt u core).spad = (coreAt b core).spad)

/-- The nine compute and local operations, issued in a bundle's tick, are put in work on their core with the whole schedule of their
timeline, and change nothing else. What an operation does in its ticks changes its core alone: a line read is held by its job, a result
line goes to the scratchpad, and only accumulators, buffer states, clip counters, scale entries and the rotation buffer are set.
ACC_EXPORT makes each accumulator of a row an 8-byte word, sign-extended or FP32; ACC_IMPORT adds such words to the accumulators of a
row; SREG_LOAD fills consecutive entries of a table from its lines; CLIP_SAVE writes the clip counters, 128 in each part. -/
def Obligations.CoreOperationsChangeTheirCore : Prop :=
  (
  ∀ (i : Instr) (core : Nat) (op : CoreOp) (s : State),
    let b := atBundle s.blk core
    Issuing s.blk core → core < 768 → jobOf i = some (core, op) →
    ∃ t c, exec i s = .next t ∧ t.pending = s.pending ∧ OnlyCore b t core c ∧
      InWork (coreAt b core) c op (coreAt s.blk core).seq.next
  ) ∧
  (
  ∀ (b : Block) (core : Nat) (j : Job), jobAt (coreAt b core) j.id = some j →
    let c := coreAt b core
    (∀ key line mask, fetchBad j.op key mask (memReadN c.spad (64 * line) 64) = false →
      let u := doAct b core (.fetch j.id key line mask)
      CoreChanged b u core { c with jobs := (coreAt u core).jobs } ∧
      jobAt (coreAt u core) j.id = some { j with latch := tabSet j.latch key (memReadN c.spad (64 * line) 64) }) ∧
    (∀ part, let u := doAct b core (.make j.id part)
      CoreChanged { b with freeCtr := u.freeCtr } u core { c with jobs := (coreAt u core).jobs } ∧
      ∃ r, jobAt (coreAt u core) j.id = some { j with res := tabSet j.res part r }) ∧
    (∀ key line n, let u := doAct b core (.put j.id key line n)
      CoreChanged b u core { c with spad := (coreAt u core).spad } ∧
      (∀ k, k < n → k < (jobLine j key).length → memRead (coreAt u core).spad (64 * line + k) = (jobLine j key).getD k 0) ∧
      (∀ p, (p < 64 * line ∨ 64 * line + n ≤ p) → memRead (coreAt u core).spad p = memRead c.spad p)) ∧
    (∀ part, let u := doAct b core (.set j.id part)
      CoreChanged b u core { c with
        acc := (coreAt u core).acc, bufs := (coreAt u core).bufs, clip := (coreAt u core).clip, rotBuf := (coreAt u core).rotBuf
        sregRow := (coreAt u core).sregRow, sregChannel := (coreAt u core).sregChannel }) ∧
    (let u := doAct b core (.drop j.id);
      CoreChanged b u core { c with jobs := c.jobs.filter (fun k => k.id != j.id) })
  ) ∧
  (
  ∀ (j : Job) (d : LocalDesc) (c : Core) (free : F32),
    let k := d.buffer.toNat
    let row := d.firstRow.toNat
    (∀ x, (tabGetD j.latch x (zeros 64)).length = 64) →
    (∀ r, bufState c k ≠ .notCleared → row + r ≤ 63 →
      (j.op = .accExport d → ∀ x, x < 64 → (jobMake c j free r).getD x 0 =
        if bufState c k = .fp32 then (accAt c k (row + r) x).toNat % 2 ^ 32 else ((accAt c k (row + r) x).signExtend 64).toNat) ∧
      (j.op = .accImport d → let u := jobSet j r c
        (∀ x, x < 64 → accAt u k (row + r) x =
          let w := le (((latched j (8 * r) 8).drop (8 * x)).take 8)
          if bufState c k = .fp32 then (f32Add ((accAt c k (row + r) x).setWidth 32) (BitVec.ofNat 32 w)).setWidth 48
          else accAt c k (row + r) x + BitVec.ofNat 48 w) ∧
        (∀ n i x, i < 64 → x < 64 → (n ≠ k ∨ i ≠ row + r) → accAt u n i x = accAt c n i x) ∧ u = { c with acc := u.acc })) ∧
    (j.op = .sregLoad d → let u := jobSet j 0 c
      (∀ e, e ≤ d.entriesM1.toNat → sregAt u d.rowEntries (d.entry.toNat + e) =
        BitVec.ofNat 32 (le (((latched j 0 4).drop (4 * e)).take 4))) ∧
      (∀ e, (e < d.entry.toNat ∨ d.entry.toNat + d.entriesM1.toNat < e) → sregAt u d.rowEntries e = sregAt c d.rowEntries e) ∧
      u = { c with sregRow := u.sregRow, sregChannel := u.sregChannel }) ∧
    (j.op = .clipSave d → ∀ q x, x < 128 → (jobMake c j free q).getD x 0 = (tabGetD c.clip (128 * q + x) 0).toNat)
  )

/-- LOAD, STORE and SCATTER put their tiles in flight, spaced from the bundle's tick; GATHER its tiles after a head of 16 ticks; ATOMIC
its one tile or word. Each stands in flight with its class, issue tick, scratchpad line and the work of its ticks, and nothing but the
core changes. -/
def Obligations.DmaOperationsPutTilesInFlight : Prop :=
  ∀ (core : Nat) (s : State) (st : Step),
    let b := atBundle s.blk core
    let old := coreAt b core
    let t0 := (coreAt s.blk core).seq.next
    Issuing s.blk core → coreStep b core = some st →
    (∀ (d : XferDesc) (i : Instr) (kind : XferKind), (i, kind) ∈ [(.load core d, .load), (.store core d, .store), (.scatter core d, .store)] →
      ∃ t c, exec i s = .next t ∧ t.pending = s.pending ∧ OnlyCore b t core c ∧ MoreInFlight old c d.tiles.toNat ∧
        (∀ k, k < d.tiles.toNat →
          InFlight c kind d.cls.toNat (t0 + k * d.spacing.toNat) (lineOf old d.spad + d.tileStep.toNat * k))) ∧
    (∀ d : GatherDesc, d.kind ≠ 3 → ∃ t c, exec (.gather core d) s = .next t ∧ t.pending = s.pending ∧ OnlyCore b t core c ∧
      MoreInFlight old c (d.seatCount.toNat * d.tilesPerSeat.toNat) ∧
      (∀ n, n < d.seatCount.toNat * d.tilesPerSeat.toNat → InFlight c .load d.cls.toNat (t0 + 16 + n * d.spacing.toNat)
        (lineOf old d.spad + n / d.tilesPerSeat.toNat * d.seatStride.toNat + 64 * (n % d.tilesPerSeat.toNat)))) ∧
    (∀ d : GatherDesc, d.kind = 3 → ∃ t c, exec (.gather core d) s = .next t ∧ t.pending = s.pending ∧ OnlyCore b t core c ∧
      MoreInFlight old c (d.seatCount.toNat * d.tilesPerSeat.toNat) ∧
      (∀ n, n < d.seatCount.toNat * d.tilesPerSeat.toNat →
        InFlight c (.seatInfo (seatWords st old (d.seatFirst.toNat + n / d.tilesPerSeat.toNat))) d.cls.toNat
          (t0 + 16 + n * d.spacing.toNat) (lineOf old d.spad + n / d.tilesPerSeat.toNat * d.seatStride.toNat))) ∧
    (∀ d : AtomicDesc, ∃ t c, exec (.atomic core d) s = .next t ∧ t.pending = s.pending ∧ OnlyCore b t core c ∧ MoreInFlight old c 1 ∧
      InFlight c (if d.op = 4 then .cas else .atomicTile d.op.toNat) d.cls.toNat t0 (lineOf old d.spad))

/-- The control operations move the sequencer one tick on: LOOP enters a loop, WAIT leaves n empty bundles, TRICK_END ends the trick,
SEM_SIGNAL and SEM_WAIT note their operation on the unit's semaphores, and a wait whose core sees too small a count raises a block
fault. BUNDLE_ISSUE passes an empty bundle, or acts with the word at the sequencer's position; errors that the core's memories corrected
are counted in the rounds of a diagnostic partition, and a double-bit error is a block fault of no context. -/
def Obligations.ControlMovesTheSequencer : Prop :=
  ∀ (core : Nat) (s : State),
    let b := atBundle s.blk core
    let q := (coreAt b core).seq
    let t0 := (coreAt s.blk core).seq.next
    let past := endLoops (q.pos + 1) q.loops
    (Issuing s.blk core →
      (∀ (level : BitVec 2) (body : BitVec 10) (count : BitVec 12),
        ∃ t, exec (.loop core level body count) s = .next t ∧ t.pending = s.pending ∧ OnlyCore b t core { coreAt b core with
          seq := { q with
            next := q.next + 1, pos := q.pos + 1
            loops := ⟨level.toNat, q.pos + 1, body.toNat + 1, count.toNat + 1, 0⟩ :: q.loops } }) ∧
      (∀ n : BitVec 24, ∃ t, exec (.wait core n) s = .next t ∧ t.pending = s.pending ∧ OnlyCore b t core { coreAt b core with
        seq := { q with next := q.next + 1, pos := past.1, loops := past.2, emptyLeft := n.toNat } }) ∧
      (∃ t, exec (.trickEnd core) s = .next t ∧ t.pending = s.pending ∧
        coreAt t.blk core = { coreAt b core with seq := { q with running := false, next := q.next + 1 } } ∧
        (∀ x, x ≠ core → coreAt t.blk x = coreAt b x) ∧
        t.blk = { b with cores := t.blk.cores, mem := t.blk.mem, lantern := t.blk.lantern }) ∧
      (∀ (sem : BitVec 4) (n : BitVec 12) (u : UnitRun), runAt b core = some u →
        (∃ t, exec (.semSignal core sem n) s = .next t ∧ t.pending = s.pending ∧
          runAt t.blk core = some { u with semOps := u.semOps ++ [⟨t0, core, sem.toNat, n.toNat, true⟩] } ∧
          (coreAt t.blk core).seq = { q with next := q.next + 1, pos := past.1, loops := past.2 }) ∧
        ((n.toNat : Int) ≤ semSeen u.semOps (u.sems.getD sem.toNat 0) sem.toNat core t0 →
          ∃ t, exec (.semWait core sem n) s = .next t ∧ t.pending = s.pending ∧
            runAt t.blk core = some { u with semOps := u.semOps ++ [⟨t0, core, sem.toNat, n.toNat, false⟩] } ∧
            (coreAt t.blk core).seq = { q with next := q.next + 1, pos := past.1, loops := past.2 }) ∧
        (semSeen u.semOps (u.sems.getD sem.toNat 0) sem.toNat core t0 < (n.toNat : Int) →
          ∃ t, exec (.semWait core sem n) s = .next t ∧ t.blk.recov.faultTick ≠ none)) ∧
      (∀ g w, (coreAt b core).active = some g → g.bundles[q.pos]? = some w →
        exec (.bundleIssue core ⟨⟨0, none⟩, []⟩) s = .next { s with blk := issueWord core g w b } ∧
        (∀ n, let u := issueWord core g w b
          ∃ t, exec (.bundleIssue core ⟨⟨n, none⟩, []⟩) s = .next t ∧ t.pending = s.pending ∧ OnlyCore u t core { coreAt u core with
            eccCount := if diagnosed u core = true ∧ n ≠ 0 then min 0xFFFFFFFF ((coreAt u core).eccCount + n) else (coreAt u core).eccCount }) ∧
        (∀ slots, let u := issueWord core g (spareSlots ⟨0, some slots⟩ w) b
          ∃ t, exec (.bundleIssue core ⟨⟨0, some slots⟩, []⟩) s = .next t ∧ t.pending = s.pending ∧ t.blk.recov.faultTick ≠ none ∧
            t.blk.acct.faultBlock = satAdd u.acct.faultBlock 1 ∧ t.blk.ctxs = u.ctxs ∧ t.blk.cores = u.cores)) ∧
      (∀ errs g w, let a := toTick (workTo t0 (tickErrs t0 errs s.blk)) t0
        (coreAt a core).active = some g → (coreAt a core).seq.emptyLeft = 0 → g.bundles[(coreAt a core).seq.pos]? = some w →
        exec (.bundleIssue core ⟨⟨0, none⟩, errs⟩) s = .next { s with blk := issueWord core g w a })) ∧
    (issueDue s.blk core = true → q.emptyLeft ≠ 0 →
      ∃ t, exec (.bundleIssue core ⟨⟨0, none⟩, []⟩) s = .next t ∧ t.pending = s.pending ∧ OnlyCore b t core { coreAt b core with
        seq := { q with next := t0 + 1, emptyLeft := q.emptyLeft - 1 } })

/-- What a transfer of a Galxia core does in its ticks: lines are taken from the scratchpad, a load takes its tile from memory and lands
it, eight lines at a time; a store writes its tile with its check; an atomic replaces 512 bytes of its tile, and a CAS64 its word where
the word is the compared one, whose old value returns later. No other byte of device memory changes. The next transfer of the block to
end returns its credit and is charged to its payer, the rest of its ticks' work done: a load whose tile passes its check, and a store. A
load whose tile fails its check raises a block fault. -/
def Obligations.TransfersMoveTilesAndEnd : Prop :=
  (
  ∀ (b : Block) (core : Nat) (x : Xfer), core < 768 → xferAt b core x.id = some x →
    let c := coreAt b core
    let tile := x.pa / 4096 * 4096
    (∀ q, x.kind ≠ .cas → c.engineRan = false → let u := doAct b core (.take x.id q)
      CoreChanged b u core { c with inflight := (coreAt u core).inflight } ∧
      xferAt u core x.id = some { x with data := x.data ++ memReadN c.spad (64 * (x.line + 8 * q)) 512 }) ∧
    (xferReaches x = true → let u := doAct b core (.read x.id)
      (∃ line, xferAt u core x.id = some { x with seen := some ⟨tileBytes b tile, tileOk b x.pa, line⟩ }) ∧
      u.mem = { b.mem with cache := u.mem.cache } ∧ (coreAt u core).spad = c.spad) ∧
    (∀ q bs ok line, q < 8 → x.kind = .load → x.fault = none → x.seen = some ⟨bs, ok, line⟩ → bs.length = 4096 →
      let u := doAct b core (.land x.id q)
      CoreChanged b u core { c with spad := (coreAt u core).spad, lineTags := (coreAt u core).lineTags } ∧
      memReadN (coreAt u core).spad (64 * (x.line + 8 * q)) 512 = (bs.drop (512 * q)).take 512 ∧
      (∀ p, (p < 64 * (x.line + 8 * q) ∨ 64 * (x.line + 8 * q) + 512 ≤ p) → memRead (coreAt u core).spad p = memRead c.spad p)) ∧
    (xferReaches x = true → x.data.length = 4096 → let u := doAct b core (.write x.id)
      OnlyTile b u tile ∧ u = { b with mem := u.mem } ∧ tileBytes u tile = x.data ∧ (tileMeta u tile).check = storedCheck x.data ∧
      (tileMeta u tile).damaged = 0) ∧
    (∀ op q, x.kind = .atomicTile op → q < 8 → xferReaches x = true → x.data.length = 4096 → let u := doAct b core (.apply x.id q)
      OnlyTile b u tile ∧
      memReadN u.mem.bytes (tile + 512 * q) 512 =
        atomicBytes op (memReadN b.mem.bytes (tile + 512 * q) 512) ((x.data.drop (512 * q)).take 512) ∧
      (∀ p, (p < tile + 512 * q ∨ tile + 512 * q + 512 ≤ p) → memRead u.mem.bytes p = memRead b.mem.bytes p)) ∧
    (x.kind = .cas → xferReaches x = true → x.data.length = 16 → x.pa % 4096 ≤ 4088 → let u := doAct b core (.apply x.id 0)
      let old := memReadLE b.mem.bytes x.pa 8
      OnlyTile b u tile ∧ memReadLE u.mem.bytes x.pa 8 = (if old = leAt x.data 0 8 then leAt x.data 8 8 else old) ∧
      (∀ p, (p < x.pa ∨ x.pa + 8 ≤ p) → memRead u.mem.bytes p = memRead b.mem.bytes p) ∧
      (⟨x.issue + (loadTimes x.cls).1 - 1, true, .back x.line old⟩ : Work) ∈ (coreAt u core).work)
  ) ∧
  (
  ∀ (core : Nat) (s : State) (x y : Xfer),
    let k := (2 * x.lastTick + 1) * 1024 + core
    let b := toTick (runWork k (lookupsTo x.lastTick s.blk)) x.lastTick
    let u := runWork (k + 1) b
    let tier := if y.cls = 0 ∨ y.cls = 2 then tierGallery else if y.cls = 1 ∨ y.cls = 3 then tierStack else tierFar
    let e := lookupsTo (nextBundle s.blk) s.blk
    alive s.blk = true → ticking s.blk = true → s.blk.tb.boundaryDone = true → nextEnd (coreAt e core) = some x →
    endDue e core x = true → x.lastTick ≤ 124999 → xferAt b core x.id = some y → y.fault = none →
    ((y.kind = .store ∨ (y.kind = .load ∧ y.dst ≠ .dummy ∧ ∃ bs line, y.seen = some ⟨bs, true, line⟩)) →
      ∃ t, exec (.transferComplete core ⟨.clean, []⟩) s = .next t ∧ t.pending = s.pending ∧
        coreAt t.blk core = { coreAt u core with inflight := (coreAt u core).inflight.filter (fun z => z.id != y.id) } ∧
        (∀ i, i ≠ core → coreAt t.blk i = coreAt u i) ∧ t.blk.mem.bytes = u.mem.bytes ∧
        (∀ z, ctxAt u y.payer.toNat = some z →
          ctxAt t.blk y.payer.toNat = some { z with counters := chargeTier z.counters tier 4096 }) ∧
        (∀ g, g ≠ y.payer.toNat → ctxAt t.blk g = ctxAt u g) ∧ t.blk.recov = u.recov) ∧
    (y.kind = .load → y.dst ≠ .dummy → (∃ bs line, y.seen = some ⟨bs, false, line⟩) →
      ∃ t, exec (.transferComplete core ⟨.clean, []⟩) s = .next t ∧ t.pending = s.pending ∧ t.blk.recov.faultTick ≠ none)
  )

/-- SCRUB of a core that this changeover window scrubs zeroes its scratchpad, its accumulators and their states and its spare half of
bundle memory; an engine position's also sends its unit the port's scrub command. Any other core, and any other tick, is left alone. The
far transfers of a save or fill are counted against their partition's share; the tiles of any other are charged to their tier at once.
STATE_SAVE writes the live tiles of one core of a save run to the context's spill area, or fills one core of a fill run from it, once;
nothing but those tiles, or that core, and what the move counts changes. A far transfer beyond the share, or a tile that fails its
check, is a block fault. A save trick writes the spill header and the live tiles of every core of its unit that STATE_SAVE has not
moved, and leaves the unit free, the step spilled. A fill trick gives the cores their live tiles and their buffer states back, and the
step its semaphores. A far transfer beyond the share, and a tile that fails its check, with what the arrays report of its read, is a
block fault. -/
def Obligations.ScrubsSavesAndFills : Prop :=
  (
  ∀ (core : Nat) (s : State), alive s.blk = true → ticking s.blk = true → s.blk.tb.boundaryDone = true → coreExists s.blk core = true →
    let b := s.blk
    let c := { coreAt b core with spad := [], acc := [], bufs := [], lineTags := [], spare := none }
    let due := b.tb.round ≠ 9999 ∧ b.tb.tick ≤ 1023 ∧ core / 4 ∈ b.cal.scrubbing
    (¬due → exec (.scrub core) s = .next s) ∧
    (due → core < 768 → ∃ t, exec (.scrub core) s = .next t ∧ t.pending = s.pending ∧ OnlyCore b t core c) ∧
    (due → 768 ≤ core →
      ∃ t u, exec (.scrub core) s = .next t ∧ t.pending = s.pending ∧ u ≤ core ∧
        OnlyCore { b with out := b.out ++ [.engineScrub u] } t core c)
  ) ∧
  (
  ∀ (b : Block) (s : Step) (parts : List (Nat × List Nat)) (c : Ctx), ctxAt b s.tag.toNat = some c →
    let r := spillMoves b s parts
    (spillTier b s ≠ tierFar → r.2 = none ∧ r.1 = { b with ctxs := r.1.ctxs } ∧
      ctxAt r.1 s.tag.toNat = some { c with
        counters := chargeTier c.counters (spillTier b s) (4096 * (parts.flatMap (fun p => p.2)).length) }) ∧
    (spillTier b s = tierFar → r.1 = { b with ctxs := r.1.ctxs, freeCtr := b.freeCtr + 1, mem := { b.mem with farUsed := r.1.mem.farUsed } } ∧
      ∃ n, n ≤ (parts.flatMap (fun p => p.2)).length ∧
        ctxAt r.1 s.tag.toNat = some { c with counters := chargeTier c.counters tierFar (4096 * n) })
  ) ∧
  (
  ∀ (core : Nat) (s : State) (u : UnitRun) (st : Step) (pl : Plan) (c : Ctx),
    let b := s.blk
    let spill := c.spill.toNat
    let j := core - u.base
    let tiles := spillTilesOf pl.image u.trick j
    let parts := [(core, tiles.map (fun i => spill + spillOff j i))]
    let w := spillMoves (toTick b 2048) st parts
    let l := tiles.map (fun i => (spill + spillOff j i, spillTileBytes (coreAt b core) i))
    let after := fun (d : Dealer) => { d with running := d.running.map (fun r => if r = u then { r with moved := r.moved ++ [core] } else r) }
    runAt b core = some u → coreStep b core = some st → stepPlan b st = some pl → ctxAt b st.tag.toNat = some c →
    firmwareActs b = true → spill % 4096 = 0 →
    (core ∈ u.moved → exec (.stateSave core) s = .next s) ∧
    (core ∉ u.moved → u.kind = .save → st.holdsState = true →
      (∀ e, w.2 = some e → ∃ t, exec (.stateSave core) s = .next t ∧ t.blk.recov.faultTick ≠ none) ∧
      (w.2 = none → Apart b st.fn l →
        ∃ t, exec (.stateSave core) s = .next t ∧ t.pending = s.pending ∧ Written w.1 t.blk st.fn l ∧
          t.blk = { w.1 with mem := t.blk.mem, dealer := after w.1.dealer })) ∧
    (core ∉ u.moved → u.kind = .fill → st.needsFill = true →
      (∀ f, fillRead (toTick b 2048) st [] parts = .error f →
        exec (.stateSave core) s = .next { s with blk := f } ∧ f.recov.faultTick ≠ none) ∧
      (∀ r, fillRead (toTick b 2048) st [] parts = .ok r →
        ∃ t, exec (.stateSave core) s = .next t ∧ t.pending = s.pending ∧ Refilled r t.blk st u pl.image spill j ∧
          (∀ x, x ≠ core → coreAt t.blk x = coreAt r x) ∧
          t.blk = { r with cores := t.blk.cores, dealer := after r.dealer }))
  ) ∧
  (
  ∀ (id : Nat) (s : State) (st : Step) (u : UnitRun) (pl : Plan) (c : Ctx),
    let spill := c.spill.toNat
    let m := pl.image
    (let b := s.blk
      let parts := spillParts u m spill
      let w := spillMoves (toTick b 2048) st parts
      stepById b id = some st → stepPlan b st = some pl → ctxAt b st.tag.toNat = some c → firmwareActs b = true → spill % 4096 = 0 →
      runOf b id .save = some u → st.holdsState = true →
      (∀ e, w.2 = some e → ∃ t, exec (.saveTrick id) s = .next t ∧ t.blk.recov.faultTick ≠ none) ∧
      (w.2 = none → Apart b st.fn (saved b st u m spill) →
        ∃ t, exec (.saveTrick id) s = .next t ∧ t.pending = s.pending ∧ Written w.1 t.blk st.fn (saved b st u m spill) ∧
          stepById t.blk id = some { st with holdsState := false, spilled := true, needsFill := true, unit := none } ∧
          (∀ x, x ≠ id → stepById t.blk x = stepById b x) ∧
          t.blk = { w.1 with mem := t.blk.mem, dealer := { w.1.dealer with steps := t.blk.dealer.steps } })) ∧
    (∀ errs : List (Nat × ReadErr), let b := s.blk
      let x := fillRead (toTick b 2048) st errs (spillParts u m spill)
      stepById b id = some st → stepPlan b st = some pl → ctxAt b st.tag.toNat = some c → firmwareActs b = true → spill % 4096 = 0 →
      runOf b id .fill = some u → st.needsFill = true →
      (∀ f, x = .error f → exec (.fillTrick id errs) s = .next { s with blk := f } ∧ f.recov.faultTick ≠ none) ∧
      (∀ r, x = .ok r →
        ∃ t, exec (.fillTrick id errs) s = .next t ∧ t.pending = s.pending ∧
          (∀ j, j < 4 ^ u.order → Refilled r t.blk st u m spill j) ∧
          (∀ i, (i < u.base ∨ u.base + 4 ^ u.order ≤ i) → coreAt t.blk i = coreAt r i) ∧
          stepById t.blk id = some { st with
            needsFill := false, spilled := false, holdsState := true, unit := some u.base
            sems := (List.range 16).map (fun i => leAt (ipaTile r st.fn spill) (0x40 + 2 * i) 2) } ∧
          t.blk = { r with cores := t.blk.cores, dealer := { r.dealer with steps := t.blk.dealer.steps } }))
  )

/-- COMMIT of a step whose last trick has ended advances every real seat: its position, its KV length and its commits count on, its
sequence is OPEN again, with what SEQ_UPDATE set for its next deal; an optimiser step's adapter slot changes halves and its held deal is
released; the step waits for its record, with the number of its real seats. The recovery round scrubs every core, outside a trim round
and once, ends every step that was lost, with ST_STEP_LOST, and is done. In the last tick before the drain window ends a credit that is
not home is a block fault, unless the round has one; then every credit is home. -/
def Obligations.CommitsAndRecovery : Prop :=
  (
  ∀ (id : Nat) (s : State) (st : Step) (d : Deal) (c : Ctx),
    let b := s.blk
    alive b = true → ticking b = true → b.tb.boundaryDone = true → b.tb.tick ≤ 2047 → b.recov.faultTick = none →
    stepById b id = some st → st.deal = some d → st.stage = .ended → st.lost = false → st.aborted = false →
    (st.phase = 0 ∨ st.phase = 3) → ctxAt b st.tag.toNat = some c →
    ((d.seats.filter (fun x => x.valid)).map (fun x => x.sequence.toNat % 2 ^ 14)).Nodup → (∃ k ∈ b.dealer.cmds, k.id = st.cmd) →
    ∃ t u, exec (.commit id) s = .next t ∧ t.pending = s.pending ∧ t.blk = settle u ∧
      (∀ x ∈ d.seats, ∀ y, x.valid = true → ctxAt b x.tag.toNat = some y → y.state = .live →
        let q := seqAt b (x.sequence.toNat % 2 ^ 14)
        q.gen.toNat = x.sequence.toNat / 2 ^ 14 → (q.state = .dealt ∨ q.state = .held) →
        seqAt u (x.sequence.toNat % 2 ^ 14) = { q with
          state := .isOpen, commits := q.commits + 1, served := BitVec.ofNat 46 (b.tb.epoch.toNat * 2 ^ 14 + b.tb.round)
          later := none
          f := nextFields { q with f := { q.f with
            position := q.f.position + q.f.advance.setWidth 32, kvLength := q.f.kvLength + q.f.advance.setWidth 32
            budget := if q.f.budget = 0xFFFFFFFF then q.f.budget else q.f.budget - 1 } } }) ∧
      stepById u id = some { st with stage := .finished } ∧
      Ended u st.cmd stOk (BitVec.ofNat 32 (realSeats d +
        if st.phase = 3 ∧ (adapterAt b (dealSlot d)).half = false then 65536 else 0)) ∧
      (st.phase = 3 → (adapterAt u (dealSlot d)).half = !(adapterAt b (dealSlot d)).half) ∧
      ctxAt u st.tag.toNat = some { c with
        held := if st.phase = 3 then none else c.held
        counters := { c.counters with committed := c.counters.committed + 1 } } ∧
      u.cores = b.cores ∧ u.mem.bytes = b.mem.bytes ∧ u.parts = b.parts ∧ u.boot = b.boot
  ) ∧
  (
  ∀ (bad : List Nat) (s : State), alive s.blk = true →
    let b := s.blk
    (b.recov.recovering = true → b.recov.ended = false →
      (b.dealer.steps.map (fun x => x.cmd)).Nodup → (∀ x ∈ b.dealer.steps, x.lost = true → x.stage = .admitted ∨ x.stage = .ended ∨ x.stage = .finished) →
      ∃ t u, exec (.recoveryRound bad) s = .next t ∧ t.pending = s.pending ∧ t.blk = settle u ∧
        u.recov.ended = true ∧ u.recov.repairs = [] ∧
        (∀ x ∈ u.dealer.steps, (x ∈ b.dealer.steps ∧ (x.lost = true → x.stage = .finished)) ∨
          ∃ y ∈ b.dealer.steps, y.lost = true ∧ x = { y with stage := .finished }) ∧
        (∀ x ∈ b.dealer.steps, x.lost = true → x.stage ≠ .finished → (∃ k ∈ b.dealer.cmds, k.id = x.cmd) → Ended u x.cmd stStepLost 0) ∧
        (b.tb.round ≠ 9999 → b.recov.scrubbed = false → u.recov.scrubbed = true ∧ ∀ i, coreAt u i = { coreAt b i with
          spad := [], acc := [], bufs := [], lineTags := [], spare := none, active := none, inflight := [], jobs := [], work := []
          seq := Sequencer.idle }) ∧
        ((b.tb.round = 9999 ∨ b.recov.scrubbed = true) → u.cores = b.cores) ∧ u.tb = b.tb) ∧
    (b.recov.recovering = false → exec (.recoveryRound bad) s = .next s) ∧
    (ticking b = true → b.tb.boundaryDone = true → b.tb.round ≠ 9999 →
      let e := toTick (workTo 125000 b) 124999
      ∃ t, exec (.drainCreditCheck) s = .next t ∧ t.pending = s.pending ∧
        (∀ i, coreAt t.blk i = { coreAt e i with inflight := [] }) ∧ t.blk.tb = e.tb ∧
        ((∀ r ∈ e.dealer.running, ∀ i ∈ unitCores r.base r.order, (coreAt e i).inflight = []) → t.blk = { e with cores := t.blk.cores }) ∧
        ((∃ r ∈ e.dealer.running, ∃ i ∈ unitCores r.base r.order, (coreAt e i).inflight ≠ []) → t.blk.recov.faultTick ≠ none) ∧
        (e.recov.faultTick ≠ none → t.blk = { e with cores := t.blk.cores }))
  )

/-! ## Invalidations and faults -/

/-- The zeroing of an unmapped object ends: every byte its extents reach in device memory is zero, no other byte changes, its entry is
gone and its MEM_FREE completes. The areas a partition has freed are zeroed in the same way and become free. A request at the
invalidation port is answered with result 1 where it is refused, and otherwise received, with its scope, its abort flag and its time;
with no room the port takes none. An invalidation that is due completes in the last tick of the round: it leaves, no buffer of either
level keeps an entry of its scope, and what waited for it follows: a port request its answer, an unmap its record, an entry write its
entry, a freed object its zeroing, a context or a partition its end. -/
def Obligations.ZeroingAndInvalidations : Prop :=
  (
  ∀ (vf : Nat) (s : State) (p : Part), alive s.blk = true → partAt s.blk vf = some p →
    let b := s.blk
    let store := (areaRange (areaOf p.desc 3)).ipa
    (∀ (index : BitVec 16) (o : Obj), tabGet p.objects index.toNat = some o →
      (o.state ≠ .zeroing → exec (.objectZeroDone vf index) s = .next s) ∧
      (o.state = .zeroing → o.tier ≠ tierHost →
        ∃ t, exec (.objectZeroDone vf index) s = .next t ∧ t.pending = s.pending ∧
          (∀ e ∈ o.extents, ∀ a, Reached p ⟨e.ipa, e.len⟩ a → memRead t.blk.mem.bytes a = 0) ∧
          (∀ a, (∀ e ∈ o.extents, ¬ Reached p ⟨e.ipa, e.len⟩ a) → memRead t.blk.mem.bytes a = memRead b.mem.bytes a) ∧
          partAt t.blk vf = some { p with objects := tabDel p.objects index.toNat } ∧
          (∀ c ∈ b.dealer.cmds, c.stage = .memFree vf index.toNat → Ended t.blk c.id stOk 0) ∧
          t.blk.mem.host = b.mem.host ∧
          t.blk = { b with
            mem := t.blk.mem, parts := t.blk.parts, dealer := { b.dealer with cmds := t.blk.dealer.cmds } })) ∧
    (∃ t, exec (.areaZeroingEnd vf) s = .next t ∧ t.pending = s.pending ∧ partAt t.blk vf = some { p with zeroing := [] } ∧
      (∀ r ∈ p.zeroing, r.ipa ≠ store → ∀ a, Reached p r a → memRead t.blk.mem.bytes a = 0) ∧
      (∀ a, (∀ r ∈ p.zeroing, r.ipa ≠ store → ¬ Reached p r a) → memRead t.blk.mem.bytes a = memRead b.mem.bytes a) ∧
      t.blk.mem.host = b.mem.host ∧ t.blk = { b with mem := t.blk.mem, parts := t.blk.parts })
  ) ∧
  (
  ∀ (s : State),
    let b := s.blk
    (∀ d : BitVec 128, let r := portReq d
      (portReady b = false → exec (.invalidationRequest d) s = .next s) ∧
      (portReady b = true → portRefuses b r = true →
        exec (.invalidationRequest d) s = .next { s with blk := { b with out := b.out ++ [.invResponse r.id 1] } }) ∧
      (portReady b = true → portRefuses b r = false →
        ∃ t u v, exec (.invalidationRequest d) s = .next t ∧ t.pending = s.pending ∧ t.blk = settle u ∧
          u.xlat.invals = b.xlat.invals ++ [v] ∧ v.id = b.xlat.nextInv ∧ u.xlat.nextInv = b.xlat.nextInv + 1 ∧
          v.source = .port r.id ∧ v.scope = portScope r ∧ v.abort = r.abort ∧ v.receipt = now b ∧ u.tb = b.tb ∧
          u.mem = b.mem ∧ u.cores = b.cores ∧ u.parts = b.parts)) ∧
    (∀ (id : Nat) (v : Inval), b.xlat.invals.find? (fun y => y.id == id) = some v → alive b = true → ticking b = true →
      b.tb.boundaryDone = true → invalDue b v = true → portFirst b v = true →
      ∃ t u, exec (.invalidationComplete id) s = .next t ∧ t.pending = s.pending ∧ t.blk = settle (retryWaiting u) ∧
        (∀ y ∈ u.xlat.invals, y.id ≠ id) ∧
        ((∀ tag, v.source ≠ .ctxDestroy tag) → u.tb = { b.tb with tick := max b.tb.tick (lastTick b.tb) }) ∧
        (∀ i, ∀ e ∈ (coreAt u i).l1, pinInScope b v.scope (ctxVf b e.tag.toNat)
          ⟨0, e.tag, e.vpn * pageBytes e.pageLog, e.pageLog, e.count, e.out, false⟩ = false) ∧
        (∀ e ∈ u.xlat.l2, pinInScope b v.scope e.vf e.req = false) ∧
        (∀ i, coreAt u i = { coreAt b i with l1 := (coreAt u i).l1 }) ∧
        (∀ q, v.source = .port q → u.out = b.out ++ [.invResponse q 0] ∧ u.parts = b.parts ∧
          u.dealer = { b.dealer with steps := u.dealer.steps } ∧
          u.dealer.steps.map (fun x => { x with pins := [] }) = b.dealer.steps.map (fun x => { x with pins := [] })) ∧
        (∀ cmd, v.source = .unmap cmd → ∀ c ∈ b.dealer.cmds, c.id = cmd → c.stage = .invalidation id → Ended u cmd stOk 0) ∧
        (∀ f i e q, v.source = .stage2 → b.xlat.pendingWrite = some (f, i, e) → partAt b f = some q →
          partAt u f = some { q with stage2 := tabSetD q.stage2 i e s2None } ∧ u.xlat.busy = false ∧ u.xlat.result = 0 ∧
          u.xlat.pendingWrite = none) ∧
        (∀ f i o q, v.source = .objectFree f i → partAt b f = some q → tabGet q.objects i = some o → o.state = .unmapping id →
          o.tier ≠ tierHost →
          partAt u f = some { q with objects := tabMod q.objects i (fun z => { z with state := .zeroing }) }) ∧
        (∀ tag, v.source = .ctxDestroy tag → (∃ c ∈ b.dealer.cmds, c.stage = .ctxDestroy tag (some id)) →
          ctxAt u tag.toNat = none ∧ ∀ c ∈ b.dealer.cmds, c.stage = .ctxDestroy tag (some id) → Ended u c.id stOk 0) ∧
        (∀ f q cmd cleared, v.source = .partDestroy f → partAt b f = some q → q.ending = some (.destroy cmd cleared) →
          (∃ c ∈ b.dealer.cmds, c.id = cmd) → (∀ c ∈ b.dealer.cmds, c.id = cmd → c.q.fn ≠ f ∧ c.stage = .destroying) →
          partAt u f = none ∧ fnAt u f = Fn.reset ∧ Ended u cmd stOk 0))
  )

/-- FATAL_FAULT halts the block: every function that is not ABSENT is HALTED with its state-change cause set and its vector 0 sent, and
nothing of partitions, contexts and the Dealer changes; with a host port that does not work no record is written. A fault pulse of an
attached engine's unit is a block fault of no context, a stopped time base or not: it is counted, the steps whose admission was complete
before its tick are lost, nothing is placed for the next round, and no context changes. A host-port error acts by the access it met: a
live context's fence page makes the context LOST with ST_TRANSLATION_FAULT; a Lantern dump stops with result 3; a mailbox's read sets
access_error and ends its message, and a write of its reply is noted to fail; a record of the accounting ring counts as dropped; an
admin ring's fetch stops; a PART_SAVE whose image cannot be written ends. -/
def Obligations.FaultsFromOutside : Prop :=
  (
  ∀ (reason : FatalReason) (portWorks : Bool) (s : State), alive s.blk = true →
    let b := s.blk
    ∃ t, exec (.fatalFault ⟨reason, portWorks⟩) s = .next t ∧ t.pending = s.pending ∧ t.blk.recov.halted = true ∧
      (∀ f, (fnAt b f).state ≠ .absent → (fnAt t.blk f).state = .halted ∧ (fnAt t.blk f).intCause.getLsbD 6 = true ∧
        .msix f 0 ∈ t.blk.out) ∧ (portWorks = false → t.blk.mem = b.mem ∧ t.blk.acct = b.acct) ∧
      t.blk.boot = (if reason = .grottoFirmware ∧ b.boot.stage ≠ 8 then { b.boot with error := 7, part := 0 } else b.boot) ∧
      t.blk.ctxs = b.ctxs ∧ t.blk.parts = b.parts ∧ t.blk.dealer = b.dealer ∧ t.blk.cores = b.cores ∧ t.blk.tb = b.tb ∧
      t.blk.mem.bytes = b.mem.bytes
  ) ∧
  (
  ∀ (unit : Nat) (s : State), alive s.blk = true → s.blk.tb.boundaryDone = true →
    let b := s.blk
    (engineUnit b unit = none → exec (.engineFault unit) s = .next s) ∧
    (∀ e, engineUnit b unit = some e → ∃ t, exec (.engineFault unit) s = .next t ∧ t.pending = s.pending ∧
      t.blk.recov.faultTick = some (b.recov.faultTick.getD b.tb.tick) ∧ t.blk.dealer.loaded = [] ∧
      t.blk.dealer.steps = b.dealer.steps.map (fun x => if faultLoses b x then { x with lost := true } else x) ∧
      t.blk.acct.faultBlock.toNat = min 0xFFFFFFFF (b.acct.faultBlock.toNat + 1) ∧ t.blk.ctxs = b.ctxs ∧ t.blk.parts = b.parts ∧
      t.blk.cores = b.cores ∧ t.blk.tb = b.tb)
  ) ∧
  (
  ∀ s : State, alive s.blk = true →
    let b := s.blk
    (∀ (tag : BitVec 16) (a k : BitVec 64) (w : Bool) (c : Ctx), ctxAt b tag.toNat = some c → c.state = .live →
      ∃ t u, exec (.hostPortError (.fencePage tag a k w)) s = .next t ∧ t.pending = s.pending ∧ t.blk = settle u ∧
        (∃ c', ctxAt u tag.toNat = some c' ∧ c'.state = .lost ∧ c'.lostStatus = stTranslationFault ∧ c'.lostAt = now b) ∧
        u.cores = b.cores ∧ u.parts = b.parts ∧ u.mem.bytes = b.mem.bytes) ∧
    (b.lantern.dumping = true → ∃ t, exec (.hostPortError .lanternDump) s = .next t ∧ t.pending = s.pending ∧
      t.blk = { b with
        lantern := { b.lantern with dumping := false, result := 3 }, mem := { b.mem with host := t.blk.mem.host }
        freeCtr := t.blk.freeCtr, out := t.blk.out }) ∧
    (∀ (fn : Nat) (m : MboxSel) (x : Taken), (mboxAt b fn m).taken = some x →
      ∃ t, exec (.hostPortError (.mailbox fn m)) s = .next t ∧ t.pending = s.pending ∧ (mboxAt t.blk fn m).accessError = true ∧
        (mboxAt t.blk fn m).taken = none ∧ (mboxAt t.blk fn m).full = false ∧
        t.blk = { b with fns := t.blk.fns, out := t.blk.out } ∧
        ∀ w, exec (.hostPortError (.mailboxReply fn m w)) s =
          .next { s with blk := modMbox b fn m (fun z => { z with replyLost := some w }) }) ∧
    (b.acct.ring.enable = true → b.acct.ring.tail ≠ b.acct.ring.head → b.acct.ring.size.toNat ≤ 16 →
      ∃ t, exec (.hostPortError .acctRing) s = .next t ∧ t.pending = s.pending ∧ t.blk.acct.ring.overflow = true ∧
        (t.blk.acct.ring.tail.toNat + 1) % ringEntries b.acct.ring = b.acct.ring.tail.toNat % ringEntries b.acct.ring ∧
        t.blk = { b with
          acct := { b.acct with ring := t.blk.acct.ring }, mem := { b.mem with host := t.blk.mem.host }, freeCtr := t.blk.freeCtr }) ∧
    (∀ (vf a d : Nat) (left : List Byte) (k : Cmd), k ∈ b.dealer.cmds → k.stage = .saving vf a left d →
      (∀ z ∈ b.dealer.cmds, ∀ y c e, z.stage = .saving vf y c e → z.id = k.id) →
      ∃ t u, exec (.hostPortError (.saveImage vf)) s = .next t ∧ t.pending = s.pending ∧ t.blk = settle u ∧
        Ended u k.id stTranslationFault 0 ∧ u.fns = b.fns ∧ u.mem.bytes = b.mem.bytes) ∧
    (∀ fn, canFetch b ⟨fn, 0, 0⟩ = true →
      ∃ t, exec (.hostPortError (.adminSq fn)) s = .next t ∧ t.pending = s.pending ∧ (fnAt t.blk fn).aqHostError = true ∧
        (fnAt t.blk fn).state = .stopping ∧ (fnAt t.blk fn).enable = false ∧ t.blk.dealer = b.dealer)
  )

/-! ## Invariants -/

/-- After reset every register holds the value the spec gives it: the time base STOPPED, bring-up in stage 0 without an error, every
function ABSENT, every calendar entry unowned, the AC_ rings disabled with their sizes, no partition, no context, no sequence, no
command. The invariants hold right after reset. -/
def Obligations.ResetValues : Prop :=
  (
  let b := State.reset.blk
  State.reset.pending = [] ∧ b.tb.pps = .stopped ∧ b.tb.lastTrim = 0 ∧ b.tb.ppsPin = true ∧ b.tb.earlySeen = false ∧
  b.tb.lateSeen = false ∧ b.boot.stage = 0 ∧ b.boot.error = 0 ∧ b.boot.part = 0 ∧ (∀ f, fnAt b f = Fn.reset) ∧
  (∀ n q, ownerIn b.cal.active n q = 0 ∧ ownerIn b.cal.staged n q = 0) ∧ b.acct.fault.enable = false ∧ b.acct.fault.size = 4 ∧
  b.acct.ring.enable = false ∧ b.acct.ring.size = 0xE ∧ b.acct.faultBlock = 0 ∧ (∀ v, partAt b v = none) ∧ (∀ g, ctxAt b g = none) ∧
  (∀ i, (seqAt b i).state = .free) ∧ b.dealer.cmds = [] ∧ b.dealer.steps = [] ∧ b.grotto.grant = false ∧ b.recov.halted = false ∧
  b.lantern.enable = false ∧ b.xlat.busy = false ∧ Safety.memoriesWf b
  ) ∧
  (
  BootOrder State.reset.blk.boot ∧ HeldInReset State.reset.blk ∧ Safety.memoriesWf State.reset.blk
  )

/-- Every step keeps the order of bring-up: no command, and no tick, gives a product of a later stage or takes one away. -/
def Obligations.BootOrderKept : Prop :=
  ∀ s t : State, BootOrder s.blk.boot → step s = .next t → BootOrder t.blk.boot

/-- Every step keeps a block that is held in reset at its reset values, whatever command comes: only the release of BLK_RESET_N brings
it out, and its assertion brings any block in. -/
def Obligations.ResetHoldsTheBlock : Prop :=
  ∀ s t : State, (s.blk.boot.released = false → HeldInReset s.blk) → step s = .next t →
    t.blk.boot.released = false → HeldInReset t.blk

/-- Every step keeps the memories in canonical form: device memory, host memory and every scratchpad. -/
def Obligations.MemoriesStayCanonical : Prop :=
  ∀ s t : State, Safety.memoriesWf s.blk → step s = .next t → Safety.memoriesWf t.blk
end

