-- ==== Sys2Proof/Laws/Boot.lean ====
section
/-!
SUPPORT. The functions that leave bring-up alone: of everything a command calls, only the requests of GR_RCV, resets, a fatal fault and
the start of epoch 0 write the boot state.
-/

namespace Sys2Proof.Machine

open Sys2Proof

theorem foldl_boot {α : Type} (f : Block → α → Block) (b0 : Block) (h : ∀ c x, (f c x).boot = c.boot) :
    ∀ (l : List α) (b : Block), b.boot = b0.boot → (l.foldl f b).boot = b0.boot := by
  intro l
  induction l with
  | nil => intro b hb; exact hb
  | cons x xs ih => intro b hb; exact ih (f b x) ((h b x).trans hb)

@[simp] theorem toTick_boot (b : Block) (t : Nat) :
    (toTick b t).boot = b.boot := by simp [toTick]

@[simp] theorem setFn_boot (b : Block) (f : Nat) (x : Fn) :
    (setFn b f x).boot = b.boot := by simp [setFn]

@[simp] theorem modFn_boot (b : Block) (f : Nat) (g : Fn → Fn) :
    (modFn b f g).boot = b.boot := by simp [modFn]

@[simp] theorem setCtx_boot (b : Block) (tag : Nat) (c : Ctx) :
    (setCtx b tag c).boot = b.boot := by simp [setCtx]

@[simp] theorem modCtx_boot (b : Block) (tag : Nat) (g : Ctx → Ctx) :
    (modCtx b tag g).boot = b.boot := by simp [modCtx]

@[simp] theorem modPart_boot (b : Block) (vf : Nat) (g : Part → Part) :
    (modPart b vf g).boot = b.boot := by simp [modPart]

@[simp] theorem setCore_boot (b : Block) (i : Nat) (c : Core) :
    (setCore b i c).boot = b.boot := by simp [setCore]

@[simp] theorem modCore_boot (b : Block) (i : Nat) (g : Core → Core) :
    (modCore b i g).boot = b.boot := by simp [modCore]

@[simp] theorem modDealer_boot (b : Block) (g : Dealer → Dealer) :
    (modDealer b g).boot = b.boot := by simp [modDealer]

@[simp] theorem modMem_boot (b : Block) (g : Mem → Mem) :
    (modMem b g).boot = b.boot := by simp [modMem]

@[simp] theorem offer_boot (b : Block) (m : PortOut) :
    (offer b m).boot = b.boot := by simp [offer]

@[simp] theorem msix_boot (b : Block) (fn : Nat) (vector : Nat) :
    (msix b fn vector).boot = b.boot := by unfold msix; split <;> simp

@[simp] theorem setCause_boot (b : Block) (fn : Nat) (bitNo : Nat) :
    (setCause b fn bitNo).boot = b.boot := by
  unfold setCause; repeat' first | rfl | split | refine foldl_boot _ _ ?_ _ _ ?_ | intro _ | simp

@[simp] theorem setFnState_boot (b : Block) (fn : Nat) (st : FnState) :
    (setFnState b fn st).boot = b.boot := by unfold setFnState; split <;> simp

@[simp] theorem nextFree_boot (b : Block) :
    (nextFree b).boot = b.boot := by simp [nextFree]

@[simp] theorem cachePut_boot (b : Block) (pa : Nat) (failing : Bool) :
    (cachePut b pa failing).boot = b.boot := by unfold cachePut; split <;> simp

@[simp] theorem cacheFill_boot (b : Block) (pa : Nat) :
    (cacheFill b pa).boot = b.boot := by unfold cacheFill; split <;> simp

@[simp] theorem cacheWrite_boot (b : Block) (pa : Nat) :
    (cacheWrite b pa).boot = b.boot := by simp [cacheWrite]

@[simp] theorem writeTileErr_boot (b : Block) (pa : Nat) (compress : Bool) (t : List Byte) (err : BitVec 32) :
    (writeTileErr b pa compress t err).boot = b.boot := by simp [writeTileErr]

@[simp] theorem writeTile_boot (b : Block) (pa : Nat) (compress : Bool) (t : List Byte) :
    (writeTile b pa compress t).boot = b.boot := by simp [writeTile]

@[simp] theorem zeroPhys_boot (b : Block) (pa : Nat) (n : Nat) :
    (zeroPhys b pa n).boot = b.boot := by simp [zeroPhys]

@[simp] theorem writePart_boot (b : Block) (pa : Nat) (bs : List Byte) :
    (writePart b pa bs).boot = b.boot := by simp [writePart]

@[simp] theorem writePhys_boot (b : Block) (pa : Nat) (bs : List Byte) :
    (writePhys b pa bs).boot = b.boot := by
  unfold writePhys; repeat' first | rfl | split | refine foldl_boot _ _ ?_ _ _ ?_ | intro _ | simp

@[simp] theorem countEcc_boot (b : Block) (pa : Nat) (corrected : Nat) (uncorrectable : Nat) :
    (countEcc b pa corrected uncorrectable).boot = b.boot := by unfold countEcc; split <;> simp

@[simp] theorem loseEntry_boot (b : Block) (pa : Nat) :
    (loseEntry b pa).boot = b.boot := by unfold loseEntry; split <;> simp

@[simp] theorem noteArray_boot (b : Block) (pa : Nat) (c : Nat) (u : Nat) :
    (noteArray b pa c u).boot = b.boot := by
  unfold noteArray; repeat' first | rfl | split | refine foldl_boot _ _ ?_ _ _ ?_ | intro _ | simp

@[simp] theorem noteLine_boot (b : Block) (key : Nat) (l : CacheLine) (c : Nat) (u : Nat) :
    (noteLine b key l c u).boot = b.boot := by unfold noteLine; (repeat' split) <;> simp

@[simp] theorem noteServed_boot (b : Block) (pa : Nat) (line : Option Nat) (err : ReadErr) :
    (noteServed b pa line err).boot = b.boot := by
  unfold noteServed; repeat' first | rfl | split | refine foldl_boot _ _ ?_ _ _ ?_ | intro _ | simp

@[simp] theorem noteRead_boot (b : Block) (pa : Nat) (err : ReadErr) :
    (noteRead b pa err).boot = b.boot := by unfold noteRead; (repeat' split) <;> simp

@[simp] theorem hostRequest_boot (kind : HostReqKind) (k : Nat) (n : Nat) (payload : List Byte) (b : Block) :
    (hostRequest kind k n payload b).boot = b.boot := by simp [hostRequest]

@[simp] theorem hostAsk_boot (k : Nat) (n : Nat) (b : Block) :
    (hostAsk k n b).boot = b.boot := by simp [hostAsk]

@[simp] theorem hostSwap_boot (b : Block) (k : Nat) (old : Nat) (new : Nat) :
    (hostSwap b k old new).boot = b.boot := by simp [hostSwap]

@[simp] theorem hostWrite_boot (b : Block) (k : Nat) (bs : List Byte) :
    (hostWrite b k bs).boot = b.boot := by simp [hostWrite]

@[simp] theorem failWrite_boot (k : Nat) (bs : List Byte) (b : Block) :
    (failWrite k bs b).boot = b.boot := by simp [failWrite]

@[simp] theorem blurBytes_boot (k : Nat) (n : Nat) (b : Block) :
    (blurBytes k n b).boot = b.boot := by simp [blurBytes]

@[simp] theorem modLantern_boot (b : Block) (g : Lantern → Lantern) :
    (modLantern b g).boot = b.boot := by simp [modLantern]

@[simp] theorem ltWrite_boot (b : Block) (k : LtTick) :
    (ltWrite b k).boot = b.boot := by
  unfold ltWrite
  generalize (List.range k.recs.length).zip k.recs = l
  induction l generalizing b with
  | nil => rfl
  | cons e l ih => rw [List.foldl_cons]; exact (ih _).trans (writePhys_boot _ _ _)

@[simp] theorem ltEvent_boot (t : Nat) (event : Nat) (core : Nat) (tag : BitVec 16) (detail : List Byte) (b : Block) :
    (ltEvent t event core tag detail b).boot = b.boot := by
  unfold ltEvent; repeat' first | with_reducible rfl | (intros; with_reducible assumption) | (simp [*]; done) | split | with_reducible refine foldl_boot _ _ ?_ _ _ ?_ | intro _ | simp | simp only [*]

@[simp] theorem ltWipe_boot (b : Block) :
    (ltWipe b).boot = b.boot := by unfold ltWipe; split <;> simp

@[simp] theorem ltClear_boot (b : Block) :
    (ltClear b).boot = b.boot := by simp [ltClear]

@[simp] theorem setCmd_boot (b : Block) (id : Nat) (st : CmdStage) :
    (setCmd b id st).boot = b.boot := by simp [setCmd]

@[simp] theorem finish_boot (b : Block) (id : Nat) (st : BitVec 16) (detail : BitVec 32) :
    (finish b id st detail).boot = b.boot := by simp [finish]

@[simp] theorem finishAll_boot (b : Block) (p : Cmd → Bool) (st : BitVec 16) (detail : BitVec 32) :
    (finishAll b p st detail).boot = b.boot := by simp [finishAll]

@[simp] theorem noteLoads_boot (b : Block) (p : Cmd → Bool) :
    (noteLoads b p).boot = b.boot := by simp [noteLoads]

@[simp] theorem eraseKeys_boot (b : Block) :
    (eraseKeys b).boot = b.boot := by simp [eraseKeys]

@[simp] theorem setSeq_boot (b : Block) (i : Nat) (q : Seq) :
    (setSeq b i q).boot = b.boot := by simp [setSeq]

@[simp] theorem seqFree_boot (b : Block) (i : Nat) :
    (seqFree b i).boot = b.boot := by simp [seqFree]

@[simp] theorem seatLeave_boot (b : Block) (s : Seat) :
    (seatLeave b s).boot = b.boot := by
  unfold seatLeave; repeat' first | rfl | split | refine foldl_boot _ _ ?_ _ _ ?_ | intro _ | simp

@[simp] theorem dropDeal_boot (b : Block) (d : Deal) :
    (dropDeal b d).boot = b.boot := by
  unfold dropDeal; repeat' first | rfl | split | refine foldl_boot _ _ ?_ _ _ ?_ | intro _ | simp

@[simp] theorem modStep_boot (b : Block) (id : Nat) (g : Step → Step) :
    (modStep b id g).boot = b.boot := by simp [modStep]

@[simp] theorem releaseHeld_boot (b : Block) (tag : Nat) :
    (releaseHeld b tag).boot = b.boot := by
  unfold releaseHeld; (repeat' split) <;> simp

@[simp] theorem stepGiveBack_boot (b : Block) (s : Step) :
    (stepGiveBack b s).boot = b.boot := by
  unfold stepGiveBack; (repeat' split) <;> simp

@[simp] theorem releasePins_boot (b : Block) (s : Step) :
    (releasePins b s).boot = b.boot := by simp [releasePins]

@[simp] theorem endStep_boot (b : Block) (s : Step) (st : BitVec 16) (detail : BitVec 32) :
    (endStep b s st detail).boot = b.boot := by unfold endStep; split <;> simp

@[simp] theorem dropPendingSteps_boot (b : Block) (tag : Nat) (detail : BitVec 32) :
    (dropPendingSteps b tag detail).boot = b.boot := by
  unfold dropPendingSteps; repeat' first | rfl | split | refine foldl_boot _ _ ?_ _ _ ?_ | intro _ | simp

@[simp] theorem loseCtx_boot (b : Block) (tag : Nat) (st : BitVec 16) :
    (loseCtx b tag st).boot = b.boot := by
  unfold loseCtx; (repeat' split) <;> simp

@[simp] theorem setFaultRing_boot (b : Block) (r : AcRing) :
    (setFaultRing b r).boot = b.boot := by simp [setFaultRing]

@[simp] theorem putFault_boot (b : Block) (i : Nat) (r : FaultRec) :
    (putFault b i r).boot = b.boot := by simp [putFault]

@[simp] theorem putRecent_boot (b : Block) (l : List FaultRec) (first : Nat) (kept : Nat) :
    (putRecent b l first kept).boot = b.boot := by
  unfold putRecent; repeat' first | with_reducible rfl | (intros; with_reducible assumption) | (simp [*]; done) | split | with_reducible refine foldl_boot _ _ ?_ _ _ ?_ | intro _ | simp | simp only [*]

@[simp] theorem faultRecord_boot (b : Block) (r : FaultRec) :
    (faultRecord b r).boot = b.boot := by
  unfold faultRecord; repeat' first | with_reducible rfl | (intros; with_reducible assumption) | (simp [*]; done) | split | with_reducible refine foldl_boot _ _ ?_ _ _ ?_ | intro _ | simp | simp only [*]

@[simp] theorem restoreHeld_boot (b : Block) (s : Step) :
    (restoreHeld b s).boot = b.boot := by simp [restoreHeld]

@[simp] theorem abandonWalk_boot (b : Block) (s : Step) :
    (abandonWalk b s).boot = b.boot := by unfold abandonWalk; split <;> simp

@[simp] theorem abandonWalks_boot (b : Block) (vf : Nat) :
    (abandonWalks b vf).boot = b.boot := by
  unfold abandonWalks; repeat' first | rfl | split | refine foldl_boot _ _ ?_ _ _ ?_ | intro _ | simp

@[simp] theorem countFault_boot (b : Block) (vf : Nat) :
    (countFault b vf).boot = b.boot := by
  unfold countFault; repeat' first | rfl | split | refine foldl_boot _ _ ?_ _ _ ?_ | intro _ | simp

@[simp] theorem blockFault_boot (b0 : Block) (r : FaultRec) :
    (blockFault b0 r).boot = b0.boot := by
  unfold blockFault; repeat' first | with_reducible rfl | (intros; with_reducible assumption) | (simp [*]; done) | split | with_reducible refine foldl_boot _ _ ?_ _ _ ?_ | intro _ | simp | simp only [*]

@[simp] theorem coreFault_boot (b : Block) (core : Nat) (kind : Nat) (reason : Nat) (st : BitVec 16) (tag : Nat) (address : Nat) (command : Nat) (write : Bool) (stage : Nat) :
    (coreFault b core kind reason st tag address command write stage).boot = b.boot := by simp [coreFault]

@[simp] theorem setCq_boot (b : Block) (q : QRef) (i : Nat) (c : Cq) :
    (setCq b q i c).boot = b.boot := by unfold setCq; split <;> simp

@[simp] theorem setSqTail_boot (b : Block) (q : QRef) (t : Nat) :
    (setSqTail b q t).boot = b.boot := by unfold setSqTail; split <;> simp

@[simp] theorem setSqHead_boot (b : Block) (q : QRef) (h : Nat) :
    (setSqHead b q h).boot = b.boot := by unfold setSqHead; split <;> simp

@[simp] theorem takeEntry_boot (b : Block) (q : QRef) :
    (takeEntry b q).boot = b.boot := by
  unfold takeEntry; repeat' first | rfl | split | refine foldl_boot _ _ ?_ _ _ ?_ | intro _ | simp

@[simp] theorem runChecked_boot (q : QRef) (h : Hdr) (op : BitVec 8) (id : Nat) (own : Nat → Block → Block) (b : Block) (h_own : ∀ y0 y1, (own y0 y1).boot = y1.boot) :
    (runChecked q h op id own b).boot = b.boot := by
  unfold runChecked; repeat' first | with_reducible rfl | (intros; with_reducible assumption) | (simp [*]; done) | split | with_reducible refine foldl_boot _ _ ?_ _ _ ?_ | intro _ | simp | simp only [*]

@[simp] theorem runHeld_boot (q : QRef) (h : Hdr) (op : BitVec 8) (fail : Option (BitVec 16 × BitVec 32)) (id : Nat) (own : Nat → Block → Block) (b : Block) (h_own : ∀ y0 y1, (own y0 y1).boot = y1.boot) :
    (runHeld q h op fail id own b).boot = b.boot := by
  unfold runHeld; repeat' first | with_reducible rfl | (intros; with_reducible assumption) | (simp [*]; done) | split | with_reducible refine foldl_boot _ _ ?_ _ _ ?_ | intro _ | simp | simp only [*]

@[simp] theorem reserveCq_boot (b : Block) (q : QRef) (i : Nat) :
    (reserveCq b q i).boot = b.boot := by unfold reserveCq; split <;> simp

@[simp] theorem addCmd_boot (b : Block) (i : Instr) (q : QRef) (h : Hdr) (op : BitVec 8) (st : CmdStage) :
    (addCmd b i q h op st).boot = b.boot := by simp [addCmd]

@[simp] theorem fetchPacket_boot (i : Instr) (q : QRef) (h : Hdr) (op : BitVec 8) (own : Nat → Block → Block) (b : Block) (h_own : ∀ y0 y1, (own y0 y1).boot = y1.boot) :
    (fetchPacket i q h op own b).boot = b.boot := by
  unfold fetchPacket; repeat' first | with_reducible rfl | (intros; with_reducible assumption) | (simp [*]; done) | split | with_reducible refine foldl_boot _ _ ?_ _ _ ?_ | intro _ | simp | simp only [*]

@[simp] theorem cqInterrupt_boot (b : Block) (q : QRef) (i : Nat) (c : Cq) :
    (cqInterrupt b q i c).boot = b.boot := by unfold cqInterrupt; split <;> simp

@[simp] theorem writeRecord_boot (b : Block) (c : Cmd) (st : BitVec 16) (detail : BitVec 32) :
    (writeRecord b c st detail).boot = b.boot := by
  unfold writeRecord; (repeat' split) <;> simp

@[simp] theorem dropCmd_boot (b : Block) (id : Nat) :
    (dropCmd b id).boot = b.boot := by simp [dropCmd]

@[simp] theorem doorbellError_boot (b : Block) (fn : Nat) (reg : Nat) (reason : Nat) (value : BitVec 64) :
    (doorbellError b fn reg reason value).boot = b.boot := by
  unfold doorbellError; repeat' first | with_reducible rfl | (intros; with_reducible assumption) | (simp [*]; done) | split | with_reducible refine foldl_boot _ _ ?_ _ _ ?_ | intro _ | simp | simp only [*]

@[simp] theorem setMappings_boot (b : Block) (tag : Nat) (g : List Mapping → List Mapping) :
    (setMappings b tag g).boot = b.boot := by unfold setMappings; split <;> simp

@[simp] theorem evalWaits_boot (b : Block) (fn : Nat) (a : Nat) :
    (evalWaits b fn a).boot = b.boot := by unfold evalWaits; split <;> simp

@[simp] theorem signalAt_boot (b : Block) (fn : Nat) (a : Nat) (n : Nat) :
    (signalAt b fn a n).1.boot = b.boot := by simp [signalAt]

@[simp] theorem doFenceSignal_boot (q : QRef) (fence : BitVec 16) (value : BitVec 64) (id : Nat) (b : Block) :
    (doFenceSignal q fence value id b).boot = b.boot := by
  unfold doFenceSignal; (repeat' split) <;> simp

@[simp] theorem doFenceWait_boot (q : QRef) (fence : BitVec 16) (value : BitVec 64) (id : Nat) (b : Block) :
    (doFenceWait q fence value id b).boot = b.boot := by
  unfold doFenceWait; (repeat' split) <;> simp

@[simp] theorem fenceDoorbell_boot (fn : Nat) (width : Nat) (v : BitVec 64) (b : Block) :
    (fenceDoorbell fn width v b).boot = b.boot := by
  unfold fenceDoorbell; repeat' first | with_reducible rfl | (intros; with_reducible assumption) | (simp [*]; done) | split | with_reducible refine foldl_boot _ _ ?_ _ _ ?_ | intro _ | simp | simp only [*]

@[simp] theorem abortStep_boot (b : Block) (id : Nat) :
    (abortStep b id).boot = b.boot := by
  unfold abortStep; (repeat' split) <;> simp

@[simp] theorem endAborted_boot (b : Block) :
    (endAborted b).boot = b.boot := by
  unfold endAborted; repeat' first | rfl | split | refine foldl_boot _ _ ?_ _ _ ?_ | intro _ | simp

@[simp] theorem dropSetAside_boot (b : Block) (tag : Nat) :
    (dropSetAside b tag).boot = b.boot := by
  unfold dropSetAside; repeat' first | rfl | split | refine foldl_boot _ _ ?_ _ _ ?_ | intro _ | simp

@[simp] theorem abortHeld_boot (b : Block) (tag : Nat) :
    (abortHeld b tag).boot = b.boot := by
  unfold abortHeld; repeat' first | rfl | split | refine foldl_boot _ _ ?_ _ _ ?_ | intro _ | simp

@[simp] theorem withholdStep_boot (b : Block) (s : Step) :
    (withholdStep b s).boot = b.boot := by simp [withholdStep]

@[simp] theorem startInval_boot (b : Block) (src : InvSource) (sc : Scope) (abort : Bool) :
    (startInval b src sc abort).boot = b.boot := by
  unfold startInval; repeat' first | rfl | split | refine foldl_boot _ _ ?_ _ _ ?_ | intro _ | simp

@[simp] theorem noteEnded_boot (b : Block) (cmd : Nat) :
    (noteEnded b cmd).boot = b.boot := by simp [noteEnded]

@[simp] theorem setAdapter_boot (b : Block) (i : Nat) (a : Adapter) :
    (setAdapter b i a).boot = b.boot := by simp [setAdapter]

@[simp] theorem writeIpa_boot (b : Block) (vf : Nat) (ipa : Nat) (bs : List Byte) :
    (writeIpa b vf ipa bs).boot = b.boot := by
  unfold writeIpa; repeat' first | rfl | split | refine foldl_boot _ _ ?_ _ _ ?_ | intro _ | simp

@[simp] theorem writeDealList_boot (b : Block) (st : Step) (d : Deal) :
    (writeDealList b st d).boot = b.boot := by unfold writeDealList; split <;> simp

@[simp] theorem seatEntries_boot (b : Block) (phase : Nat) (l : List (Nat × Seq)) :
    (seatEntries b phase l).boot = b.boot := by
  unfold seatEntries; repeat' first | rfl | split | refine foldl_boot _ _ ?_ _ _ ?_ | intro _ | simp

@[simp] theorem failWalk_boot (b : Block) (st : Step) (code : BitVec 16) (detail : BitVec 32) :
    (failWalk b st code detail).boot = b.boot := by
  unfold failWalk; (repeat' split) <;> simp

@[simp] theorem failBase_boot (b : Block) (st : Step) :
    (failBase b st).boot = b.boot := by unfold failBase; (repeat' split) <;> simp

@[simp] theorem runWalk_boot (b : Block) (st : Step) (d : Deal) (p : Part) (m : ByteMem) :
    (runWalk b st d p m).boot = b.boot := by
  unfold runWalk; (repeat' split) <;> simp

@[simp] theorem dealStep_boot (b : Block) (st : Step) (p : Part) (m : ByteMem) :
    (dealStep b st p m).boot = b.boot := by
  unfold dealStep; repeat' first | rfl | split | refine foldl_boot _ _ ?_ _ _ ?_ | intro _ | simp

@[simp] theorem laterPhase_boot (b : Block) (st : Step) (h : HeldDeal) (p : Part) (m : ByteMem) :
    (laterPhase b st h p m).boot = b.boot := by
  unfold laterPhase; (repeat' split) <;> simp

@[simp] theorem takeUp_boot (b : Block) (id : Nat) :
    (takeUp b id).boot = b.boot := by
  unfold takeUp; repeat' first | with_reducible rfl | (intros; with_reducible assumption) | (simp [*]; done) | split | with_reducible refine foldl_boot _ _ ?_ _ _ ?_ | intro _ | simp | simp only [*]

@[simp] theorem takeUpAll_boot (b : Block) :
    (takeUpAll b).boot = b.boot := by
  unfold takeUpAll; repeat' first | with_reducible rfl | (intros; with_reducible assumption) | (simp [*]; done) | split | with_reducible refine foldl_boot _ _ ?_ _ _ ?_ | intro _ | simp | simp only [*]

@[simp] theorem doStep_boot (q : QRef) (h : Hdr) (plan : BitVec 32) (phase : BitVec 8) (view : BitVec 8) (bindingVa : BitVec 64) (id : Nat) (b : Block) :
    (doStep q h plan phase view bindingVa id b).boot = b.boot := by
  unfold doStep; (repeat' split) <;> simp

@[simp] theorem modMbox_boot (b : Block) (fn : Nat) (m : MboxSel) (g : Mbox → Mbox) :
    (modMbox b fn m g).boot = b.boot := by simp [modMbox]

@[simp] theorem mailCause_boot (b : Block) (fn : Nat) (bitNo : Nat) :
    (mailCause b fn bitNo).boot = b.boot := by
  unfold mailCause; repeat' first | rfl | split | refine foldl_boot _ _ ?_ _ _ ?_ | intro _ | simp

@[simp] theorem mailboxPost_boot (fn : Nat) (m : MboxSel) (v : BitVec 64) (b : Block) :
    (mailboxPost fn m v b).boot = b.boot := by
  unfold mailboxPost; (repeat' split) <;> simp

@[simp] theorem clearNotice_boot (b : Block) (fn : Nat) (m : MboxSel) :
    (clearNotice b fn m).boot = b.boot := by simp [clearNotice]

@[simp] theorem accessFails_boot (b : Block) (fn : Nat) (m : MboxSel) :
    (accessFails b fn m).boot = b.boot := by simp [accessFails]

@[simp] theorem hostWrites_boot (b : Block) (l : List (Nat × List Byte)) :
    (hostWrites b l).boot = b.boot := by
  unfold hostWrites; repeat' first | rfl | split | refine foldl_boot _ _ ?_ _ _ ?_ | intro _ | simp

@[simp] theorem mbReply_boot (b : Block) (fn : Nat) (m : MboxSel) (status : Nat) (payload : List Byte) :
    (mbReply b fn m status payload).boot = b.boot := by
  unfold mbReply; repeat' first | rfl | split | refine foldl_boot _ _ ?_ _ _ ?_ | intro _ | simp

@[simp] theorem grReply_boot (b : Block) (fn : Nat) (r : GrottoReply) :
    (grReply b fn r).boot = b.boot := by unfold grReply; split <;> simp

@[simp] theorem vendorAnswer_boot (b : Block) (fn : Nat) :
    (vendorAnswer b fn).boot = b.boot := by simp [vendorAnswer]

@[simp] theorem mailboxTake_boot (fn : Nat) (m : MboxSel) (known : Bool) (b : Block) :
    (mailboxTake fn m known b).boot = b.boot := by
  unfold mailboxTake; repeat' first | rfl | split | refine foldl_boot _ _ ?_ _ _ ?_ | intro _ | simp

@[simp] theorem echo_boot (fn : Nat) (b : Block) :
    (echo fn b).boot = b.boot := by unfold echo; split <;> simp

@[simp] theorem versions_boot (fn : Nat) (b : Block) :
    (versions fn b).boot = b.boot := by
  unfold versions; (repeat' split) <;> simp

@[simp] theorem zeroIpa_boot (b : Block) (vf : Nat) (r : IpaRange) :
    (zeroIpa b vf r).boot = b.boot := by
  unfold zeroIpa; repeat' first | rfl | split | refine foldl_boot _ _ ?_ _ _ ?_ | intro _ | simp

@[simp] theorem freeObject_boot (b : Block) (vf : Nat) (index : Nat) :
    (freeObject b vf index).boot = b.boot := by
  unfold freeObject; repeat' first | rfl | split | refine foldl_boot _ _ ?_ _ _ ?_ | intro _ | simp

@[simp] theorem setObj_boot (b : Block) (vf : Nat) (index : Nat) (st : ObjState) :
    (setObj b vf index st).boot = b.boot := by simp [setObj]

@[simp] theorem objectUnmapped_boot (b : Block) (vf : Nat) (index : Nat) :
    (objectUnmapped b vf index).boot = b.boot := by
  unfold objectUnmapped; (repeat' split) <;> simp

@[simp] theorem unmapObject_boot (b : Block) (vf : Nat) (index : Nat) :
    (unmapObject b vf index).boot = b.boot := by
  unfold unmapObject; repeat' first | rfl | split | refine foldl_boot _ _ ?_ _ _ ?_ | intro _ | simp

@[simp] theorem releaseObject_boot (b : Block) (vf : Nat) (index : Nat) :
    (releaseObject b vf index).boot = b.boot := by unfold releaseObject; split <;> simp

@[simp] theorem releaseObjects_boot (b : Block) :
    (releaseObjects b).boot = b.boot := by
  unfold releaseObjects; repeat' first | rfl | split | refine foldl_boot _ _ ?_ _ _ ?_ | intro _ | simp

@[simp] theorem freePlan_boot (b : Block) (tag : Nat) (index : Nat) :
    (freePlan b tag index).boot = b.boot := by simp [freePlan]

@[simp] theorem planUnloads_boot (b : Block) :
    (planUnloads b).boot = b.boot := by
  unfold planUnloads; repeat' first | rfl | split | refine foldl_boot _ _ ?_ _ _ ?_ | intro _ | simp

@[simp] theorem freeAdapter_boot (b : Block) (i : Nat) :
    (freeAdapter b i).boot = b.boot := by simp [freeAdapter]

@[simp] theorem adapterReleases_boot (b : Block) :
    (adapterReleases b).boot = b.boot := by
  unfold adapterReleases; repeat' first | rfl | split | refine foldl_boot _ _ ?_ _ _ ?_ | intro _ | simp

@[simp] theorem retire_boot (b : Block) (vf : Nat) (tag : Nat) (x : Counters) :
    (retire b vf tag x).boot = b.boot := by
  unfold retire; (repeat' split) <;> simp

@[simp] theorem zeroLists_boot (b : Block) (vf : Nat) (tag : Nat) :
    (zeroLists b vf tag).boot = b.boot := by
  unfold zeroLists; repeat' first | rfl | split | refine foldl_boot _ _ ?_ _ _ ?_ | intro _ | simp

@[simp] theorem freeEntries_boot (b : Block) (tag : Nat) :
    (freeEntries b tag).boot = b.boot := by simp [freeEntries]

@[simp] theorem stripCtx_boot (b : Block) (tag : Nat) :
    (stripCtx b tag).boot = b.boot := by
  unfold stripCtx; repeat' first | rfl | split | refine foldl_boot _ _ ?_ _ _ ?_ | intro _ | simp

@[simp] theorem stripCtx.setParts_boot (tag : Nat) (b : Block) (vf : Nat) (p : Part) (c : Ctx) :
    (stripCtx.setParts tag b vf p c).boot = b.boot := by simp [stripCtx.setParts]

@[simp] theorem ctxDestroys_boot (b : Block) :
    (ctxDestroys b).boot = b.boot := by
  unfold ctxDestroys; repeat' first | rfl | split | refine foldl_boot _ _ ?_ _ _ ?_ | intro _ | simp

@[simp] theorem dropStepOf_boot (b : Block) (cmd : Nat) :
    (dropStepOf b cmd).boot = b.boot := by
  unfold dropStepOf; (repeat' split) <;> simp

@[simp] theorem dropSuppressed_boot (b : Block) :
    (dropSuppressed b).boot = b.boot := by
  unfold dropSuppressed; repeat' first | rfl | split | refine foldl_boot _ _ ?_ _ _ ?_ | intro _ | simp

@[simp] theorem delCtx_boot (b : Block) (tag : Nat) :
    (delCtx b tag).boot = b.boot := by simp [delCtx]

@[simp] theorem orphans_boot (b : Block) :
    (orphans b).boot = b.boot := by
  unfold orphans; repeat' first | rfl | split | refine foldl_boot _ _ ?_ _ _ ?_ | intro _ | simp

@[simp] theorem draw_boot (b : Block) :
    (draw b).1.boot = b.boot := by simp [draw]

@[simp] theorem newFarKey_boot (b : Block) (vf : Nat) :
    (newFarKey b vf).boot = b.boot := by simp [newFarKey]

@[simp] theorem zeroCarve_boot (b : Block) (d : PartDesc) :
    (zeroCarve b d).boot = b.boot := by
  unfold zeroCarve; repeat' first | rfl | split | refine foldl_boot _ _ ?_ _ _ ?_ | intro _ | simp

@[simp] theorem endSessionOf_boot (b : Block) (fn : Nat) :
    (endSessionOf b fn).boot = b.boot := by simp [endSessionOf]

@[simp] theorem setTdisp_boot (b : Block) (vf : Nat) (g : Tdisp → Tdisp) :
    (setTdisp b vf g).boot = b.boot := by simp [setTdisp]

@[simp] theorem stopScrub_boot (b : Block) (vf : Nat) (p : Part) (answer : Bool) :
    (stopScrub b vf p answer).boot = b.boot := by unfold stopScrub; split <;> simp

@[simp] theorem stopScrubs_boot (b : Block) :
    (stopScrubs b).boot = b.boot := by
  unfold stopScrubs; repeat' first | rfl | split | refine foldl_boot _ _ ?_ _ _ ?_ | intro _ | simp

@[simp] theorem settle_boot (b : Block) :
    (settle b).boot = b.boot := by simp [settle]

@[simp] theorem setRefs_boot (b : Block) (id : Nat) (refs : List Nat) :
    (setRefs b id refs).boot = b.boot := by simp [setRefs]

@[simp] theorem addMapping_boot (b : Block) (tag : Nat) (id : Nat) (m : Mapping) :
    (addMapping b tag id m).boot = b.boot := by simp [addMapping]

@[simp] theorem mapExisting_boot (q : QRef) (va : BitVec 64) (bytes : BitVec 64) (handle : BitVec 32) (tier : BitVec 8) (attrs : BitVec 8) (pageLog : Nat) (access : BitVec 8) (off : BitVec 64) (backing : BitVec 64) (id : Nat) (p : Part) (c : Ctx) (b : Block) :
    (mapExisting q va bytes handle tier attrs pageLog access off backing id p c b).boot = b.boot := by
  unfold mapExisting; repeat' first | rfl | split | refine foldl_boot _ _ ?_ _ _ ?_ | intro _ | simp

@[simp] theorem mapNew_boot (q : QRef) (va : BitVec 64) (bytes : BitVec 64) (tier : BitVec 8) (attrs : BitVec 8) (pageLog : Nat) (access : BitVec 8) (off : BitVec 64) (backing : BitVec 64) (id : Nat) (p : Part) (c : Ctx) (b : Block) :
    (mapNew q va bytes tier attrs pageLog access off backing id p c b).boot = b.boot := by
  unfold mapNew; repeat' first | rfl | split | refine foldl_boot _ _ ?_ _ _ ?_ | intro _ | simp

@[simp] theorem doMemMap_boot (q : QRef) (va : BitVec 64) (bytes : BitVec 64) (handle : BitVec 32) (tier : BitVec 8) (attrs : BitVec 8) (page : BitVec 8) (access : BitVec 8) (off : BitVec 64) (backing : BitVec 64) (id : Nat) (b : Block) :
    (doMemMap q va bytes handle tier attrs page access off backing id b).boot = b.boot := by
  unfold doMemMap; (repeat' split) <;> simp

@[simp] theorem doMemUnmap_boot (q : QRef) (va : BitVec 64) (bytes : BitVec 64) (id : Nat) (b : Block) :
    (doMemUnmap q va bytes id b).boot = b.boot := by
  unfold doMemUnmap; repeat' first | with_reducible rfl | (intros; with_reducible assumption) | (simp [*]; done) | split | with_reducible refine foldl_boot _ _ ?_ _ _ ?_ | intro _ | simp | simp only [*]

@[simp] theorem doMemFree_boot (q : QRef) (handle : BitVec 32) (id : Nat) (b : Block) :
    (doMemFree q handle id b).boot = b.boot := by
  unfold doMemFree; (repeat' split) <;> simp

@[simp] theorem objectZeroDone_boot (vf : Nat) (index : Nat) (b : Block) :
    (objectZeroDone vf index b).boot = b.boot := by
  unfold objectZeroDone; (repeat' split) <;> simp

@[simp] theorem areaZeroingEnd_boot (vf : Nat) (b : Block) :
    (areaZeroingEnd vf b).boot = b.boot := by
  unfold areaZeroingEnd; repeat' first | rfl | split | refine foldl_boot _ _ ?_ _ _ ?_ | intro _ | simp

@[simp] theorem setBase_boot (b : Block) (i : Nat) (s : BaseSet) :
    (setBase b i s).boot = b.boot := by simp [setBase]

@[simp] theorem fillBase_boot (b : Block) (i : Nat) (s : BaseSet) :
    (fillBase b i s).boot = b.boot := by simp [fillBase]

@[simp] theorem emptyBase_boot (b : Block) (i : Nat) :
    (emptyBase b i).boot = b.boot := by simp [emptyBase]

@[simp] theorem baseNew_boot (id : Nat) (bs : List Byte) (b : Block) :
    (baseNew id bs b).boot = b.boot := by
  unfold baseNew; repeat' first | rfl | split | refine foldl_boot _ _ ?_ _ _ ?_ | intro _ | simp

@[simp] theorem baseReload_boot (id : Nat) (bs : List Byte) (b : Block) :
    (baseReload id bs b).boot = b.boot := by
  unfold baseReload; repeat' first | rfl | split | refine foldl_boot _ _ ?_ _ _ ?_ | intro _ | simp

@[simp] theorem doBaseLoad_boot (descriptor : BitVec 64) (id : Nat) (b0 : Block) :
    (doBaseLoad descriptor id b0).boot = b0.boot := by
  unfold doBaseLoad; repeat' first | with_reducible rfl | (intros; with_reducible assumption) | (simp [*]; done) | split | with_reducible refine foldl_boot _ _ ?_ _ _ ?_ | intro _ | simp | simp only [*]

@[simp] theorem zeroBase_boot (b : Block) (s : BaseSet) :
    (zeroBase b s).boot = b.boot := by
  unfold zeroBase; repeat' first | rfl | split | refine foldl_boot _ _ ?_ _ _ ?_ | intro _ | simp

@[simp] theorem dropBase_boot (b : Block) (i : Nat) :
    (dropBase b i).boot = b.boot := by unfold dropBase; split <;> simp

@[simp] theorem baseFails_boot (b : Block) (id : Nat) (i : Nat) :
    (baseFails b id i).boot = b.boot := by
  unfold baseFails; (repeat' split) <;> simp

@[simp] theorem baseEnds_boot (b : Block) (id : Nat) (i : Nat) :
    (baseEnds b id i).boot = b.boot := by
  unfold baseEnds; (repeat' split) <;> simp

@[simp] theorem moveBaseTile_boot (b : Block) (s : BaseSet) (source : Nat) (i : Nat) :
    (moveBaseTile b s source i).boot = b.boot := by
  unfold moveBaseTile; repeat' first | rfl | split | refine foldl_boot _ _ ?_ _ _ ?_ | intro _ | simp

@[simp] theorem doBaseRelease_boot (set : BitVec 32) (id : Nat) (b : Block) :
    (doBaseRelease set id b).boot = b.boot := by
  unfold doBaseRelease; (repeat' split) <;> simp

@[simp] theorem raise_boot (b : Block) (core : Nat) (kind : Nat) (reason : Nat) (st : BitVec 16) (tag : BitVec 16) (address : Nat) (write : Bool) :
    (raise b core kind reason st tag address write).boot = b.boot := by simp [raise]

@[simp] theorem putXfer_boot (b : Block) (core : Nat) (kind : XferKind) (cls : Nat) (issue : Nat) (mem : Nat) (last : Nat) (dst : XferTo) (tag : BitVec 16) (payer : BitVec 16) (line : Nat) (info : Nat × Nat × Nat) :
    (putXfer b core kind cls issue mem last dst tag payer line info).boot = b.boot := by simp [putXfer]

@[simp] theorem startXfer_boot (old : Core) (core : Nat) (t : Nat) (d : XferDesc) (isLoad : Bool) (b : Block) :
    (startXfer old core t d isLoad b).boot = b.boot := by
  unfold startXfer; repeat' first | rfl | split | refine foldl_boot _ _ ?_ _ _ ?_ | intro _ | simp

@[simp] theorem startGather_boot (old : Core) (core : Nat) (t : Nat) (d : GatherDesc) (b : Block) :
    (startGather old core t d b).boot = b.boot := by
  unfold startGather; repeat' first | rfl | split | refine foldl_boot _ _ ?_ _ _ ?_ | intro _ | simp

@[simp] theorem startAtomic_boot (old : Core) (core : Nat) (t : Nat) (d : AtomicDesc) (b : Block) :
    (startAtomic old core t d b).boot = b.boot := by
  unfold startAtomic; (repeat' split) <;> simp

@[simp] theorem lookup_boot (b : Block) (core : Nat) (tag : BitVec 16) (va : Nat) :
    (lookup b core tag va).1.boot = b.boot := by
  unfold lookup; (repeat' split) <;> simp

@[simp] theorem countFar_boot (b : Block) (vf : Nat) (pa : Nat) (t : Nat) :
    (countFar b vf pa t).1.boot = b.boot := by unfold countFar; split <;> simp

@[simp] theorem setXfer_boot (b : Block) (core : Nat) (x : Xfer) :
    (setXfer b core x).boot = b.boot := by simp [setXfer]

@[simp] theorem failXfer_boot (b : Block) (core : Nat) (x : Xfer) (kind : Nat) (reason : Nat) (address : Nat) :
    (failXfer b core x kind reason address).boot = b.boot := by simp [failXfer]

@[simp] theorem placeXfer_boot (b : Block) (core : Nat) (x : Xfer) (pa : Nat) :
    (placeXfer b core x pa).boot = b.boot := by
  unfold placeXfer; repeat' first | rfl | split | refine foldl_boot _ _ ?_ _ _ ?_ | intro _ | simp

@[simp] theorem issueXfer_boot (b0 : Block) (e : Nat × Xfer) :
    (issueXfer b0 e).boot = b0.boot := by
  unfold issueXfer; repeat' first | with_reducible rfl | (intros; with_reducible assumption) | (simp [*]; done) | split | with_reducible refine foldl_boot _ _ ?_ _ _ ?_ | intro _ | simp | simp only [*]

@[simp] theorem lookupsTo_boot (t : Nat) (b : Block) :
    (lookupsTo t b).boot = b.boot := by
  unfold lookupsTo; repeat' first | rfl | split | refine foldl_boot _ _ ?_ _ _ ?_ | intro _ | simp

@[simp] theorem dropXfer_boot (b : Block) (core : Nat) (x : Xfer) :
    (dropXfer b core x).boot = b.boot := by simp [dropXfer]

@[simp] theorem putLines_boot (b : Block) (core : Nat) (line : Nat) (bs : List Byte) :
    (putLines b core line bs).boot = b.boot := by unfold putLines; split <;> simp

@[simp] theorem takeLines_boot (b0 : Block) (core : Nat) (line : Nat) (n : Nat) :
    (takeLines b0 core line n).1.boot = b0.boot := by
  unfold takeLines; repeat' first | rfl | split | refine foldl_boot _ _ ?_ _ _ ?_ | intro _ | simp

@[simp] theorem takeAct_boot (b : Block) (core : Nat) (id : Nat) (q : Nat) :
    (takeAct b core id q).boot = b.boot := by unfold takeAct; (repeat' split) <;> simp

@[simp] theorem readAct_boot (b : Block) (core : Nat) (id : Nat) :
    (readAct b core id).boot = b.boot := by unfold readAct; (repeat' split) <;> simp

@[simp] theorem landAct_boot (b : Block) (core : Nat) (id : Nat) (q : Nat) :
    (landAct b core id q).boot = b.boot := by unfold landAct; (repeat' split) <;> simp

@[simp] theorem writeAct_boot (b : Block) (core : Nat) (id : Nat) :
    (writeAct b core id).boot = b.boot := by unfold writeAct; (repeat' split) <;> simp

@[simp] theorem putTarget_boot (b : Block) (x : Xfer) (off : Nat) (bs : List Byte) :
    (putTarget b x off bs).boot = b.boot := by simp [putTarget]

@[simp] theorem applyAct_boot (b : Block) (core : Nat) (id : Nat) (q : Nat) :
    (applyAct b core id q).boot = b.boot := by
  unfold applyAct; repeat' first | rfl | split | refine foldl_boot _ _ ?_ _ _ ?_ | intro _ | simp

@[simp] theorem fetchAct_boot (b : Block) (core : Nat) (id : Nat) (key : Nat) (line : Nat) (mask : Nat) :
    (fetchAct b core id key line mask).boot = b.boot := by
  unfold fetchAct; repeat' first | rfl | split | refine foldl_boot _ _ ?_ _ _ ?_ | intro _ | simp

@[simp] theorem makeAct_boot (b : Block) (core : Nat) (id : Nat) (part : Nat) :
    (makeAct b core id part).boot = b.boot := by
  unfold makeAct; repeat' first | rfl | split | refine foldl_boot _ _ ?_ _ _ ?_ | intro _ | simp

@[simp] theorem doAct_boot (b : Block) (core : Nat) (a : Act) :
    (doAct b core a).boot = b.boot := by unfold doAct; split <;> simp

@[simp] theorem doWork_boot (b : Block) (e : Nat × Work) :
    (doWork b e).boot = b.boot := by simp [doWork]

@[simp] theorem runWork_boot (limit : Nat) (b : Block) :
    (runWork limit b).boot = b.boot := by
  unfold runWork; repeat' first | rfl | split | refine foldl_boot _ _ ?_ _ _ ?_ | intro _ | simp

@[simp] theorem workTo_boot (t : Nat) (b : Block) :
    (workTo t b).boot = b.boot := by simp [workTo]

@[simp] theorem coreErr_boot (core : Nat) (err : CoreErr) (b : Block) :
    (coreErr core err b).boot = b.boot := by unfold coreErr; (repeat' split) <;> simp

@[simp] theorem tickErrs_boot (t : Nat) (errs : List TickErr) (b : Block) :
    (tickErrs t errs b).boot = b.boot := by
  unfold tickErrs; repeat' first | rfl | split | refine foldl_boot _ _ ?_ _ _ ?_ | intro _ | simp

@[simp] theorem doSeqOpen_boot (q : QRef) (f : SeqFields) (id : Nat) (b : Block) :
    (doSeqOpen q f id b).boot = b.boot := by
  unfold doSeqOpen; (repeat' split) <;> simp

@[simp] theorem doSeqClose_boot (q : QRef) (handle : BitVec 32) (id : Nat) (b : Block) :
    (doSeqClose q handle id b).boot = b.boot := by
  unfold doSeqClose; (repeat' split) <;> simp

@[simp] theorem doSeqUpdate_boot (q : QRef) (f : SeqFields) (mask : BitVec 16) (handle : BitVec 32) (id : Nat) (b : Block) :
    (doSeqUpdate q f mask handle id b).boot = b.boot := by
  unfold doSeqUpdate; repeat' first | rfl | split | refine foldl_boot _ _ ?_ _ _ ?_ | intro _ | simp

@[simp] theorem doAdapterBind_boot (q : QRef) (va : BitVec 64) (tiles : BitVec 32) (flags : BitVec 8) (id : Nat) (b : Block) :
    (doAdapterBind q va tiles flags id b).boot = b.boot := by
  unfold doAdapterBind; repeat' first | rfl | split | refine foldl_boot _ _ ?_ _ _ ?_ | intro _ | simp

@[simp] theorem doAdapterRelease_boot (q : QRef) (handle : BitVec 32) (id : Nat) (b : Block) :
    (doAdapterRelease q handle id b).boot = b.boot := by
  unfold doAdapterRelease; repeat' first | rfl | split | refine foldl_boot _ _ ?_ _ _ ?_ | intro _ | simp

@[simp] theorem onStop_boot (b : Block) (id : Nat) (e : Stop) :
    (onStop b id e).boot = b.boot := by cases e <;> simp [onStop]

@[simp] theorem markResolved_boot (b : Block) (id : Nat) :
    (markResolved b id).boot = b.boot := by simp [markResolved]

@[simp] theorem startJob_boot (b : Block) (id : Nat) (refs : List Nat) (ops : List MoverOp) (detail : Nat) (imp : Option ImportJob) :
    (startJob b id refs ops detail imp).boot = b.boot := by simp [startJob]

@[simp] theorem writeHostTile_boot (b : Block) (p : TilePlace) (t : List Byte) (err : BitVec 32) :
    (writeHostTile b p t err).boot = b.boot := by unfold writeHostTile; split <;> simp

@[simp] theorem writePlaceErr_boot (b : Block) (p : TilePlace) (t : List Byte) (err : BitVec 32) :
    (writePlaceErr b p t err).boot = b.boot := by unfold writePlaceErr; split <;> simp

@[simp] theorem writePlace_boot (b : Block) (p : TilePlace) (t : List Byte) :
    (writePlace b p t).boot = b.boot := by simp [writePlace]

@[simp] theorem patchPlace_boot (b : Block) (p : TilePlace) (off : Nat) (data : List Byte) :
    (patchPlace b p off data).boot = b.boot := by unfold patchPlace; split <;> simp

@[simp] theorem touchRead_boot (b : Block) (p : TilePlace) :
    (touchRead b p).boot = b.boot := by unfold touchRead; split <;> simp

@[simp] theorem doMemCopy_boot (q : QRef) (srcVa : BitVec 64) (dstVa : BitVec 64) (bytes : BitVec 64) (id : Nat) (b : Block) :
    (doMemCopy q srcVa dstVa bytes id b).boot = b.boot := by
  unfold doMemCopy; (repeat' split) <;> simp

@[simp] theorem doMemFill_boot (q : QRef) (dstVa : BitVec 64) (bytes : BitVec 64) (pattern : BitVec 64) (id : Nat) (b : Block) :
    (doMemFill q dstVa bytes pattern id b).boot = b.boot := by
  unfold doMemFill; (repeat' split) <;> simp

@[simp] theorem loadKey_boot (b : Block) (vf : Nat) (cmd : Nat) (k : BitVec 256) :
    (loadKey b vf cmd k).boot = b.boot := by simp [loadKey]

@[simp] theorem startKey_boot (b : Block) (vf : Nat) (cmd : Nat) (encrypted : Bool) :
    (startKey b vf cmd encrypted).boot = b.boot := by unfold startKey; split <;> simp

@[simp] theorem importStart_boot (q : QRef) (src : List (TilePlace × Nat)) (srcVa : Nat) (dstVa : Nat) (sf : Nat) (df : Nat) (encrypted : Bool) (count : Nat) (payload : Nat) (id : Nat) (b : Block) :
    (importStart q src srcVa dstVa sf df encrypted count payload id b).boot = b.boot := by
  unfold importStart; repeat' first | rfl | split | refine foldl_boot _ _ ?_ _ _ ?_ | intro _ | simp

@[simp] theorem doMemImport_boot (q : QRef) (srcVa : BitVec 64) (dstVa : BitVec 64) (srcBytes : BitVec 64) (formats : BitVec 8) (flags : BitVec 8) (id : Nat) (b : Block) :
    (doMemImport q srcVa dstVa srcBytes formats flags id b).boot = b.boot := by
  unfold doMemImport; repeat' first | rfl | split | refine foldl_boot _ _ ?_ _ _ ?_ | intro _ | simp

@[simp] theorem doQuery_boot (q : QRef) (kind : BitVec 8) (resultVa : BitVec 64) (id : Nat) (b : Block) :
    (doQuery q kind resultVa id b).boot = b.boot := by
  unfold doQuery; (repeat' split) <;> simp

@[simp] theorem chargeMove_boot (b : Block) (tag : Nat) (l : List Nat) :
    (chargeMove b tag l).boot = b.boot := by simp [chargeMove]

@[simp] theorem notePlace_boot (errs : List (Nat × ReadErr)) (b : Block) (p : TilePlace) :
    (notePlace errs b p).boot = b.boot := by unfold notePlace; split <;> simp

@[simp] theorem noteOp_boot (errs : List (Nat × ReadErr)) (b : Block) (op : MoverOp) :
    (noteOp errs b op).boot = b.boot := by unfold noteOp; (repeat' split) <;> simp

@[simp] theorem endMoved_boot (b : Block) (id : Nat) (st : BitVec 16) (detail : BitVec 32) :
    (endMoved b id st detail).boot = b.boot := by simp [endMoved]

theorem runOp_boot (c : Cmd) (m m1 : Moving) (op : MoverOp) (h : runOp c m op = .ok m1) : m1.b.boot = m.b.boot := by
  cases op <;> simp only [runOp, convOp] at h <;> (repeat' split at h) <;> cases h <;> simp

theorem runOps_boot (c : Cmd) (trim : Bool) (errs : List (Nat × ReadErr)) (l : List MoverOp) :
    ∀ m, (∀ e, runOps c trim errs l m = .error e → e.2.boot = m.b.boot) ∧
      (∀ m1, runOps c trim errs l m = .ok m1 → m1.b.boot = m.b.boot) := by
  induction l with
  | nil => intro m; constructor <;> (intro _ h; simp only [runOps] at h; cases h); rfl
  | cons op ops ih =>
    intro m
    simp only [runOps]
    split
    · split
      · constructor <;> (intro _ h; cases h)
        simp
      · next m1 h1 => have := ih { m1 with b := chargeMove m1.b c.q.tag.toNat (opRes m.b op), used := useRes m1.used (opRes m.b op) }
                      simp only [chargeMove_boot, runOp_boot c _ m1 op h1, noteOp_boot] at this
                      exact this
    · constructor <;> (intro _ h; cases h)
      rfl

@[simp] theorem serveCmd_boot (b : Block) (fn : Nat) (trim : Bool) (errs : List (Nat × ReadErr)) (used : Tab Nat) :
    (serveCmd b fn trim errs used).boot = b.boot := by
  unfold serveCmd
  split
  · rfl
  · split
    · split
      · rfl
      · dsimp only
        split
        · next h => simpa using (runOps_boot _ _ _ _ _).1 _ h
        · next h => split <;> simpa using (runOps_boot _ _ _ _ _).2 _ h
    · rfl

@[simp] theorem stagingEnds_boot (b : Block) (s : Step) :
    (stagingEnds b s).boot = b.boot := by unfold stagingEnds; (repeat' split) <;> simp

@[simp] theorem stageOps_boot (s : Step) (trim : Bool) (x2 : List MoverOp) (x3 : Block) (x4 : Tab Nat) :
    (stageOps s trim x2 x3 x4).1.boot = x3.boot := by
  induction x2 generalizing x3 x4 with
  | nil => simp [stageOps]
  | cons op ops ih => 
    simp only [stageOps]
    repeat' first | with_reducible rfl | (intros; with_reducible assumption) | (simp [*]; done) | split | with_reducible refine foldl_boot _ _ ?_ _ _ ?_ | intro _ | simp | simp only [*]

@[simp] theorem allocStaging_boot (b : Block) (id : Nat) :
    (allocStaging b id).boot = b.boot := by
  unfold allocStaging; repeat' first | rfl | split | refine foldl_boot _ _ ?_ _ _ ?_ | intro _ | simp

@[simp] theorem serveStaging_boot (b : Block) (fn : Nat) (trim : Bool) :
    (serveStaging b fn trim).1.boot = b.boot := by
  unfold serveStaging
  have : ∀ (l : List Step) (st : Block × Tab Nat), st.1.boot = b.boot → ((l.foldl (fun st s0 =>
    let b1 := allocStaging st.1 s0.id
    match stepById b1 s0.id with
    | some s => if s.slots.any (fun x => !x.staged.isEmpty) then stageOps s trim s.stageOps b1 st.2 else (b1, st.2)
    | none => (b1, st.2)) st)).1.boot = b.boot := by
    intro l
    induction l with
    | nil => intro st h; exact h
    | cons s l ih => 
      intro st h
      apply ih
      dsimp only
      repeat' first | with_reducible rfl | (intros; with_reducible assumption) | (simp [*]; done) | split | with_reducible refine foldl_boot _ _ ?_ _ _ ?_ | intro _ | simp | simp only [*]
  exact this _ _ rfl

@[simp] theorem serveBase_boot (trim : Bool) (x1 : Nat) (x2 : Block) (x3 : Nat) (x4 : Nat) (x5 : Nat) (x6 : Nat) (x7 : Tab Nat) :
    (serveBase trim x1 x2 x3 x4 x5 x6 x7).1.boot = x2.boot := by
  induction x1 generalizing x2 x3 x4 x5 x6 x7 with
  | zero => rfl
  | succ n ih => 
    simp only [serveBase]
    repeat' first | with_reducible rfl | (intros; with_reducible assumption) | (simp [*]; done) | split | with_reducible refine foldl_boot _ _ ?_ _ _ ?_ | intro _ | simp | simp only [*]

@[simp] theorem serveBaseLoad_boot (b : Block) (trim : Bool) :
    (serveBaseLoad b trim).1.boot = b.boot := by unfold serveBaseLoad; split <;> simp

@[simp] theorem serveDump_boot (trim : Bool) (errs : List (Nat × ReadErr)) (x1 : Nat) (x2 : Block) (x3 : Tab Nat) :
    (serveDump trim errs x1 x2 x3).1.boot = x2.boot := by
  induction x1 generalizing x2 x3 with
  | zero => rfl
  | succ n ih => 
    simp only [serveDump]
    repeat' first | with_reducible rfl | (intros; with_reducible assumption) | (simp [*]; done) | split | with_reducible refine foldl_boot _ _ ?_ _ _ ?_ | intro _ | simp | simp only [*]

@[simp] theorem serveSave_boot (trim : Bool) (n : Nat) (b : Block) (id : Nat) (used : Tab Nat) :
    (serveSave trim n b id used).boot = b.boot := by
  induction n generalizing b used with
  | zero => rfl
  | succ n ih =>
    simp only [serveSave]
    repeat' first | with_reducible rfl | (intros; with_reducible assumption) | (simp [*]; done) | split | with_reducible refine foldl_boot _ _ ?_ _ _ ?_ | intro _ | simp | simp only [*]

@[simp] theorem serveSaves_boot (b : Block) (owner : Option Nat) (trim : Bool) (used : Tab Nat) :
    (serveSaves b owner trim used).boot = b.boot := by unfold serveSaves; split <;> simp

@[simp] theorem moverSlot_boot (i : Nat) (errs : List (Nat × ReadErr)) (b : Block) :
    (moverSlot i errs b).boot = b.boot := by
  unfold moverSlot
  split
  · dsimp only
    split <;> simp
  · rfl

@[simp] theorem installPins_boot (b : Block) (s : Step) :
    (installPins b s).boot = b.boot := by unfold installPins; split <;> simp

@[simp] theorem pinInstall_boot (id : Nat) (b : Block) :
    (pinInstall id b).boot = b.boot := by
  unfold pinInstall; (repeat' split) <;> simp

@[simp] theorem loadPlace_boot (b : Block) (p : Place) :
    (loadPlace b p).boot = b.boot := by
  unfold loadPlace; repeat' first | rfl | split | refine foldl_boot _ _ ?_ _ _ ?_ | intro _ | simp

@[simp] theorem planStoreFault_boot (b : Block) :
    (planStoreFault b).boot = b.boot := by simp [planStoreFault]

@[simp] theorem placement_boot (bad : List (Nat × Nat)) (b : Block) :
    (placement bad b).boot = b.boot := by
  unfold placement; repeat' first | with_reducible rfl | (intros; with_reducible assumption) | (simp [*]; done) | split | with_reducible refine foldl_boot _ _ ?_ _ _ ?_ | intro _ | simp | simp only [*]

@[simp] theorem addCharge_boot (b : Block) (tag : Nat) (ticks : Nat) (nj : Nat) :
    (addCharge b tag ticks nj).boot = b.boot := by simp [addCharge]

@[simp] theorem chargeSpill_boot (b : Block) (s : Step) (u : UnitRun) (m : ByteMem) :
    (chargeSpill b s u m).boot = b.boot := by
  have h : ∀ (l : List Nat) (a : Block × Nat), a.1.boot = b.boot → (l.foldl (fun (a : Block × Nat) j =>
      (nextFree a.1, a.2 + spillNj (spillTier b s) (spillLoad m u.trick j) (Config.freeValue a.1.freeCtr).toNat)) a).1.boot = b.boot := by
    intro l
    induction l with
    | nil => intro a ha; exact ha
    | cons j l ih => intro a ha; exact ih _ (by simpa using ha)
  simpa [chargeSpill] using h (List.range (4 ^ u.order)) (b, 0) rfl

@[simp] theorem countMoves_boot (vf : Nat) (l : List (Nat × Nat × Nat)) (b : Block) (n : Nat) :
    (countMoves vf l b n).1.boot = b.boot := by
  induction l generalizing b n with
  | nil => rfl
  | cons e l ih => simp only [countMoves]; split <;> simp [ih]

@[simp] theorem spillMoves_boot (b : Block) (s : Step) (parts : List (Nat × List Nat)) :
    (spillMoves b s parts).1.boot = b.boot := by
  unfold spillMoves; dsimp only; rw [modCtx_boot]; split <;> simp

@[simp] theorem unlockKeys_boot (b : Block) :
    (unlockKeys b).boot = b.boot := by simp [unlockKeys]

@[simp] theorem unlockDebug_boot (b : Block) :
    (unlockDebug b).boot = b.boot := by simp [unlockDebug]

@[simp] theorem finishUnlock_boot (b : Block) :
    (finishUnlock b).boot = b.boot := by unfold finishUnlock; (repeat' split) <;> simp

@[simp] theorem chargeStep_boot (b : Block) (s : Step) (ticks : Nat) (nj : Nat) :
    (chargeStep b s ticks nj).boot = b.boot := by
  unfold chargeStep; repeat' first | rfl | split | refine foldl_boot _ _ ?_ _ _ ?_ | intro _ | simp

@[simp] theorem scrubQuads_boot (b : Block) (p : Nat → Bool) :
    (scrubQuads b p).boot = b.boot := by
  unfold scrubQuads; repeat' first | rfl | split | refine foldl_boot _ _ ?_ _ _ ?_ | intro _ | simp

@[simp] theorem scrubAll_boot (keep : Bool) (b : Block) :
    (scrubAll keep b).boot = b.boot := by
  unfold scrubAll; repeat' first | rfl | split | refine foldl_boot _ _ ?_ _ _ ?_ | intro _ | simp

@[simp] theorem ownerScrub_boot (b : Block) :
    (ownerScrub b).boot = b.boot := by
  unfold ownerScrub; repeat' first | with_reducible rfl | (intros; with_reducible assumption) | (simp [*]; done) | split | with_reducible refine foldl_boot _ _ ?_ _ _ ?_ | intro _ | simp | simp only [*]

@[simp] theorem clearCalendars_boot (b : Block) :
    (clearCalendars b).boot = b.boot := by
  unfold clearCalendars; repeat' first | rfl | split | refine foldl_boot _ _ ?_ _ _ ?_ | intro _ | simp

@[simp] theorem runEnds_boot (b : Block) (u : UnitRun) :
    (runEnds b u).boot = b.boot := by
  unfold runEnds; (repeat' split) <;> simp

@[simp] theorem setDiags_boot (b : Block) :
    (setDiags b).boot = b.boot := by
  unfold setDiags; repeat' first | rfl | split | refine foldl_boot _ _ ?_ _ _ ?_ | intro _ | simp

@[simp] theorem endRound_boot (b : Block) :
    (endRound b).boot = b.boot := by
  unfold endRound; repeat' first | rfl | split | refine foldl_boot _ _ ?_ _ _ ?_ | intro _ | simp

@[simp] theorem runTakesSems_boot (b : Block) (u : UnitRun) (s : Step) :
    (runTakesSems b u s).boot = b.boot := by simp [runTakesSems]

@[simp] theorem runBegins_boot (b : Block) (u : UnitRun) :
    (runBegins b u).boot = b.boot := by
  unfold runBegins; repeat' first | rfl | split | refine foldl_boot _ _ ?_ _ _ ?_ | intro _ | simp

@[simp] theorem readTemps_boot (b : Block) (temps : List Nat) :
    (readTemps b temps).boot = b.boot := by simp [readTemps]

@[simp] theorem samplePresence_boot (b : Block) (presence : Bool) (cable : Bool) :
    (samplePresence b presence cable).boot = b.boot := by simp [samplePresence]

@[simp] theorem freezeDone_boot (b : Block) :
    (freezeDone b).boot = b.boot := by simp [freezeDone]

@[simp] theorem openRound_boot (b : Block) :
    (openRound b).boot = b.boot := by simp [openRound]

@[simp] theorem changeoverScrubs_boot (recovered : Bool) (b : Block) :
    (changeoverScrubs recovered b).boot = b.boot := by unfold changeoverScrubs; split <;> simp

@[simp] theorem beginRuns_boot (b : Block) :
    (beginRuns b).boot = b.boot := by
  unfold beginRuns; repeat' first | rfl | split | refine foldl_boot _ _ ?_ _ _ ?_ | intro _ | simp

@[simp] theorem beginRound_boot (b : Block) (presence : Bool) (cable : Bool) (temps : List Nat) :
    (beginRound b presence cable temps).boot = b.boot := by
  unfold beginRound; repeat' first | with_reducible rfl | (intros; with_reducible assumption) | (simp [*]; done) | split | with_reducible refine foldl_boot _ _ ?_ _ _ ?_ | intro _ | simp | simp only [*]

@[simp] theorem sampleTherm_boot (b : Block) :
    (sampleTherm b).boot = b.boot := by simp [sampleTherm]

@[simp] theorem samplePins_boot (b : Block) :
    (samplePins b).boot = b.boot := by simp [samplePins]

@[simp] theorem lastSample_boot (b : Block) :
    (lastSample b).boot = b.boot := by unfold lastSample; split <;> simp

@[simp] theorem roundBoundary_boot (presence : Bool) (cable : Bool) (temps : List Nat) (errs : List TickErr)
    (b : Block) : (roundBoundary presence cable temps errs b).boot = b.boot := by
  unfold roundBoundary; (repeat' split) <;> simp

@[simp] theorem trickWindowStart_boot (b : Block) :
    (trickWindowStart b).boot = b.boot := by
  unfold trickWindowStart; repeat' first | with_reducible rfl | (intros; with_reducible assumption) | (simp [*]; done) | split | with_reducible refine foldl_boot _ _ ?_ _ _ ?_ | intro _ | simp | simp only [*]

@[simp] theorem phaseDone_boot (b : Block) (s : Step) :
    (phaseDone b s).boot = b.boot := by
  unfold phaseDone; (repeat' split) <;> simp

@[simp] theorem retireStep_boot (b : Block) (cmd : Nat) :
    (retireStep b cmd).boot = b.boot := by unfold retireStep; (repeat' split) <;> simp

@[simp] theorem countLost_boot (b : Block) (c : Cmd) (st : BitVec 16) :
    (countLost b c st).boot = b.boot := by unfold countLost; split <;> simp

@[simp] theorem recordCmd_boot (b : Block) (fn : Nat) (tick : Nat) (c : Cmd) (st : BitVec 16) (detail : BitVec 32) :
    (recordCmd b fn tick c st detail).boot = b.boot := by simp [recordCmd]

@[simp] theorem completionRecordWrite_boot (fn : Nat) (b : Block) :
    (completionRecordWrite fn b).boot = b.boot := by
  unfold completionRecordWrite; (repeat' split) <;> simp

@[simp] theorem makeResident_boot (b : Block) (fn : Nat) (tag : Nat) :
    (makeResident b fn tag).boot = b.boot := by simp [makeResident]

@[simp] theorem contextSwapIn_boot (fn : Nat) (b : Block) :
    (contextSwapIn fn b).boot = b.boot := by
  unfold contextSwapIn; (repeat' split) <;> simp

@[simp] theorem commitSeat_boot (b : Block) (s : Seat) :
    (commitSeat b s).boot = b.boot := by
  unfold commitSeat; repeat' first | rfl | split | refine foldl_boot _ _ ?_ _ _ ?_ | intro _ | simp

@[simp] theorem toggleHalf_boot (b : Block) (i : Nat) :
    (toggleHalf b i).boot = b.boot := by simp [toggleHalf]

@[simp] theorem commitStep_boot (b : Block) (s : Step) (d : Deal) :
    (commitStep b s d).boot = b.boot := by
  unfold commitStep; repeat' first | rfl | split | refine foldl_boot _ _ ?_ _ _ ?_ | intro _ | simp

@[simp] theorem commit_boot (id : Nat) (b : Block) :
    (commit id b).boot = b.boot := by
  unfold commit; (repeat' split) <;> simp

@[simp] theorem saveCore_boot (b : Block) (s : Step) (u : UnitRun) (m : ByteMem) (spill : Nat) (j : Nat) :
    (saveCore b s u m spill j).boot = b.boot := by
  unfold saveCore; repeat' first | rfl | split | refine foldl_boot _ _ ?_ _ _ ?_ | intro _ | simp

@[simp] theorem saveAll_boot (b : Block) (s : Step) (u : UnitRun) (m : ByteMem) (spill : Nat) :
    (saveAll b s u m spill).boot = b.boot := by
  unfold saveAll; repeat' first | with_reducible rfl | (intros; with_reducible assumption) | (simp [*]; done) | split | with_reducible refine foldl_boot _ _ ?_ _ _ ?_ | intro _ | simp | simp only [*]

@[simp] theorem spillFault_boot (b : Block) (s : Step) (e : Nat × Nat) (write : Bool) :
    (spillFault b s e write).boot = b.boot := by simp [spillFault]

@[simp] theorem saveTrick_boot (id : Nat) (b : Block) :
    (saveTrick id b).boot = b.boot := by
  unfold saveTrick
  split
  · split
    · split
      · split
        · next h => have h2 := congrArg (fun r => r.1.boot) h; simp at h2; simp [h2]
        · next h => have h2 := congrArg (fun r => r.1.boot) h; simp at h2; simp [h2]
      · rfl
    · rfl
  · rfl

@[simp] theorem fillReads_boot (errs : List (Nat × ReadErr)) (l : List (Nat × Nat)) (b : Block) :
    (fillReads errs l b).boot = b.boot := by
  unfold fillReads; exact foldl_boot _ _ (fun _ _ => noteRead_boot _ _ _) _ _ rfl

@[simp] theorem fillCore_boot (b : Block) (s : Step) (m : ByteMem) (u : UnitRun) (spill : Nat) (hd : List Byte) (j : Nat) :
    (fillCore b s m u spill hd j).boot = b.boot := by simp [fillCore]

theorem fillRead_boot (b : Block) (s : Step) (errs : List (Nat × ReadErr)) (parts : List (Nat × List Nat)) :
    (∀ b1, fillRead b s errs parts = .error b1 → b1.boot = b.boot) ∧ (∀ b1, fillRead b s errs parts = .ok b1 → b1.boot = b.boot) := by
  have h0 := spillMoves_boot b s parts
  unfold fillRead
  split
  · next b1 e h =>
    rw [h] at h0
    constructor <;> intro _ hb <;> cases hb
    simpa using h0
  · next b1 h =>
    rw [h] at h0
    dsimp only
    split <;> constructor <;> intro _ hb <;> cases hb <;> simpa using h0

@[simp] theorem fillTrick_boot (id : Nat) (errs : List (Nat × ReadErr)) (b : Block) :
    (fillTrick id errs b).boot = b.boot := by
  unfold fillTrick
  split
  · split
    · dsimp only
      split
      · split
        · next h => simpa using (fillRead_boot _ _ _ _).1 _ h
        · next h =>
          have := (fillRead_boot _ _ _ _).2 _ h
          rw [modStep_boot, foldl_boot _ _ (fun _ _ => fillCore_boot _ _ _ _ _ _ _) _ _ rfl]
          simpa using this
      · rfl
    · rfl
  · rfl

@[simp] theorem loseStep_boot (b : Block) (s : Step) :
    (loseStep b s).boot = b.boot := by unfold loseStep; split <;> simp

@[simp] theorem baseRecord_boot (b : Block) (reason : Nat) (st : BitVec 16) (pa : Nat) :
    (baseRecord b reason st pa).boot = b.boot := by simp [baseRecord]

@[simp] theorem baseBroken_boot (b : Block) (i : Nat) (reason : Nat) (pa : Nat) :
    (baseBroken b i reason pa).boot = b.boot := by unfold baseBroken; split <;> simp

@[simp] theorem repairRead_boot (bad : List Nat) (b : Block) (pa : Nat) :
    (repairRead bad b pa).boot = b.boot := by simp [repairRead]

@[simp] theorem repairTile_boot (bad : List Nat) (b : Block) (e : Nat × Nat) :
    (repairTile bad b e).boot = b.boot := by
  unfold repairTile; repeat' first | rfl | split | refine foldl_boot _ _ ?_ _ _ ?_ | intro _ | simp

@[simp] theorem recoveryRound_boot (bad : List Nat) (b : Block) :
    (recoveryRound bad b).boot = b.boot := by
  unfold recoveryRound; repeat' first | with_reducible rfl | (intros; with_reducible assumption) | (simp [*]; done) | split | with_reducible refine foldl_boot _ _ ?_ _ _ ?_ | intro _ | simp | simp only [*]

@[simp] theorem creditFault_boot (b : Block) (l : List UnitRun) (tag : BitVec 16) :
    (creditFault b l tag).boot = b.boot := by simp [creditFault]

@[simp] theorem drainCheck_boot (b : Block) :
    (drainCheck b).boot = b.boot := by
  unfold drainCheck; repeat' first | with_reducible rfl | (intros; with_reducible assumption) | (simp [*]; done) | split | with_reducible refine foldl_boot _ _ ?_ _ _ ?_ | intro _ | simp | simp only [*]

@[simp] theorem fnEnable_boot (fn : Nat) (b : Block) :
    (fnEnable fn b).boot = b.boot := by
  unfold fnEnable; repeat' first | rfl | split | refine foldl_boot _ _ ?_ _ _ ?_ | intro _ | simp

@[simp] theorem stopFn_boot (b : Block) (fn : Nat) :
    (stopFn b fn).boot = b.boot := by unfold stopFn; split <;> simp

@[simp] theorem tdispError_boot (b : Block) (vf : Nat) :
    (tdispError b vf).boot = b.boot := by
  unfold tdispError; (repeat' split) <;> simp

@[simp] theorem fnDisable_boot (fn : Nat) (b : Block) :
    (fnDisable fn b).boot = b.boot := by unfold fnDisable; split <;> simp

@[simp] theorem stoppingDone_boot (fn : Nat) (b : Block) :
    (stoppingDone fn b).boot = b.boot := by unfold stoppingDone; split <;> simp

@[simp] theorem aqConfigWrite_boot (fn : Nat) (offset : Nat) (width : Nat) (v : BitVec 64) (b : Block) :
    (aqConfigWrite fn offset width v b).boot = b.boot := by unfold aqConfigWrite; split <;> simp

@[simp] theorem sqDoorbell_boot (fn : Nat) (width : Nat) (v : BitVec 64) (b : Block) :
    (sqDoorbell fn width v b).boot = b.boot := by
  unfold sqDoorbell; repeat' first | with_reducible rfl | (intros; with_reducible assumption) | (simp [*]; done) | split | with_reducible refine foldl_boot _ _ ?_ _ _ ?_ | intro _ | simp | simp only [*]

@[simp] theorem cqDoorbell_boot (fn : Nat) (width : Nat) (v : BitVec 64) (b : Block) :
    (cqDoorbell fn width v b).boot = b.boot := by
  unfold cqDoorbell; repeat' first | with_reducible rfl | (intros; with_reducible assumption) | (simp [*]; done) | split | with_reducible refine foldl_boot _ _ ?_ _ _ ?_ | intro _ | simp | simp only [*]

@[simp] theorem doNop_boot (id : Nat) (b : Block) :
    (doNop id b).boot = b.boot := by simp [doNop]

@[simp] theorem thermSample_boot (alerts : BitVec 12) (pwr : BitVec 32) (valid : Bool) (b : Block) :
    (thermSample alerts pwr valid b).boot = b.boot := by
  unfold thermSample; (repeat' split) <;> simp

@[simp] theorem setTb_boot (b : Block) (f : TimeBase → TimeBase) :
    (setTb b f).boot = b.boot := by simp [setTb]

@[simp] theorem edgeInRound_boot (c : Nat) (b : Block) :
    (edgeInRound c b).boot = b.boot := by simp [edgeInRound]

@[simp] theorem edgeInWindow_boot (c : Nat) (b : Block) :
    (edgeInWindow c b).boot = b.boot := by simp [edgeInWindow]

@[simp] theorem showClosed_boot (b : Block) :
    (showClosed b).boot = b.boot := by simp [showClosed]

@[simp] theorem trimRoundEnd_boot (b : Block) :
    (trimRoundEnd b).boot = b.boot := by unfold trimRoundEnd; split <;> simp

@[simp] theorem idleTick_boot (b : Block) :
    (idleTick b).boot = b.boot := by unfold idleTick; split <;> simp

@[simp] theorem calendarSwitch_boot (b : Block) :
    (calendarSwitch b).boot = b.boot := by
  unfold calendarSwitch; repeat' first | rfl | split | refine foldl_boot _ _ ?_ _ _ ?_ | intro _ | simp

@[simp] theorem refreshRate_boot (b : Block) :
    (refreshRate b).boot = b.boot := by unfold refreshRate; split <;> simp

@[simp] theorem setAcctRing_boot (b : Block) (r : AcRing) :
    (setAcctRing b r).boot = b.boot := by simp [setAcctRing]

@[simp] theorem acctRecord_boot (b : Block) (bs : List Byte) :
    (acctRecord b bs).boot = b.boot := by
  unfold acctRecord; repeat' first | rfl | split | refine foldl_boot _ _ ?_ _ _ ?_ | intro _ | simp

@[simp] theorem afterClose_boot (k : Nat) (b : Block) :
    (afterClose k b).boot = b.boot := by simp [afterClose]

@[simp] theorem accountingClose_boot (b : Block) :
    (accountingClose b).boot = b.boot := by
  unfold accountingClose; repeat' first | rfl | split | refine foldl_boot _ _ ?_ _ _ ?_ | intro _ | simp

@[simp] theorem doPlanLoad_boot (q : QRef) (va : BitVec 64) (length : BitVec 32) (id : Nat) (b : Block) :
    (doPlanLoad q va length id b).boot = b.boot := by unfold doPlanLoad; split <;> simp

theorem copyTiles_boot (tag va n res : Nat) (errs : List (Nat × ReadErr)) (l : List TilePlace) : ∀ (st : Block × ByteMem),
    (∀ s, copyTiles tag va n res errs l st = .ok s → s.1.boot = st.1.boot) ∧
      (∀ e, copyTiles tag va n res errs l st = .error e → e.1.boot = st.1.boot) := by
  induction l with
  | nil => intro st; constructor <;> (intro _ h; simp only [copyTiles] at h; cases h); rfl
  | cons p l ih =>
    intro st
    simp only [copyTiles]
    split
    · constructor <;> (intro _ h; cases h)
      simp
    · constructor
      · intro s h; have := (ih _).1 _ h; simpa using this
      · intro s h; have := (ih _).2 _ h; simpa using this

@[simp] theorem copyRound_boot (b : Block) (id : Nat) (tag : Nat) (va : Nat) (n : Nat) (k : Nat) (p : Part) (c : Ctx) (l : List TilePlace) (image : ByteMem) (errs : List (Nat × ReadErr)) :
    (copyRound b id tag va n k p c l image errs).boot = b.boot := by
  unfold copyRound
  split
  · next h => simpa using (copyTiles_boot _ _ _ _ _ _ _).2 _ h
  · next h => split <;> simpa using (copyTiles_boot _ _ _ _ _ _ _).1 _ h

@[simp] theorem sealPlan_boot (b : Block) (id : Nat) (vf : Nat) (tag : Nat) (n : Nat) (p : Part) (c : Ctx) (image : ByteMem) (hash : BitVec 384) :
    (sealPlan b id vf tag n p c image hash).boot = b.boot := by simp [sealPlan]

@[simp] theorem verifyCmd_boot (b : Block) (k : Cmd) (errs : List (Nat × ReadErr)) :
    (verifyCmd b k errs).boot = b.boot := by
  unfold verifyCmd; (repeat' split) <;> simp

@[simp] theorem planVerifyRound_boot (fn : Nat) (errs : List (Nat × ReadErr)) (b : Block) :
    (planVerifyRound fn errs b).boot = b.boot := by
  unfold planVerifyRound; (repeat' split) <;> simp

@[simp] theorem doPlanUnload_boot (q : QRef) (handle : BitVec 32) (id : Nat) (b : Block) :
    (doPlanUnload q handle id b).boot = b.boot := by
  unfold doPlanUnload; (repeat' split) <;> simp

@[simp] theorem addQueue_boot (b : Block) (tag : Nat) (kind : BitVec 8) (index : BitVec 8) (vector : BitVec 8) (entriesLog2 : BitVec 8) (ring : BitVec 64) (level : BitVec 4) :
    (addQueue b tag kind index vector entriesLog2 ring level).boot = b.boot := by simp [addQueue]

@[simp] theorem doQueueCreate_boot (q : QRef) (h : Hdr) (kind : BitVec 8) (index : BitVec 8) (level : BitVec 8) (vector : BitVec 8) (entriesLog2 : BitVec 8) (ring : BitVec 64) (id : Nat) (b : Block) :
    (doQueueCreate q h kind index level vector entriesLog2 ring id b).boot = b.boot := by
  unfold doQueueCreate; (repeat' split) <;> simp

@[simp] theorem doQueueDestroy_boot (q : QRef) (h : Hdr) (kind : BitVec 8) (index : BitVec 8) (id : Nat) (b : Block) :
    (doQueueDestroy q h kind index id b).boot = b.boot := by
  unfold doQueueDestroy; (repeat' split) <;> simp

@[simp] theorem doCtxCreate_boot (q : QRef) (fencePage : BitVec 64) (fenceCount : BitVec 32) (spill : BitVec 64) (spillTiles : BitVec 32) (id : Nat) (b : Block) :
    (doCtxCreate q fencePage fenceCount spill spillTiles id b).boot = b.boot := by
  unfold doCtxCreate; (repeat' split) <;> simp

@[simp] theorem abortCtx_boot (b : Block) (tag : BitVec 16) (st : BitVec 16) :
    (abortCtx b tag st).boot = b.boot := by
  unfold abortCtx; repeat' first | rfl | split | refine foldl_boot _ _ ?_ _ _ ?_ | intro _ | simp

@[simp] theorem doCtxDestroy_boot (q : QRef) (h : Hdr) (id : Nat) (b : Block) :
    (doCtxDestroy q h id b).boot = b.boot := by unfold doCtxDestroy; split <;> simp

@[simp] theorem wipeMet_boot (b : Block) (d : PartDesc) :
    (wipeMet b d).boot = b.boot := by unfold wipeMet; split <;> simp

@[simp] theorem setStaged_boot (b : Block) (t : Tab (BitVec 6)) :
    (setStaged b t).boot = b.boot := by simp [setStaged]

@[simp] theorem stageSealed_boot (b : Block) (vf : Nat) (d : PartDesc) :
    (stageSealed b vf d).boot = b.boot := by
  unfold stageSealed; split <;> rfl

@[simp] theorem makePart_boot (b : Block) (vf : Nat) (d : PartDesc) :
    (makePart b vf d).boot = b.boot := by simp [makePart]

@[simp] theorem createFrom_boot (v : Nat) (raw : List Byte) (id : Nat) (b : Block) :
    (createFrom v raw id b).boot = b.boot := by
  unfold createFrom; repeat' first | rfl | split | refine foldl_boot _ _ ?_ _ _ ?_ | intro _ | simp

@[simp] theorem doPartCreate_boot (vf : BitVec 8) (descriptor : BitVec 64) (id : Nat) (b : Block) :
    (doPartCreate vf descriptor id b).boot = b.boot := by
  unfold doPartCreate; repeat' first | with_reducible rfl | (intros; with_reducible assumption) | (simp [*]; done) | split | with_reducible refine foldl_boot _ _ ?_ _ _ ?_ | intro _ | simp | simp only [*]

@[simp] theorem suppressCmds_boot (b : Block) (p : Cmd → Bool) :
    (suppressCmds b p).boot = b.boot := by simp [suppressCmds]

@[simp] theorem suppressFn_boot (b : Block) (fn : Nat) :
    (suppressFn b fn).boot = b.boot := by simp [suppressFn]

@[simp] theorem abortCtxs_boot (b : Block) (fn : Nat) :
    (abortCtxs b fn).boot = b.boot := by
  unfold abortCtxs; repeat' first | rfl | split | refine foldl_boot _ _ ?_ _ _ ?_ | intro _ | simp

@[simp] theorem abortFn_boot (b : Block) (fn : Nat) :
    (abortFn b fn).boot = b.boot := by simp [abortFn]

@[simp] theorem startDestroy_boot (b : Block) (vf : Nat) (id : Nat) :
    (startDestroy b vf id).boot = b.boot := by
  unfold startDestroy; (repeat' split) <;> simp

@[simp] theorem doPartDestroy_boot (vf : BitVec 8) (id : Nat) (b : Block) :
    (doPartDestroy vf id b).boot = b.boot := by unfold doPartDestroy; split <;> simp

@[simp] theorem forgetKeys_boot (b : Block) (vf : Nat) :
    (forgetKeys b vf).boot = b.boot := by simp [forgetKeys]

@[simp] theorem removePart_boot (b : Block) (vf : Nat) (p : Part) :
    (removePart b vf p).boot = b.boot := by
  unfold removePart; repeat' first | rfl | split | refine foldl_boot _ _ ?_ _ _ ?_ | intro _ | simp

@[simp] theorem partEnds_boot (b : Block) (vf : Nat) :
    (partEnds b vf).boot = b.boot := by
  unfold partEnds; repeat' first | rfl | split | refine foldl_boot _ _ ?_ _ _ ?_ | intro _ | simp

@[simp] theorem restLoads_boot (b : Block) (fn : Nat) :
    (restLoads b fn).boot = b.boot := by simp [restLoads]

@[simp] theorem doPartFreeze_boot (vf : BitVec 8) (id : Nat) (b : Block) :
    (doPartFreeze vf id b).boot = b.boot := by
  unfold doPartFreeze; repeat' first | rfl | split | refine foldl_boot _ _ ?_ _ _ ?_ | intro _ | simp

@[simp] theorem doCalendarSet_boot (firstQuad : BitVec 16) (quads : BitVec 16) (table : BitVec 64) (id : Nat) (b0 : Block) :
    (doCalendarSet firstQuad quads table id b0).boot = b0.boot := by
  unfold doCalendarSet; repeat' first | rfl | split | refine foldl_boot _ _ ?_ _ _ ?_ | intro _ | simp

@[simp] theorem zeroAll_boot (b : Block) :
    (zeroAll b).boot = b.boot := by simp [zeroAll]

@[simp] theorem unlockMemory_boot (b : Block) :
    (unlockMemory b).boot = b.boot := by simp [unlockMemory]

@[simp] theorem useGrant_boot (b : Block) :
    (useGrant b).boot = b.boot := by simp [useGrant]

@[simp] theorem unlockEnds_boot (b : Block) :
    (unlockEnds b).boot = b.boot := by
  unfold unlockEnds; (repeat' split) <;> simp

@[simp] theorem doDebugUnlock_boot (id : Nat) (b : Block) :
    (doDebugUnlock id b).boot = b.boot := by
  unfold doDebugUnlock; repeat' first | rfl | split | refine foldl_boot _ _ ?_ _ _ ?_ | intro _ | simp

@[simp] theorem guestPacket_boot (i : Instr) (id : Nat) (b : Block) :
    (guestPacket i id b).boot = b.boot := by unfold guestPacket; split <;> simp

@[simp] theorem retryWaiting_boot (b : Block) :
    (retryWaiting b).boot = b.boot := by
  unfold retryWaiting; repeat' first | rfl | split | refine foldl_boot _ _ ?_ _ _ ?_ | intro _ | simp

@[simp] theorem thawCmd_boot (fn : Nat) (b : Block) (k : Cmd) :
    (thawCmd fn b k).boot = b.boot := by unfold thawCmd; (repeat' split) <;> simp

@[simp] theorem doPartThaw_boot (vf : BitVec 8) (id : Nat) (b : Block) :
    (doPartThaw vf id b).boot = b.boot := by
  unfold doPartThaw; repeat' first | rfl | split | refine foldl_boot _ _ ?_ _ _ ?_ | intro _ | simp

@[simp] theorem readSavedTiles_boot (b : Block) (vf : Nat) (p : Part) :
    (readSavedTiles b vf p).boot = b.boot := by
  unfold readSavedTiles; repeat' first | rfl | split | refine foldl_boot _ _ ?_ _ _ ?_ | intro _ | simp

@[simp] theorem doPartSave_boot (vf : BitVec 8) (image : BitVec 64) (capacity : BitVec 64) (id : Nat) (b : Block) :
    (doPartSave vf image capacity id b).boot = b.boot := by
  unfold doPartSave; repeat' first | with_reducible rfl | (intros; with_reducible assumption) | (simp [*]; done) | split | with_reducible refine foldl_boot _ _ ?_ _ _ ?_ | intro _ | simp | simp only [*]

@[simp] theorem putSaved_boot (p : Part) (b : Block) (t : Nat × List Byte × BitVec 32) :
    (putSaved p b t).boot = b.boot := by simp [putSaved]

@[simp] theorem putWork_boot (b : Block) (s : Saved) :
    (putWork b s).boot = b.boot := by simp [putWork]

@[simp] theorem putFn_boot (b : Block) (vf : Nat) (f : SavedFn) :
    (putFn b vf f).boot = b.boot := by simp [putFn]

@[simp] theorem restoreAll_boot (b : Block) (vf : Nat) (raw : List Byte) (s : Saved) :
    (restoreAll b vf raw s).boot = b.boot := by
  unfold restoreAll; repeat' first | rfl | split | refine foldl_boot _ _ ?_ _ _ ?_ | intro _ | simp

@[simp] theorem restoreEnds_boot (b : Block) (vf : Nat) :
    (restoreEnds b vf).boot = b.boot := by simp [restoreEnds]

@[simp] theorem restoreFrom_boot (v : Nat) (img : List Byte) (id : Nat) (b : Block) :
    (restoreFrom v img id b).boot = b.boot := by
  unfold restoreFrom; repeat' first | with_reducible rfl | (intros; with_reducible assumption) | (simp [*]; done) | split | with_reducible refine foldl_boot _ _ ?_ _ _ ?_ | intro _ | simp | simp only [*]

@[simp] theorem doPartRestore_boot (vf : BitVec 8) (image : BitVec 64) (bytes : BitVec 64) (id : Nat) (b : Block) :
    (doPartRestore vf image bytes id b).boot = b.boot := by
  unfold doPartRestore; repeat' first | rfl | split | refine foldl_boot _ _ ?_ _ _ ?_ | intro _ | simp

@[simp] theorem doPacket_boot (i : Instr) (id : Nat) (b : Block) :
    (doPacket i id b).boot = b.boot := by unfold doPacket; split <;> simp

@[simp] theorem cqEntryReserve_boot (fn : Nat) (b : Block) :
    (cqEntryReserve fn b).boot = b.boot := by
  unfold cqEntryReserve; (repeat' split) <;> simp

@[simp] theorem stopFreezes_boot (b : Block) (v : Nat) :
    (stopFreezes b v).boot = b.boot := by simp [stopFreezes]

@[simp] theorem stopVf_boot (b : Block) (v : Nat) :
    (stopVf b v).boot = b.boot := by simp [stopVf]

@[simp] theorem dropAnswers_boot (b : Block) :
    (dropAnswers b).boot = b.boot := by simp [dropAnswers]

@[simp] theorem stopManager_boot (b : Block) :
    (stopManager b).boot = b.boot := by simp [stopManager]

@[simp] theorem perFunctionReset_boot (fn : Nat) (b : Block) :
    (perFunctionReset fn b).boot = b.boot := by
  unfold perFunctionReset; repeat' first | with_reducible rfl | (intros; with_reducible assumption) | (simp [*]; done) | split | with_reducible refine foldl_boot _ _ ?_ _ _ ?_ | intro _ | simp | simp only [*]

@[simp] theorem pf0Reset_boot (b : Block) :
    (pf0Reset b).boot = b.boot := by simp [pf0Reset]

@[simp] theorem perFunctionResetComplete_boot (fn : Nat) (b : Block) :
    (perFunctionResetComplete fn b).boot = b.boot := by
  unfold perFunctionResetComplete; (repeat' split) <;> simp

@[simp] theorem presenceGrant_boot (b : Block) :
    (presenceGrant b).boot = b.boot := by
  unfold presenceGrant; repeat' first | rfl | split | refine foldl_boot _ _ ?_ _ _ ?_ | intro _ | simp

@[simp] theorem presenceExpiry_boot (b : Block) :
    (presenceExpiry b).boot = b.boot := by unfold presenceExpiry; split <;> simp

@[simp] theorem setGrotto_boot (b : Block) (g : Grotto → Grotto) :
    (setGrotto b g).boot = b.boot := by simp [setGrotto]

@[simp] theorem rcvReply_boot (b : Block) (status : Nat) :
    (rcvReply b status).boot = b.boot := by simp [rcvReply]

@[simp] theorem trainingResults_boot (b : Block) (d : Build) (t : Training) :
    (trainingResults b d t).boot = b.boot := by simp [trainingResults]

@[simp] theorem zeroAtStart_boot (b : Block) :
    (zeroAtStart b).boot = b.boot := by simp [zeroAtStart]

@[simp] theorem newBlockKey_boot (b : Block) :
    (newBlockKey b).boot = b.boot := by simp [newBlockKey]

@[simp] theorem opJob_boot (core : Nat) (t : Nat) (op : CoreOp) (b : Block) :
    (opJob core t op b).boot = b.boot := by unfold opJob; split <;> simp

@[simp] theorem slotAct_boot (old : Core) (core : Nat) (t : Nat) (descs : List (BitVec 256)) (b : Block) (o : SlotOp) :
    (slotAct old core t descs b o).boot = b.boot := by
  unfold slotAct; (repeat' split) <;> simp

@[simp] theorem modRun_boot (b : Block) (core : Nat) (g : UnitRun → UnitRun) :
    (modRun b core g).boot = b.boot := by simp [modRun]

@[simp] theorem signalSem_boot (core : Nat) (t : Nat) (sem : Nat) (amount : Nat) (b : Block) :
    (signalSem core t sem amount b).boot = b.boot := by simp [signalSem]

@[simp] theorem waitSem_boot (core : Nat) (t : Nat) (sem : Nat) (amount : Nat) (b : Block) :
    (waitSem core t sem amount b).boot = b.boot := by
  unfold waitSem; (repeat' split) <;> simp

@[simp] theorem controlAct_boot (core : Nat) (t : Nat) (ctl : CtlOp) (b : Block) :
    (controlAct core t ctl b).boot = b.boot := by unfold controlAct; split <;> simp

@[simp] theorem engineAct_boot (core : Nat) (w : BitVec 128) (b : Block) :
    (engineAct core w b).boot = b.boot := by unfold engineAct; split <;> simp

@[simp] theorem issueWord_boot (core : Nat) (g : Segment) (w : BitVec 128) (b : Block) :
    (issueWord core g w b).boot = b.boot := by
  unfold issueWord; repeat' first | rfl | split | refine foldl_boot _ _ ?_ _ _ ?_ | intro _ | simp

@[simp] theorem bundleIssue_boot (core : Nat) (err : CoreErr) (errs : List TickErr) (b : Block) :
    (bundleIssue core err errs b).boot = b.boot := by
  unfold bundleIssue; repeat' first | with_reducible rfl | (intros; with_reducible assumption) | (simp [*]; done) | split | with_reducible refine foldl_boot _ _ ?_ _ _ ?_ | intro _ | simp | simp only [*]

@[simp] theorem onCore_boot (core : Nat) (f : Core → Nat → Block → Block) (b : Block) (h_f : ∀ y0 y1 y2, (f y0 y1 y2).boot = y2.boot) :
    (onCore core f b).boot = b.boot := by
  unfold onCore; repeat' first | with_reducible rfl | (intros; with_reducible assumption) | (simp [*]; done) | split | with_reducible refine foldl_boot _ _ ?_ _ _ ?_ | intro _ | simp | simp only [*]

@[simp] theorem onControl_boot (core : Nat) (ctl : CtlOp) (b : Block) :
    (onControl core ctl b).boot = b.boot := by simp [onControl]

@[simp] theorem scrubCore_boot (core : Nat) (b : Block) :
    (scrubCore core b).boot = b.boot := by
  unfold scrubCore; (repeat' split) <;> simp

@[simp] theorem markMoved_boot (b : Block) (u : UnitRun) (core : Nat) :
    (markMoved b u core).boot = b.boot := by simp [markMoved]

@[simp] theorem stateSave_boot (core : Nat) (b : Block) :
    (stateSave core b).boot = b.boot := by
  unfold stateSave
  split
  · split
    · dsimp only
      split
      · rfl
      · split
        · split
          · next h => have h2 := congrArg (fun r => r.1.boot) h; simp at h2; simp [h2]
          · next h => have h2 := congrArg (fun r => r.1.boot) h; simp at h2; simp [h2]
        · split
          · split
            · next h => simpa using (fillRead_boot _ _ _ _).1 _ h
            · next h => simpa using (fillRead_boot _ _ _ _).2 _ h
          · rfl
    · rfl
  · rfl

@[simp] theorem chargeXfer_boot (b : Block) (x : Xfer) :
    (chargeXfer b x).boot = b.boot := by simp [chargeXfer]

@[simp] theorem checkFails_boot (b : Block) (core : Nat) (x : Xfer) (reason : Nat) :
    (checkFails b core x reason).boot = b.boot := by unfold checkFails; split <;> simp

@[simp] theorem endLoad_boot (core : Nat) (err : ReadErr) (x : Xfer) (b : Block) :
    (endLoad core err x b).boot = b.boot := by unfold endLoad; (repeat' split) <;> simp

@[simp] theorem endXfer_boot (core : Nat) (err : ReadErr) (k : Nat) (x : Xfer) (b : Block) :
    (endXfer core err k x b).boot = b.boot := by
  unfold endXfer; repeat' first | rfl | split | refine foldl_boot _ _ ?_ _ _ ?_ | intro _ | simp

@[simp] theorem completeXfer_boot (core : Nat) (err : ReadErr) (x : Xfer) (b : Block) :
    (completeXfer core err x b).boot = b.boot := by
  unfold completeXfer; repeat' first | with_reducible rfl | (intros; with_reducible assumption) | (simp [*]; done) | split | with_reducible refine foldl_boot _ _ ?_ _ _ ?_ | intro _ | simp | simp only [*]

@[simp] theorem transferComplete_boot (core : Nat) (err : ReadErr) (errs : List TickErr) (b : Block) :
    (transferComplete core err errs b).boot = b.boot := by
  unfold transferComplete; repeat' first | with_reducible rfl | (intros; with_reducible assumption) | (simp [*]; done) | split | with_reducible refine foldl_boot _ _ ?_ _ _ ?_ | intro _ | simp | simp only [*]

@[simp] theorem invalidationRequest_boot (d : BitVec 128) (b : Block) :
    (invalidationRequest d b).boot = b.boot := by
  unfold invalidationRequest; repeat' first | with_reducible rfl | (intros; with_reducible assumption) | (simp [*]; done) | split | with_reducible refine foldl_boot _ _ ?_ _ _ ?_ | intro _ | simp | simp only [*]

@[simp] theorem dropL2_boot (b : Block) (sc : Scope) :
    (dropL2 b sc).boot = b.boot := by simp [dropL2]

@[simp] theorem dropL1_boot (b : Block) (sc : Scope) :
    (dropL1 b sc).boot = b.boot := by simp [dropL1]

@[simp] theorem applyS2_boot (b : Block) :
    (applyS2 b).boot = b.boot := by unfold applyS2; split <;> simp

@[simp] theorem invalFollows_boot (b : Block) (v : Inval) :
    (invalFollows b v).boot = b.boot := by
  unfold invalFollows; (repeat' split) <;> simp

@[simp] theorem invalidationComplete_boot (id : Nat) (b : Block) :
    (invalidationComplete id b).boot = b.boot := by
  unfold invalidationComplete; (repeat' split) <;> simp

@[simp] theorem setXlat_boot (b : Block) (g : Xlat → Xlat) :
    (setXlat b g).boot = b.boot := by simp [setXlat]

@[simp] theorem s2Read_boot (value : BitVec 32) (b : Block) :
    (s2Read value b).boot = b.boot := by
  unfold s2Read; (repeat' split) <;> simp

@[simp] theorem s2Write_boot (value : BitVec 32) (b : Block) :
    (s2Write value b).boot = b.boot := by
  unfold s2Write; repeat' first | with_reducible rfl | (intros; with_reducible assumption) | (simp [*]; done) | split | with_reducible refine foldl_boot _ _ ?_ _ _ ?_ | intro _ | simp | simp only [*]

@[simp] theorem ppsPinWrite_boot (w : BitVec 32) (b : Block) :
    (ppsPinWrite w b).boot = b.boot := by
  unfold ppsPinWrite; (repeat' split) <;> simp

@[simp] theorem tbNowLatch_boot (b : Block) :
    (tbNowLatch b).boot = b.boot := by unfold tbNowLatch; split <;> simp

@[simp] theorem faultCtrl_boot (w : BitVec 32) (b : Block) :
    (faultCtrl w b).boot = b.boot := by unfold faultCtrl; split <;> simp

@[simp] theorem acctCtrl_boot (w : BitVec 32) (b : Block) :
    (acctCtrl w b).boot = b.boot := by unfold acctCtrl; split <;> simp

@[simp] theorem ltStart_boot (b : Block) :
    (ltStart b).boot = b.boot := by simp [ltStart]

@[simp] theorem ltFire_boot (b : Block) :
    (ltFire b).boot = b.boot := by simp [ltFire]

@[simp] theorem ltCtrl_boot (w : BitVec 32) (b : Block) :
    (ltCtrl w b).boot = b.boot := by
  unfold ltCtrl; repeat' first | rfl | split | refine foldl_boot _ _ ?_ _ _ ?_ | intro _ | simp

@[simp] theorem lanternDump_boot (v : BitVec 64) (b : Block) :
    (lanternDump v b).boot = b.boot := by unfold lanternDump; split <;> simp

@[simp] theorem lanternStop_boot (b : Block) :
    (lanternStop b).boot = b.boot := by unfold lanternStop; split <;> simp

@[simp] theorem ltBufWrite_boot (w : BitVec 32) (b : Block) :
    (ltBufWrite w b).boot = b.boot := by simp [ltBufWrite]

@[simp] theorem clearWord_boot (fn : Nat) (b : Block) (off : Nat) (w : BitVec 32) :
    (clearWord fn b off w).boot = b.boot := by
  unfold clearWord; (repeat' split) <;> simp

@[simp] theorem fnWord_boot (fn : Nat) (b : Block) (off : Nat) (w : BitVec 32) :
    (fnWord fn b off w).boot = b.boot := by
  unfold fnWord; (repeat' split) <;> simp

@[simp] theorem acWord_boot (b : Block) (off : Nat) (w : BitVec 32) :
    (acWord b off w).boot = b.boot := by
  unfold acWord; repeat' first | with_reducible rfl | (intros; with_reducible assumption) | (simp [*]; done) | split | with_reducible refine foldl_boot _ _ ?_ _ _ ?_ | intro _ | simp | simp only [*]

@[simp] theorem clearHot_boot (b : Block) (k : Nat) (w : BitVec 32) :
    (clearHot b k w).boot = b.boot := by unfold clearHot; split <;> simp

@[simp] theorem xlWord_boot (b : Block) (off : Nat) (w : BitVec 32) :
    (xlWord b off w).boot = b.boot := by
  unfold xlWord; (repeat' split) <;> simp

@[simp] theorem pf0Word_boot (b : Block) (off : Nat) (w : BitVec 32) :
    (pf0Word b off w).boot = b.boot := by
  unfold pf0Word; repeat' first | with_reducible rfl | (intros; with_reducible assumption) | (simp [*]; done) | split | with_reducible refine foldl_boot _ _ ?_ _ _ ?_ | intro _ | simp | simp only [*]

@[simp] theorem regWord_boot (fn : Nat) (b : Block) (off : Nat) (w : BitVec 32) :
    (regWord fn b off w).boot = b.boot := by
  unfold regWord; (repeat' split) <;> simp

@[simp] theorem registerWrite_boot (fn : Nat) (off : Nat) (width : Nat) (v : BitVec 64) (b : Block) :
    (registerWrite fn off width v b).boot = b.boot := by
  unfold registerWrite
  repeat' first | with_reducible rfl | (intros; with_reducible assumption) | (simp [*]; done) | split | with_reducible refine foldl_boot _ _ ?_ _ _ ?_ | intro _ | simp | simp only [*]
  simp only [byWords]
  repeat' first | with_reducible rfl | (intros; with_reducible assumption) | (simp [*]; done) | split | with_reducible refine foldl_boot _ _ ?_ _ _ ?_ | intro _ | simp | simp only [*]

@[simp] theorem jtagInst_boot (inst : JtagInst) (b : Block) :
    (jtagInst inst b).boot = b.boot := by
  unfold jtagInst; repeat' first | rfl | split | refine foldl_boot _ _ ?_ _ _ ?_ | intro _ | simp

@[simp] theorem answer_boot (b : Block) (fn : Nat) (act : Block → Block × GrottoReply) (h_act : ∀ y0, (act y0).1.boot = y0.boot) :
    (answer b fn act).boot = b.boot := by
  unfold answer; repeat' first | with_reducible rfl | (intros; with_reducible assumption) | (simp [*]; done) | split | with_reducible refine foldl_boot _ _ ?_ _ _ ?_ | intro _ | simp | simp only [*]

@[simp] theorem answerIn_boot (b : Block) (fn : Nat) (act : Block → Block × GrottoReply) (h_act : ∀ y0, (act y0).1.boot = y0.boot) :
    (answerIn b fn act).boot = b.boot := by
  unfold answerIn
  refine answer_boot _ _ _ ?_
  intro c
  split
  · exact h_act c
  · rfl

@[simp] theorem answerWith_boot (b : Block) (fn : Nat) (act : Block → Block × GrottoReply) (h_act : ∀ y0, (act y0).1.boot = y0.boot) :
    (answerWith b fn act).boot = b.boot := by
  unfold answerWith; repeat' first | with_reducible rfl | (intros; with_reducible assumption) | (simp [*]; done) | split | with_reducible refine foldl_boot _ _ ?_ _ _ ?_ | (with_reducible refine answer_boot _ _ _ ?_) | (with_reducible refine answerIn_boot _ _ _ ?_) | (with_reducible refine answerWith_boot _ _ _ ?_) | intro _ | simp | simp only [*]

@[simp] theorem getVersion_boot (fn : Nat) (b : Block) :
    (getVersion fn b).boot = b.boot := by simp [getVersion]

@[simp] theorem getCapabilities_boot (fn : Nat) (b : Block) :
    (getCapabilities fn b).boot = b.boot := by simp [getCapabilities]

@[simp] theorem negotiate_boot (fn : Nat) (offered : Bool) (b : Block) :
    (negotiate fn offered b).boot = b.boot := by simp [negotiate]

@[simp] theorem getDigests_boot (fn : Nat) (b : Block) :
    (getDigests fn b).boot = b.boot := by simp [getDigests]

@[simp] theorem getCertificate_boot (fn : Nat) (offset : BitVec 16) (length : BitVec 16) (b : Block) :
    (getCertificate fn offset length b).boot = b.boot := by simp [getCertificate]

@[simp] theorem challenge_boot (fn : Nat) (nonce : BitVec 256) (b : Block) :
    (challenge fn nonce b).boot = b.boot := by simp [challenge]

@[simp] theorem getMeasurements_boot (fn : Nat) (index : BitVec 8) (nonce : BitVec 256) (b : Block) :
    (getMeasurements fn index nonce b).boot = b.boot := by simp [getMeasurements]

@[simp] theorem keyExchange_boot (fn : Nat) (session : BitVec 16) (exchange : BitVec 768) (b : Block) :
    (keyExchange fn session exchange b).boot = b.boot := by simp [keyExchange]

@[simp] theorem sessionUp_boot (b : Block) (fn : Nat) (s : Session) :
    (sessionUp b fn s).boot = b.boot := by simp [sessionUp]

@[simp] theorem finishSession_boot (fn : Nat) (mac : BitVec 384) (b : Block) :
    (finishSession fn mac b).boot = b.boot := by
  unfold finishSession; repeat' first | with_reducible rfl | (intros; with_reducible assumption) | (simp [*]; done) | split | with_reducible refine foldl_boot _ _ ?_ _ _ ?_ | (with_reducible refine answer_boot _ _ _ ?_) | (with_reducible refine answerIn_boot _ _ _ ?_) | intro _ | simp | simp only [*]

@[simp] theorem keyUpdate_boot (fn : Nat) (b : Block) :
    (keyUpdate fn b).boot = b.boot := by simp [keyUpdate]

@[simp] theorem endSession_boot (fn : Nat) (b : Block) :
    (endSession fn b).boot = b.boot := by unfold endSession; split <;> simp

@[simp] theorem setMigrationKey_boot (fn : Nat) (vf : BitVec 8) (key : BitVec 256) (b : Block) :
    (setMigrationKey fn vf key b).boot = b.boot := by
  unfold setMigrationKey; repeat' first | with_reducible rfl | (intros; with_reducible assumption) | (simp [*]; done) | split | with_reducible refine foldl_boot _ _ ?_ _ _ ?_ | (with_reducible refine answer_boot _ _ _ ?_) | (with_reducible refine answerIn_boot _ _ _ ?_) | intro _ | simp | simp only [*]

@[simp] theorem haltAll_boot (b : Block) :
    (haltAll b).boot = b.boot := by
  unfold haltAll; repeat' first | rfl | split | refine foldl_boot _ _ ?_ _ _ ?_ | intro _ | simp

@[simp] theorem eraseAll_boot (b : Block) :
    (eraseAll b).boot = b.boot := by
  unfold eraseAll; repeat' first | rfl | split | refine foldl_boot _ _ ?_ _ _ ?_ | intro _ | simp

@[simp] theorem decommission_boot (fn : Nat) (b : Block) :
    (decommission fn b).boot = b.boot := by unfold decommission; split <;> simp

@[simp] theorem lockInterface_boot (vf : BitVec 8) (stream : BitVec 8) (b : Block) :
    (lockInterface vf stream b).boot = b.boot := by
  unfold lockInterface; repeat' first | with_reducible rfl | (intros; with_reducible assumption) | (simp [*]; done) | split | with_reducible refine foldl_boot _ _ ?_ _ _ ?_ | (with_reducible refine answer_boot _ _ _ ?_) | (with_reducible refine answerIn_boot _ _ _ ?_) | intro _ | simp | simp only [*]

@[simp] theorem startInterface_boot (vf : BitVec 8) (b : Block) :
    (startInterface vf b).boot = b.boot := by
  unfold startInterface; repeat' first | with_reducible rfl | (intros; with_reducible assumption) | (simp [*]; done) | split | with_reducible refine foldl_boot _ _ ?_ _ _ ?_ | (with_reducible refine answer_boot _ _ _ ?_) | (with_reducible refine answerIn_boot _ _ _ ?_) | intro _ | simp | simp only [*]

@[simp] theorem beginScrub_boot (b : Block) (vf : Nat) :
    (beginScrub b vf).boot = b.boot := by simp [beginScrub]

@[simp] theorem stopInterface_boot (vf : BitVec 8) (b : Block) :
    (stopInterface vf b).boot = b.boot := by unfold stopInterface; split <;> simp

@[simp] theorem interfaceState_boot (vf : BitVec 8) (b : Block) :
    (interfaceState vf b).boot = b.boot := by simp [interfaceState]

@[simp] theorem interfaceReport_boot (vf : BitVec 8) (b : Block) :
    (interfaceReport vf b).boot = b.boot := by simp [interfaceReport]

@[simp] theorem ideQuery_boot (fn : Nat) (b : Block) :
    (ideQuery fn b).boot = b.boot := by simp [ideQuery]

@[simp] theorem keyProg_boot (fn : Nat) (stream : BitVec 8) (keySet : Bool) (sub : BitVec 2) (transmit : Bool) (key : BitVec 256) (iv : BitVec 96) (accepted : Bool) (b : Block) :
    (keyProg fn stream keySet sub transmit key iv accepted b).boot = b.boot := by
  unfold keyProg; repeat' first | with_reducible rfl | (intros; with_reducible assumption) | (simp [*]; done) | split | with_reducible refine foldl_boot _ _ ?_ _ _ ?_ | (with_reducible refine answer_boot _ _ _ ?_) | (with_reducible refine answerIn_boot _ _ _ ?_) | intro _ | simp | simp only [*]

@[simp] theorem breakInsecure_boot (b : Block) :
    (breakInsecure b).boot = b.boot := by
  unfold breakInsecure; repeat' first | rfl | split | refine foldl_boot _ _ ?_ _ _ ?_ | intro _ | simp

@[simp] theorem portReport_boot (b : Block) (ids : BitVec 32) (secure : BitVec 4) :
    (portReport b ids secure).boot = b.boot := by simp [portReport]

@[simp] theorem keySetCmd_boot (fn : Nat) (stream : BitVec 8) (keySet : Bool) (sub : BitVec 2) (transmit : Bool) (go : Bool) (accepted : Bool) (ids : BitVec 32) (secure : BitVec 4) (b : Block) :
    (keySetCmd fn stream keySet sub transmit go accepted ids secure b).boot = b.boot := by
  unfold keySetCmd; repeat' first | with_reducible rfl | (intros; with_reducible assumption) | (simp [*]; done) | split | with_reducible refine foldl_boot _ _ ?_ _ _ ?_ | (with_reducible refine answer_boot _ _ _ ?_) | (with_reducible refine answerIn_boot _ _ _ ?_) | intro _ | simp | simp only [*]

@[simp] theorem fatalRecord_boot (b : Block) (reason : FatalReason) :
    (fatalRecord b reason).boot = b.boot := by simp [fatalRecord]

@[simp] theorem haltFn_boot (b : Block) (fn : Nat) :
    (haltFn b fn).boot = b.boot := by simp [haltFn]

@[simp] theorem engineFault_boot (unit : Nat) (b : Block) :
    (engineFault unit b).boot = b.boot := by
  unfold engineFault; (repeat' split) <;> simp

@[simp] theorem hostRecord_boot (b : Block) (vf : Nat) (tag : Nat) (write : Bool) (address : Nat) (command : Nat) (agents : Nat) :
    (hostRecord b vf tag write address command agents).boot = b.boot := by simp [hostRecord]

@[simp] theorem hostLoses_boot (b : Block) (tag : Nat) (write : Bool) (address : Nat) (command : Nat) (agents : Nat) :
    (hostLoses b tag write address command agents).boot = b.boot := by unfold hostLoses; split <;> simp

@[simp] theorem adminError_boot (b : Block) (fn : Nat) (write : Bool) (address : Nat) (command : Nat) :
    (adminError b fn write address command).boot = b.boot := by simp [adminError]

@[simp] theorem fenceError_boot (tag : Nat) (address : Nat) (command : Nat) (write : Bool) (b : Block) :
    (fenceError tag address command write b).boot = b.boot := by unfold fenceError; (repeat' split) <;> simp

@[simp] theorem recordFails_boot (c : Cmd) (b : Block) :
    (recordFails c b).boot = b.boot := by unfold recordFails; split <;> simp

@[simp] theorem adminSqError_boot (fn : Nat) (b : Block) :
    (adminSqError fn b).boot = b.boot := by
  unfold adminSqError; repeat' first | with_reducible rfl | (intros; with_reducible assumption) | (simp [*]; done) | split | with_reducible refine foldl_boot _ _ ?_ _ _ ?_ | (with_reducible refine answer_boot _ _ _ ?_) | (with_reducible refine answerIn_boot _ _ _ ?_) | intro _ | simp | simp only [*]

@[simp] theorem adminCqError_boot (fn : Nat) (b : Block) :
    (adminCqError fn b).boot = b.boot := by
  unfold adminCqError; (repeat' split) <;> simp

@[simp] theorem contextSqError_boot (q : QRef) (b : Block) :
    (contextSqError q b).boot = b.boot := by unfold contextSqError; split <;> simp

@[simp] theorem contextCqError_boot (fn : Nat) (tag : BitVec 16) (cq : Nat) (b : Block) :
    (contextCqError fn tag cq b).boot = b.boot := by
  unfold contextCqError; (repeat' split) <;> simp

@[simp] theorem moverError_boot (fn : Nat) (tag : BitVec 16) (cid : BitVec 16) (address : Nat) (write : Bool) (b : Block) :
    (moverError fn tag cid address write b).boot = b.boot := by unfold moverError; split <;> simp

@[simp] theorem stagingError_boot (fn : Nat) (address : Nat) (b : Block) :
    (stagingError fn address b).boot = b.boot := by
  unfold stagingError; (repeat' split) <;> simp

@[simp] theorem fetchFails_boot (i : Instr) (h : Hdr) (op : BitVec 8) (own : Nat → Block → Block) (b : Block) (h_own : ∀ y0 y1, (own y0 y1).boot = y1.boot) :
    (fetchFails i h op own b).boot = b.boot := by
  unfold fetchFails; repeat' first | with_reducible rfl | (intros; with_reducible assumption) | (simp [*]; done) | split | with_reducible refine foldl_boot _ _ ?_ _ _ ?_ | (with_reducible refine answer_boot _ _ _ ?_) | (with_reducible refine answerIn_boot _ _ _ ?_) | intro _ | simp | simp only [*]

@[simp] theorem baseLoadError_boot (b : Block) :
    (baseLoadError b).boot = b.boot := by unfold baseLoadError; split <;> simp

@[simp] theorem parameterError_boot (i : Instr) (h : Hdr) (op : BitVec 8) (b : Block) :
    (parameterError i h op b).boot = b.boot := by
  unfold parameterError; (repeat' split) <;> simp

@[simp] theorem saveImageError_boot (vf : Nat) (b : Block) :
    (saveImageError vf b).boot = b.boot := by unfold saveImageError; split <;> simp

@[simp] theorem mailboxError_boot (fn : Nat) (m : MboxSel) (b : Block) :
    (mailboxError fn m b).boot = b.boot := by unfold mailboxError; split <;> simp

@[simp] theorem replyError_boot (fn : Nat) (m : MboxSel) (write : Nat) (b : Block) :
    (replyError fn m write b).boot = b.boot := by unfold replyError; split <;> simp

@[simp] theorem faultRingError_boot (b : Block) :
    (faultRingError b).boot = b.boot := by unfold faultRingError; split <;> simp

@[simp] theorem acctRingError_boot (b : Block) :
    (acctRingError b).boot = b.boot := by unfold acctRingError; split <;> simp

@[simp] theorem dumpError_boot (b : Block) : (dumpError b).boot = b.boot := by
  unfold dumpError
  cases h : b.lantern.dumping
  · simp only [h, Bool.false_eq_true, if_false]
  · simp only [h, if_true]
    rw [modLantern_boot, failWrite_boot]

@[simp] theorem bootImageError_boot (b : Block) :
    (bootImageError b).boot = b.boot := by
  unfold bootImageError; (repeat' split) <;> simp

@[simp] theorem hostPortError_boot (a : HostAccess) (b : Block) :
    (hostPortError a b).boot = b.boot := by
  unfold hostPortError; (repeat' split) <;> simp

end Sys2Proof.Machine
end

