-- ==== Sys2Proof/Laws/State.lean ====
section
/-!
SUPPORT. What each update of the block does to each field: the field it is for, and every other left as it was.
-/

namespace Sys2Proof.Machine

open Sys2Proof


/-! ### toTick -/

@[simp] theorem toTick_tb (b : Block) (t : Nat) : (toTick b t).tb = { b.tb with tick := max b.tb.tick t } := rfl
@[simp] theorem toTick_cal (b : Block) (t : Nat) : (toTick b t).cal = b.cal := rfl
@[simp] theorem toTick_grotto (b : Block) (t : Nat) : (toTick b t).grotto = b.grotto := rfl
@[simp] theorem toTick_fns (b : Block) (t : Nat) : (toTick b t).fns = b.fns := rfl
@[simp] theorem toTick_ctxs (b : Block) (t : Nat) : (toTick b t).ctxs = b.ctxs := rfl
@[simp] theorem toTick_parts (b : Block) (t : Nat) : (toTick b t).parts = b.parts := rfl
@[simp] theorem toTick_dealer (b : Block) (t : Nat) : (toTick b t).dealer = b.dealer := rfl
@[simp] theorem toTick_cores (b : Block) (t : Nat) : (toTick b t).cores = b.cores := rfl
@[simp] theorem toTick_xlat (b : Block) (t : Nat) : (toTick b t).xlat = b.xlat := rfl
@[simp] theorem toTick_mem (b : Block) (t : Nat) : (toTick b t).mem = b.mem := rfl
@[simp] theorem toTick_acct (b : Block) (t : Nat) : (toTick b t).acct = b.acct := rfl
@[simp] theorem toTick_recov (b : Block) (t : Nat) : (toTick b t).recov = b.recov := rfl
@[simp] theorem toTick_lantern (b : Block) (t : Nat) : (toTick b t).lantern = b.lantern := rfl
@[simp] theorem toTick_jtag (b : Block) (t : Nat) : (toTick b t).jtag = b.jtag := rfl
@[simp] theorem toTick_pins (b : Block) (t : Nat) : (toTick b t).pins = b.pins := rfl
@[simp] theorem toTick_out (b : Block) (t : Nat) : (toTick b t).out = b.out := rfl
@[simp] theorem toTick_freeCtr (b : Block) (t : Nat) : (toTick b t).freeCtr = b.freeCtr := rfl

/-! ### setTb -/

@[simp] theorem setTb_tb (b : Block) (g : TimeBase → TimeBase) : (setTb b g).tb = g b.tb := rfl
@[simp] theorem setTb_cal (b : Block) (g : TimeBase → TimeBase) : (setTb b g).cal = b.cal := rfl
@[simp] theorem setTb_grotto (b : Block) (g : TimeBase → TimeBase) : (setTb b g).grotto = b.grotto := rfl
@[simp] theorem setTb_fns (b : Block) (g : TimeBase → TimeBase) : (setTb b g).fns = b.fns := rfl
@[simp] theorem setTb_ctxs (b : Block) (g : TimeBase → TimeBase) : (setTb b g).ctxs = b.ctxs := rfl
@[simp] theorem setTb_parts (b : Block) (g : TimeBase → TimeBase) : (setTb b g).parts = b.parts := rfl
@[simp] theorem setTb_dealer (b : Block) (g : TimeBase → TimeBase) : (setTb b g).dealer = b.dealer := rfl
@[simp] theorem setTb_cores (b : Block) (g : TimeBase → TimeBase) : (setTb b g).cores = b.cores := rfl
@[simp] theorem setTb_xlat (b : Block) (g : TimeBase → TimeBase) : (setTb b g).xlat = b.xlat := rfl
@[simp] theorem setTb_mem (b : Block) (g : TimeBase → TimeBase) : (setTb b g).mem = b.mem := rfl
@[simp] theorem setTb_acct (b : Block) (g : TimeBase → TimeBase) : (setTb b g).acct = b.acct := rfl
@[simp] theorem setTb_recov (b : Block) (g : TimeBase → TimeBase) : (setTb b g).recov = b.recov := rfl
@[simp] theorem setTb_lantern (b : Block) (g : TimeBase → TimeBase) : (setTb b g).lantern = b.lantern := rfl
@[simp] theorem setTb_jtag (b : Block) (g : TimeBase → TimeBase) : (setTb b g).jtag = b.jtag := rfl
@[simp] theorem setTb_pins (b : Block) (g : TimeBase → TimeBase) : (setTb b g).pins = b.pins := rfl
@[simp] theorem setTb_out (b : Block) (g : TimeBase → TimeBase) : (setTb b g).out = b.out := rfl
@[simp] theorem setTb_freeCtr (b : Block) (g : TimeBase → TimeBase) : (setTb b g).freeCtr = b.freeCtr := rfl

/-! ### setStaged -/

@[simp] theorem setStaged_tb (b : Block) (t : Tab (BitVec 6)) : (setStaged b t).tb = b.tb := rfl
@[simp] theorem setStaged_cal (b : Block) (t : Tab (BitVec 6)) : (setStaged b t).cal = { b.cal with staged := t } := rfl
@[simp] theorem setStaged_grotto (b : Block) (t : Tab (BitVec 6)) : (setStaged b t).grotto = b.grotto := rfl
@[simp] theorem setStaged_fns (b : Block) (t : Tab (BitVec 6)) : (setStaged b t).fns = b.fns := rfl
@[simp] theorem setStaged_ctxs (b : Block) (t : Tab (BitVec 6)) : (setStaged b t).ctxs = b.ctxs := rfl
@[simp] theorem setStaged_parts (b : Block) (t : Tab (BitVec 6)) : (setStaged b t).parts = b.parts := rfl
@[simp] theorem setStaged_dealer (b : Block) (t : Tab (BitVec 6)) : (setStaged b t).dealer = b.dealer := rfl
@[simp] theorem setStaged_cores (b : Block) (t : Tab (BitVec 6)) : (setStaged b t).cores = b.cores := rfl
@[simp] theorem setStaged_xlat (b : Block) (t : Tab (BitVec 6)) : (setStaged b t).xlat = b.xlat := rfl
@[simp] theorem setStaged_mem (b : Block) (t : Tab (BitVec 6)) : (setStaged b t).mem = b.mem := rfl
@[simp] theorem setStaged_acct (b : Block) (t : Tab (BitVec 6)) : (setStaged b t).acct = b.acct := rfl
@[simp] theorem setStaged_recov (b : Block) (t : Tab (BitVec 6)) : (setStaged b t).recov = b.recov := rfl
@[simp] theorem setStaged_lantern (b : Block) (t : Tab (BitVec 6)) : (setStaged b t).lantern = b.lantern := rfl
@[simp] theorem setStaged_jtag (b : Block) (t : Tab (BitVec 6)) : (setStaged b t).jtag = b.jtag := rfl
@[simp] theorem setStaged_pins (b : Block) (t : Tab (BitVec 6)) : (setStaged b t).pins = b.pins := rfl
@[simp] theorem setStaged_out (b : Block) (t : Tab (BitVec 6)) : (setStaged b t).out = b.out := rfl
@[simp] theorem setStaged_freeCtr (b : Block) (t : Tab (BitVec 6)) : (setStaged b t).freeCtr = b.freeCtr := rfl

/-! ### setBoot -/

@[simp] theorem setBoot_tb (b : Block) (g : Boot → Boot) : (setBoot b g).tb = b.tb := rfl
@[simp] theorem setBoot_cal (b : Block) (g : Boot → Boot) : (setBoot b g).cal = b.cal := rfl
@[simp] theorem setBoot_boot (b : Block) (g : Boot → Boot) : (setBoot b g).boot = g b.boot := rfl
@[simp] theorem setBoot_grotto (b : Block) (g : Boot → Boot) : (setBoot b g).grotto = b.grotto := rfl
@[simp] theorem setBoot_fns (b : Block) (g : Boot → Boot) : (setBoot b g).fns = b.fns := rfl
@[simp] theorem setBoot_ctxs (b : Block) (g : Boot → Boot) : (setBoot b g).ctxs = b.ctxs := rfl
@[simp] theorem setBoot_parts (b : Block) (g : Boot → Boot) : (setBoot b g).parts = b.parts := rfl
@[simp] theorem setBoot_dealer (b : Block) (g : Boot → Boot) : (setBoot b g).dealer = b.dealer := rfl
@[simp] theorem setBoot_cores (b : Block) (g : Boot → Boot) : (setBoot b g).cores = b.cores := rfl
@[simp] theorem setBoot_xlat (b : Block) (g : Boot → Boot) : (setBoot b g).xlat = b.xlat := rfl
@[simp] theorem setBoot_mem (b : Block) (g : Boot → Boot) : (setBoot b g).mem = b.mem := rfl
@[simp] theorem setBoot_acct (b : Block) (g : Boot → Boot) : (setBoot b g).acct = b.acct := rfl
@[simp] theorem setBoot_recov (b : Block) (g : Boot → Boot) : (setBoot b g).recov = b.recov := rfl
@[simp] theorem setBoot_lantern (b : Block) (g : Boot → Boot) : (setBoot b g).lantern = b.lantern := rfl
@[simp] theorem setBoot_jtag (b : Block) (g : Boot → Boot) : (setBoot b g).jtag = b.jtag := rfl
@[simp] theorem setBoot_pins (b : Block) (g : Boot → Boot) : (setBoot b g).pins = b.pins := rfl
@[simp] theorem setBoot_out (b : Block) (g : Boot → Boot) : (setBoot b g).out = b.out := rfl
@[simp] theorem setBoot_freeCtr (b : Block) (g : Boot → Boot) : (setBoot b g).freeCtr = b.freeCtr := rfl

/-! ### setGrotto -/

@[simp] theorem setGrotto_tb (b : Block) (g : Grotto → Grotto) : (setGrotto b g).tb = b.tb := rfl
@[simp] theorem setGrotto_cal (b : Block) (g : Grotto → Grotto) : (setGrotto b g).cal = b.cal := rfl
@[simp] theorem setGrotto_grotto (b : Block) (g : Grotto → Grotto) : (setGrotto b g).grotto = g b.grotto := rfl
@[simp] theorem setGrotto_fns (b : Block) (g : Grotto → Grotto) : (setGrotto b g).fns = b.fns := rfl
@[simp] theorem setGrotto_ctxs (b : Block) (g : Grotto → Grotto) : (setGrotto b g).ctxs = b.ctxs := rfl
@[simp] theorem setGrotto_parts (b : Block) (g : Grotto → Grotto) : (setGrotto b g).parts = b.parts := rfl
@[simp] theorem setGrotto_dealer (b : Block) (g : Grotto → Grotto) : (setGrotto b g).dealer = b.dealer := rfl
@[simp] theorem setGrotto_cores (b : Block) (g : Grotto → Grotto) : (setGrotto b g).cores = b.cores := rfl
@[simp] theorem setGrotto_xlat (b : Block) (g : Grotto → Grotto) : (setGrotto b g).xlat = b.xlat := rfl
@[simp] theorem setGrotto_mem (b : Block) (g : Grotto → Grotto) : (setGrotto b g).mem = b.mem := rfl
@[simp] theorem setGrotto_acct (b : Block) (g : Grotto → Grotto) : (setGrotto b g).acct = b.acct := rfl
@[simp] theorem setGrotto_recov (b : Block) (g : Grotto → Grotto) : (setGrotto b g).recov = b.recov := rfl
@[simp] theorem setGrotto_lantern (b : Block) (g : Grotto → Grotto) : (setGrotto b g).lantern = b.lantern := rfl
@[simp] theorem setGrotto_jtag (b : Block) (g : Grotto → Grotto) : (setGrotto b g).jtag = b.jtag := rfl
@[simp] theorem setGrotto_pins (b : Block) (g : Grotto → Grotto) : (setGrotto b g).pins = b.pins := rfl
@[simp] theorem setGrotto_out (b : Block) (g : Grotto → Grotto) : (setGrotto b g).out = b.out := rfl
@[simp] theorem setGrotto_freeCtr (b : Block) (g : Grotto → Grotto) : (setGrotto b g).freeCtr = b.freeCtr := rfl

/-! ### loadKey -/

@[simp] theorem loadKey_tb (b : Block) (vf cmd : Nat) (k : BitVec 256) : (loadKey b vf cmd k).tb = b.tb := rfl
@[simp] theorem loadKey_cal (b : Block) (vf cmd : Nat) (k : BitVec 256) : (loadKey b vf cmd k).cal = b.cal := rfl
@[simp] theorem loadKey_grotto (b : Block) (vf cmd : Nat) (k : BitVec 256) :
    (loadKey b vf cmd k).grotto = { b.grotto with cipherKeys := tabSet b.grotto.cipherKeys vf ⟨cmd, k⟩ } := rfl
@[simp] theorem loadKey_fns (b : Block) (vf cmd : Nat) (k : BitVec 256) : (loadKey b vf cmd k).fns = b.fns := rfl
@[simp] theorem loadKey_ctxs (b : Block) (vf cmd : Nat) (k : BitVec 256) : (loadKey b vf cmd k).ctxs = b.ctxs := rfl
@[simp] theorem loadKey_parts (b : Block) (vf cmd : Nat) (k : BitVec 256) : (loadKey b vf cmd k).parts = b.parts := rfl
@[simp] theorem loadKey_dealer (b : Block) (vf cmd : Nat) (k : BitVec 256) : (loadKey b vf cmd k).dealer = b.dealer := rfl
@[simp] theorem loadKey_cores (b : Block) (vf cmd : Nat) (k : BitVec 256) : (loadKey b vf cmd k).cores = b.cores := rfl
@[simp] theorem loadKey_xlat (b : Block) (vf cmd : Nat) (k : BitVec 256) : (loadKey b vf cmd k).xlat = b.xlat := rfl
@[simp] theorem loadKey_mem (b : Block) (vf cmd : Nat) (k : BitVec 256) : (loadKey b vf cmd k).mem = b.mem := rfl
@[simp] theorem loadKey_acct (b : Block) (vf cmd : Nat) (k : BitVec 256) : (loadKey b vf cmd k).acct = b.acct := rfl
@[simp] theorem loadKey_recov (b : Block) (vf cmd : Nat) (k : BitVec 256) : (loadKey b vf cmd k).recov = b.recov := rfl
@[simp] theorem loadKey_lantern (b : Block) (vf cmd : Nat) (k : BitVec 256) : (loadKey b vf cmd k).lantern = b.lantern := rfl
@[simp] theorem loadKey_jtag (b : Block) (vf cmd : Nat) (k : BitVec 256) : (loadKey b vf cmd k).jtag = b.jtag := rfl
@[simp] theorem loadKey_pins (b : Block) (vf cmd : Nat) (k : BitVec 256) : (loadKey b vf cmd k).pins = b.pins := rfl
@[simp] theorem loadKey_out (b : Block) (vf cmd : Nat) (k : BitVec 256) : (loadKey b vf cmd k).out = b.out := rfl
@[simp] theorem loadKey_freeCtr (b : Block) (vf cmd : Nat) (k : BitVec 256) : (loadKey b vf cmd k).freeCtr = b.freeCtr := rfl

/-! ### eraseKeys -/

@[simp] theorem eraseKeys_tb (b : Block) : (eraseKeys b).tb = b.tb := rfl
@[simp] theorem eraseKeys_cal (b : Block) : (eraseKeys b).cal = b.cal := rfl
@[simp] theorem eraseKeys_grotto (b : Block) :
    (eraseKeys b).grotto = { b.grotto with cipherKeys := b.grotto.cipherKeys.filter (fun e => b.dealer.cmds.any (fun c => c.id == e.2.cmd && inMover c)) } := rfl
@[simp] theorem eraseKeys_fns (b : Block) : (eraseKeys b).fns = b.fns := rfl
@[simp] theorem eraseKeys_ctxs (b : Block) : (eraseKeys b).ctxs = b.ctxs := rfl
@[simp] theorem eraseKeys_parts (b : Block) : (eraseKeys b).parts = b.parts := rfl
@[simp] theorem eraseKeys_dealer (b : Block) : (eraseKeys b).dealer = b.dealer := rfl
@[simp] theorem eraseKeys_cores (b : Block) : (eraseKeys b).cores = b.cores := rfl
@[simp] theorem eraseKeys_xlat (b : Block) : (eraseKeys b).xlat = b.xlat := rfl
@[simp] theorem eraseKeys_mem (b : Block) : (eraseKeys b).mem = b.mem := rfl
@[simp] theorem eraseKeys_acct (b : Block) : (eraseKeys b).acct = b.acct := rfl
@[simp] theorem eraseKeys_recov (b : Block) : (eraseKeys b).recov = b.recov := rfl
@[simp] theorem eraseKeys_lantern (b : Block) : (eraseKeys b).lantern = b.lantern := rfl
@[simp] theorem eraseKeys_jtag (b : Block) : (eraseKeys b).jtag = b.jtag := rfl
@[simp] theorem eraseKeys_pins (b : Block) : (eraseKeys b).pins = b.pins := rfl
@[simp] theorem eraseKeys_out (b : Block) : (eraseKeys b).out = b.out := rfl
@[simp] theorem eraseKeys_freeCtr (b : Block) : (eraseKeys b).freeCtr = b.freeCtr := rfl

/-! ### setTdisp -/

@[simp] theorem setTdisp_tb (b : Block) (vf : Nat) (g : Tdisp → Tdisp) : (setTdisp b vf g).tb = b.tb := rfl
@[simp] theorem setTdisp_cal (b : Block) (vf : Nat) (g : Tdisp → Tdisp) : (setTdisp b vf g).cal = b.cal := rfl
@[simp] theorem setTdisp_grotto (b : Block) (vf : Nat) (g : Tdisp → Tdisp) :
    (setTdisp b vf g).grotto = { b.grotto with tdisp := tabMod b.grotto.tdisp vf g } := rfl
@[simp] theorem setTdisp_fns (b : Block) (vf : Nat) (g : Tdisp → Tdisp) : (setTdisp b vf g).fns = b.fns := rfl
@[simp] theorem setTdisp_ctxs (b : Block) (vf : Nat) (g : Tdisp → Tdisp) : (setTdisp b vf g).ctxs = b.ctxs := rfl
@[simp] theorem setTdisp_parts (b : Block) (vf : Nat) (g : Tdisp → Tdisp) : (setTdisp b vf g).parts = b.parts := rfl
@[simp] theorem setTdisp_dealer (b : Block) (vf : Nat) (g : Tdisp → Tdisp) : (setTdisp b vf g).dealer = b.dealer := rfl
@[simp] theorem setTdisp_cores (b : Block) (vf : Nat) (g : Tdisp → Tdisp) : (setTdisp b vf g).cores = b.cores := rfl
@[simp] theorem setTdisp_xlat (b : Block) (vf : Nat) (g : Tdisp → Tdisp) : (setTdisp b vf g).xlat = b.xlat := rfl
@[simp] theorem setTdisp_mem (b : Block) (vf : Nat) (g : Tdisp → Tdisp) : (setTdisp b vf g).mem = b.mem := rfl
@[simp] theorem setTdisp_acct (b : Block) (vf : Nat) (g : Tdisp → Tdisp) : (setTdisp b vf g).acct = b.acct := rfl
@[simp] theorem setTdisp_recov (b : Block) (vf : Nat) (g : Tdisp → Tdisp) : (setTdisp b vf g).recov = b.recov := rfl
@[simp] theorem setTdisp_lantern (b : Block) (vf : Nat) (g : Tdisp → Tdisp) : (setTdisp b vf g).lantern = b.lantern := rfl
@[simp] theorem setTdisp_jtag (b : Block) (vf : Nat) (g : Tdisp → Tdisp) : (setTdisp b vf g).jtag = b.jtag := rfl
@[simp] theorem setTdisp_pins (b : Block) (vf : Nat) (g : Tdisp → Tdisp) : (setTdisp b vf g).pins = b.pins := rfl
@[simp] theorem setTdisp_out (b : Block) (vf : Nat) (g : Tdisp → Tdisp) : (setTdisp b vf g).out = b.out := rfl
@[simp] theorem setTdisp_freeCtr (b : Block) (vf : Nat) (g : Tdisp → Tdisp) : (setTdisp b vf g).freeCtr = b.freeCtr := rfl

/-! ### endSessionOf -/

@[simp] theorem endSessionOf_tb (b : Block) (fn : Nat) : (endSessionOf b fn).tb = b.tb := rfl
@[simp] theorem endSessionOf_cal (b : Block) (fn : Nat) : (endSessionOf b fn).cal = b.cal := rfl
@[simp] theorem endSessionOf_grotto (b : Block) (fn : Nat) :
    (endSessionOf b fn).grotto = { b.grotto with sessions := tabDel b.grotto.sessions fn, sessionKeys := tabDel b.grotto.sessionKeys fn } := rfl
@[simp] theorem endSessionOf_fns (b : Block) (fn : Nat) : (endSessionOf b fn).fns = b.fns := rfl
@[simp] theorem endSessionOf_ctxs (b : Block) (fn : Nat) : (endSessionOf b fn).ctxs = b.ctxs := rfl
@[simp] theorem endSessionOf_parts (b : Block) (fn : Nat) : (endSessionOf b fn).parts = b.parts := rfl
@[simp] theorem endSessionOf_dealer (b : Block) (fn : Nat) : (endSessionOf b fn).dealer = b.dealer := rfl
@[simp] theorem endSessionOf_cores (b : Block) (fn : Nat) : (endSessionOf b fn).cores = b.cores := rfl
@[simp] theorem endSessionOf_xlat (b : Block) (fn : Nat) : (endSessionOf b fn).xlat = b.xlat := rfl
@[simp] theorem endSessionOf_mem (b : Block) (fn : Nat) : (endSessionOf b fn).mem = b.mem := rfl
@[simp] theorem endSessionOf_acct (b : Block) (fn : Nat) : (endSessionOf b fn).acct = b.acct := rfl
@[simp] theorem endSessionOf_recov (b : Block) (fn : Nat) : (endSessionOf b fn).recov = b.recov := rfl
@[simp] theorem endSessionOf_lantern (b : Block) (fn : Nat) : (endSessionOf b fn).lantern = b.lantern := rfl
@[simp] theorem endSessionOf_jtag (b : Block) (fn : Nat) : (endSessionOf b fn).jtag = b.jtag := rfl
@[simp] theorem endSessionOf_pins (b : Block) (fn : Nat) : (endSessionOf b fn).pins = b.pins := rfl
@[simp] theorem endSessionOf_out (b : Block) (fn : Nat) : (endSessionOf b fn).out = b.out := rfl
@[simp] theorem endSessionOf_freeCtr (b : Block) (fn : Nat) : (endSessionOf b fn).freeCtr = b.freeCtr := rfl

/-! ### useGrant -/

@[simp] theorem useGrant_tb (b : Block) : (useGrant b).tb = b.tb := rfl
@[simp] theorem useGrant_cal (b : Block) : (useGrant b).cal = b.cal := rfl
@[simp] theorem useGrant_grotto (b : Block) : (useGrant b).grotto = { b.grotto with grant := false } := rfl
@[simp] theorem useGrant_fns (b : Block) : (useGrant b).fns = b.fns := rfl
@[simp] theorem useGrant_ctxs (b : Block) : (useGrant b).ctxs = b.ctxs := rfl
@[simp] theorem useGrant_parts (b : Block) : (useGrant b).parts = b.parts := rfl
@[simp] theorem useGrant_dealer (b : Block) : (useGrant b).dealer = b.dealer := rfl
@[simp] theorem useGrant_cores (b : Block) : (useGrant b).cores = b.cores := rfl
@[simp] theorem useGrant_xlat (b : Block) : (useGrant b).xlat = b.xlat := rfl
@[simp] theorem useGrant_mem (b : Block) : (useGrant b).mem = b.mem := rfl
@[simp] theorem useGrant_acct (b : Block) : (useGrant b).acct = b.acct := rfl
@[simp] theorem useGrant_recov (b : Block) : (useGrant b).recov = b.recov := rfl
@[simp] theorem useGrant_lantern (b : Block) : (useGrant b).lantern = b.lantern := rfl
@[simp] theorem useGrant_jtag (b : Block) : (useGrant b).jtag = b.jtag := rfl
@[simp] theorem useGrant_pins (b : Block) : (useGrant b).pins = b.pins := rfl
@[simp] theorem useGrant_out (b : Block) : (useGrant b).out = b.out := rfl
@[simp] theorem useGrant_freeCtr (b : Block) : (useGrant b).freeCtr = b.freeCtr := rfl

/-! ### setFn -/

@[simp] theorem setFn_tb (b : Block) (f : Nat) (x : Fn) : (setFn b f x).tb = b.tb := rfl
@[simp] theorem setFn_cal (b : Block) (f : Nat) (x : Fn) : (setFn b f x).cal = b.cal := rfl
@[simp] theorem setFn_grotto (b : Block) (f : Nat) (x : Fn) : (setFn b f x).grotto = b.grotto := rfl
@[simp] theorem setFn_fns (b : Block) (f : Nat) (x : Fn) : (setFn b f x).fns = tabSetD b.fns f x Fn.reset := rfl
@[simp] theorem setFn_ctxs (b : Block) (f : Nat) (x : Fn) : (setFn b f x).ctxs = b.ctxs := rfl
@[simp] theorem setFn_parts (b : Block) (f : Nat) (x : Fn) : (setFn b f x).parts = b.parts := rfl
@[simp] theorem setFn_dealer (b : Block) (f : Nat) (x : Fn) : (setFn b f x).dealer = b.dealer := rfl
@[simp] theorem setFn_cores (b : Block) (f : Nat) (x : Fn) : (setFn b f x).cores = b.cores := rfl
@[simp] theorem setFn_xlat (b : Block) (f : Nat) (x : Fn) : (setFn b f x).xlat = b.xlat := rfl
@[simp] theorem setFn_mem (b : Block) (f : Nat) (x : Fn) : (setFn b f x).mem = b.mem := rfl
@[simp] theorem setFn_acct (b : Block) (f : Nat) (x : Fn) : (setFn b f x).acct = b.acct := rfl
@[simp] theorem setFn_recov (b : Block) (f : Nat) (x : Fn) : (setFn b f x).recov = b.recov := rfl
@[simp] theorem setFn_lantern (b : Block) (f : Nat) (x : Fn) : (setFn b f x).lantern = b.lantern := rfl
@[simp] theorem setFn_jtag (b : Block) (f : Nat) (x : Fn) : (setFn b f x).jtag = b.jtag := rfl
@[simp] theorem setFn_pins (b : Block) (f : Nat) (x : Fn) : (setFn b f x).pins = b.pins := rfl
@[simp] theorem setFn_out (b : Block) (f : Nat) (x : Fn) : (setFn b f x).out = b.out := rfl
@[simp] theorem setFn_freeCtr (b : Block) (f : Nat) (x : Fn) : (setFn b f x).freeCtr = b.freeCtr := rfl

/-! ### modFn -/

@[simp] theorem modFn_tb (b : Block) (f : Nat) (g : Fn → Fn) : (modFn b f g).tb = b.tb := rfl
@[simp] theorem modFn_cal (b : Block) (f : Nat) (g : Fn → Fn) : (modFn b f g).cal = b.cal := rfl
@[simp] theorem modFn_grotto (b : Block) (f : Nat) (g : Fn → Fn) : (modFn b f g).grotto = b.grotto := rfl
@[simp] theorem modFn_fns (b : Block) (f : Nat) (g : Fn → Fn) : (modFn b f g).fns = tabSetD b.fns f (g (fnAt b f)) Fn.reset := rfl
@[simp] theorem modFn_ctxs (b : Block) (f : Nat) (g : Fn → Fn) : (modFn b f g).ctxs = b.ctxs := rfl
@[simp] theorem modFn_parts (b : Block) (f : Nat) (g : Fn → Fn) : (modFn b f g).parts = b.parts := rfl
@[simp] theorem modFn_dealer (b : Block) (f : Nat) (g : Fn → Fn) : (modFn b f g).dealer = b.dealer := rfl
@[simp] theorem modFn_cores (b : Block) (f : Nat) (g : Fn → Fn) : (modFn b f g).cores = b.cores := rfl
@[simp] theorem modFn_xlat (b : Block) (f : Nat) (g : Fn → Fn) : (modFn b f g).xlat = b.xlat := rfl
@[simp] theorem modFn_mem (b : Block) (f : Nat) (g : Fn → Fn) : (modFn b f g).mem = b.mem := rfl
@[simp] theorem modFn_acct (b : Block) (f : Nat) (g : Fn → Fn) : (modFn b f g).acct = b.acct := rfl
@[simp] theorem modFn_recov (b : Block) (f : Nat) (g : Fn → Fn) : (modFn b f g).recov = b.recov := rfl
@[simp] theorem modFn_lantern (b : Block) (f : Nat) (g : Fn → Fn) : (modFn b f g).lantern = b.lantern := rfl
@[simp] theorem modFn_jtag (b : Block) (f : Nat) (g : Fn → Fn) : (modFn b f g).jtag = b.jtag := rfl
@[simp] theorem modFn_pins (b : Block) (f : Nat) (g : Fn → Fn) : (modFn b f g).pins = b.pins := rfl
@[simp] theorem modFn_out (b : Block) (f : Nat) (g : Fn → Fn) : (modFn b f g).out = b.out := rfl
@[simp] theorem modFn_freeCtr (b : Block) (f : Nat) (g : Fn → Fn) : (modFn b f g).freeCtr = b.freeCtr := rfl

/-! ### setCtx -/

@[simp] theorem setCtx_tb (b : Block) (tag : Nat) (c : Ctx) : (setCtx b tag c).tb = b.tb := rfl
@[simp] theorem setCtx_cal (b : Block) (tag : Nat) (c : Ctx) : (setCtx b tag c).cal = b.cal := rfl
@[simp] theorem setCtx_grotto (b : Block) (tag : Nat) (c : Ctx) : (setCtx b tag c).grotto = b.grotto := rfl
@[simp] theorem setCtx_fns (b : Block) (tag : Nat) (c : Ctx) : (setCtx b tag c).fns = b.fns := rfl
@[simp] theorem setCtx_ctxs (b : Block) (tag : Nat) (c : Ctx) : (setCtx b tag c).ctxs = tabSet b.ctxs tag c := rfl
@[simp] theorem setCtx_parts (b : Block) (tag : Nat) (c : Ctx) : (setCtx b tag c).parts = b.parts := rfl
@[simp] theorem setCtx_dealer (b : Block) (tag : Nat) (c : Ctx) : (setCtx b tag c).dealer = b.dealer := rfl
@[simp] theorem setCtx_cores (b : Block) (tag : Nat) (c : Ctx) : (setCtx b tag c).cores = b.cores := rfl
@[simp] theorem setCtx_xlat (b : Block) (tag : Nat) (c : Ctx) : (setCtx b tag c).xlat = b.xlat := rfl
@[simp] theorem setCtx_mem (b : Block) (tag : Nat) (c : Ctx) : (setCtx b tag c).mem = b.mem := rfl
@[simp] theorem setCtx_acct (b : Block) (tag : Nat) (c : Ctx) : (setCtx b tag c).acct = b.acct := rfl
@[simp] theorem setCtx_recov (b : Block) (tag : Nat) (c : Ctx) : (setCtx b tag c).recov = b.recov := rfl
@[simp] theorem setCtx_lantern (b : Block) (tag : Nat) (c : Ctx) : (setCtx b tag c).lantern = b.lantern := rfl
@[simp] theorem setCtx_jtag (b : Block) (tag : Nat) (c : Ctx) : (setCtx b tag c).jtag = b.jtag := rfl
@[simp] theorem setCtx_pins (b : Block) (tag : Nat) (c : Ctx) : (setCtx b tag c).pins = b.pins := rfl
@[simp] theorem setCtx_out (b : Block) (tag : Nat) (c : Ctx) : (setCtx b tag c).out = b.out := rfl
@[simp] theorem setCtx_freeCtr (b : Block) (tag : Nat) (c : Ctx) : (setCtx b tag c).freeCtr = b.freeCtr := rfl

/-! ### modCtx -/

@[simp] theorem modCtx_tb (b : Block) (tag : Nat) (g : Ctx → Ctx) : (modCtx b tag g).tb = b.tb := rfl
@[simp] theorem modCtx_cal (b : Block) (tag : Nat) (g : Ctx → Ctx) : (modCtx b tag g).cal = b.cal := rfl
@[simp] theorem modCtx_grotto (b : Block) (tag : Nat) (g : Ctx → Ctx) : (modCtx b tag g).grotto = b.grotto := rfl
@[simp] theorem modCtx_fns (b : Block) (tag : Nat) (g : Ctx → Ctx) : (modCtx b tag g).fns = b.fns := rfl
@[simp] theorem modCtx_ctxs (b : Block) (tag : Nat) (g : Ctx → Ctx) : (modCtx b tag g).ctxs = tabMod b.ctxs tag g := rfl
@[simp] theorem modCtx_parts (b : Block) (tag : Nat) (g : Ctx → Ctx) : (modCtx b tag g).parts = b.parts := rfl
@[simp] theorem modCtx_dealer (b : Block) (tag : Nat) (g : Ctx → Ctx) : (modCtx b tag g).dealer = b.dealer := rfl
@[simp] theorem modCtx_cores (b : Block) (tag : Nat) (g : Ctx → Ctx) : (modCtx b tag g).cores = b.cores := rfl
@[simp] theorem modCtx_xlat (b : Block) (tag : Nat) (g : Ctx → Ctx) : (modCtx b tag g).xlat = b.xlat := rfl
@[simp] theorem modCtx_mem (b : Block) (tag : Nat) (g : Ctx → Ctx) : (modCtx b tag g).mem = b.mem := rfl
@[simp] theorem modCtx_acct (b : Block) (tag : Nat) (g : Ctx → Ctx) : (modCtx b tag g).acct = b.acct := rfl
@[simp] theorem modCtx_recov (b : Block) (tag : Nat) (g : Ctx → Ctx) : (modCtx b tag g).recov = b.recov := rfl
@[simp] theorem modCtx_lantern (b : Block) (tag : Nat) (g : Ctx → Ctx) : (modCtx b tag g).lantern = b.lantern := rfl
@[simp] theorem modCtx_jtag (b : Block) (tag : Nat) (g : Ctx → Ctx) : (modCtx b tag g).jtag = b.jtag := rfl
@[simp] theorem modCtx_pins (b : Block) (tag : Nat) (g : Ctx → Ctx) : (modCtx b tag g).pins = b.pins := rfl
@[simp] theorem modCtx_out (b : Block) (tag : Nat) (g : Ctx → Ctx) : (modCtx b tag g).out = b.out := rfl
@[simp] theorem modCtx_freeCtr (b : Block) (tag : Nat) (g : Ctx → Ctx) : (modCtx b tag g).freeCtr = b.freeCtr := rfl

/-! ### delCtx -/

@[simp] theorem delCtx_tb (b : Block) (tag : Nat) : (delCtx b tag).tb = b.tb := rfl
@[simp] theorem delCtx_cal (b : Block) (tag : Nat) : (delCtx b tag).cal = b.cal := rfl
@[simp] theorem delCtx_grotto (b : Block) (tag : Nat) : (delCtx b tag).grotto = b.grotto := rfl
@[simp] theorem delCtx_fns (b : Block) (tag : Nat) : (delCtx b tag).fns = b.fns := rfl
@[simp] theorem delCtx_ctxs (b : Block) (tag : Nat) : (delCtx b tag).ctxs = tabDel b.ctxs tag := rfl
@[simp] theorem delCtx_parts (b : Block) (tag : Nat) : (delCtx b tag).parts = b.parts := rfl
@[simp] theorem delCtx_dealer (b : Block) (tag : Nat) : (delCtx b tag).dealer = b.dealer := rfl
@[simp] theorem delCtx_cores (b : Block) (tag : Nat) : (delCtx b tag).cores = b.cores := rfl
@[simp] theorem delCtx_xlat (b : Block) (tag : Nat) : (delCtx b tag).xlat = b.xlat := rfl
@[simp] theorem delCtx_mem (b : Block) (tag : Nat) : (delCtx b tag).mem = b.mem := rfl
@[simp] theorem delCtx_acct (b : Block) (tag : Nat) : (delCtx b tag).acct = b.acct := rfl
@[simp] theorem delCtx_recov (b : Block) (tag : Nat) : (delCtx b tag).recov = b.recov := rfl
@[simp] theorem delCtx_lantern (b : Block) (tag : Nat) : (delCtx b tag).lantern = b.lantern := rfl
@[simp] theorem delCtx_jtag (b : Block) (tag : Nat) : (delCtx b tag).jtag = b.jtag := rfl
@[simp] theorem delCtx_pins (b : Block) (tag : Nat) : (delCtx b tag).pins = b.pins := rfl
@[simp] theorem delCtx_out (b : Block) (tag : Nat) : (delCtx b tag).out = b.out := rfl
@[simp] theorem delCtx_freeCtr (b : Block) (tag : Nat) : (delCtx b tag).freeCtr = b.freeCtr := rfl

/-! ### modPart -/

@[simp] theorem modPart_tb (b : Block) (vf : Nat) (g : Part → Part) : (modPart b vf g).tb = b.tb := rfl
@[simp] theorem modPart_cal (b : Block) (vf : Nat) (g : Part → Part) : (modPart b vf g).cal = b.cal := rfl
@[simp] theorem modPart_grotto (b : Block) (vf : Nat) (g : Part → Part) : (modPart b vf g).grotto = b.grotto := rfl
@[simp] theorem modPart_fns (b : Block) (vf : Nat) (g : Part → Part) : (modPart b vf g).fns = b.fns := rfl
@[simp] theorem modPart_ctxs (b : Block) (vf : Nat) (g : Part → Part) : (modPart b vf g).ctxs = b.ctxs := rfl
@[simp] theorem modPart_parts (b : Block) (vf : Nat) (g : Part → Part) : (modPart b vf g).parts = tabMod b.parts vf g := rfl
@[simp] theorem modPart_dealer (b : Block) (vf : Nat) (g : Part → Part) : (modPart b vf g).dealer = b.dealer := rfl
@[simp] theorem modPart_cores (b : Block) (vf : Nat) (g : Part → Part) : (modPart b vf g).cores = b.cores := rfl
@[simp] theorem modPart_xlat (b : Block) (vf : Nat) (g : Part → Part) : (modPart b vf g).xlat = b.xlat := rfl
@[simp] theorem modPart_mem (b : Block) (vf : Nat) (g : Part → Part) : (modPart b vf g).mem = b.mem := rfl
@[simp] theorem modPart_acct (b : Block) (vf : Nat) (g : Part → Part) : (modPart b vf g).acct = b.acct := rfl
@[simp] theorem modPart_recov (b : Block) (vf : Nat) (g : Part → Part) : (modPart b vf g).recov = b.recov := rfl
@[simp] theorem modPart_lantern (b : Block) (vf : Nat) (g : Part → Part) : (modPart b vf g).lantern = b.lantern := rfl
@[simp] theorem modPart_jtag (b : Block) (vf : Nat) (g : Part → Part) : (modPart b vf g).jtag = b.jtag := rfl
@[simp] theorem modPart_pins (b : Block) (vf : Nat) (g : Part → Part) : (modPart b vf g).pins = b.pins := rfl
@[simp] theorem modPart_out (b : Block) (vf : Nat) (g : Part → Part) : (modPart b vf g).out = b.out := rfl
@[simp] theorem modPart_freeCtr (b : Block) (vf : Nat) (g : Part → Part) : (modPart b vf g).freeCtr = b.freeCtr := rfl

/-! ### setObj -/

@[simp] theorem setObj_tb (b : Block) (vf index : Nat) (st : ObjState) : (setObj b vf index st).tb = b.tb := rfl
@[simp] theorem setObj_cal (b : Block) (vf index : Nat) (st : ObjState) : (setObj b vf index st).cal = b.cal := rfl
@[simp] theorem setObj_grotto (b : Block) (vf index : Nat) (st : ObjState) : (setObj b vf index st).grotto = b.grotto := rfl
@[simp] theorem setObj_fns (b : Block) (vf index : Nat) (st : ObjState) : (setObj b vf index st).fns = b.fns := rfl
@[simp] theorem setObj_ctxs (b : Block) (vf index : Nat) (st : ObjState) : (setObj b vf index st).ctxs = b.ctxs := rfl
@[simp] theorem setObj_parts (b : Block) (vf index : Nat) (st : ObjState) :
    (setObj b vf index st).parts = tabMod b.parts vf (fun p => { p with objects := tabMod p.objects index (fun o => { o with state := st }) }) := rfl
@[simp] theorem setObj_dealer (b : Block) (vf index : Nat) (st : ObjState) : (setObj b vf index st).dealer = b.dealer := rfl
@[simp] theorem setObj_cores (b : Block) (vf index : Nat) (st : ObjState) : (setObj b vf index st).cores = b.cores := rfl
@[simp] theorem setObj_xlat (b : Block) (vf index : Nat) (st : ObjState) : (setObj b vf index st).xlat = b.xlat := rfl
@[simp] theorem setObj_mem (b : Block) (vf index : Nat) (st : ObjState) : (setObj b vf index st).mem = b.mem := rfl
@[simp] theorem setObj_acct (b : Block) (vf index : Nat) (st : ObjState) : (setObj b vf index st).acct = b.acct := rfl
@[simp] theorem setObj_recov (b : Block) (vf index : Nat) (st : ObjState) : (setObj b vf index st).recov = b.recov := rfl
@[simp] theorem setObj_lantern (b : Block) (vf index : Nat) (st : ObjState) : (setObj b vf index st).lantern = b.lantern := rfl
@[simp] theorem setObj_jtag (b : Block) (vf index : Nat) (st : ObjState) : (setObj b vf index st).jtag = b.jtag := rfl
@[simp] theorem setObj_pins (b : Block) (vf index : Nat) (st : ObjState) : (setObj b vf index st).pins = b.pins := rfl
@[simp] theorem setObj_out (b : Block) (vf index : Nat) (st : ObjState) : (setObj b vf index st).out = b.out := rfl
@[simp] theorem setObj_freeCtr (b : Block) (vf index : Nat) (st : ObjState) : (setObj b vf index st).freeCtr = b.freeCtr := rfl

/-! ### modDealer -/

@[simp] theorem modDealer_tb (b : Block) (g : Dealer → Dealer) : (modDealer b g).tb = b.tb := rfl
@[simp] theorem modDealer_cal (b : Block) (g : Dealer → Dealer) : (modDealer b g).cal = b.cal := rfl
@[simp] theorem modDealer_grotto (b : Block) (g : Dealer → Dealer) : (modDealer b g).grotto = b.grotto := rfl
@[simp] theorem modDealer_fns (b : Block) (g : Dealer → Dealer) : (modDealer b g).fns = b.fns := rfl
@[simp] theorem modDealer_ctxs (b : Block) (g : Dealer → Dealer) : (modDealer b g).ctxs = b.ctxs := rfl
@[simp] theorem modDealer_parts (b : Block) (g : Dealer → Dealer) : (modDealer b g).parts = b.parts := rfl
@[simp] theorem modDealer_dealer (b : Block) (g : Dealer → Dealer) : (modDealer b g).dealer = g b.dealer := rfl
@[simp] theorem modDealer_cores (b : Block) (g : Dealer → Dealer) : (modDealer b g).cores = b.cores := rfl
@[simp] theorem modDealer_xlat (b : Block) (g : Dealer → Dealer) : (modDealer b g).xlat = b.xlat := rfl
@[simp] theorem modDealer_mem (b : Block) (g : Dealer → Dealer) : (modDealer b g).mem = b.mem := rfl
@[simp] theorem modDealer_acct (b : Block) (g : Dealer → Dealer) : (modDealer b g).acct = b.acct := rfl
@[simp] theorem modDealer_recov (b : Block) (g : Dealer → Dealer) : (modDealer b g).recov = b.recov := rfl
@[simp] theorem modDealer_lantern (b : Block) (g : Dealer → Dealer) : (modDealer b g).lantern = b.lantern := rfl
@[simp] theorem modDealer_jtag (b : Block) (g : Dealer → Dealer) : (modDealer b g).jtag = b.jtag := rfl
@[simp] theorem modDealer_pins (b : Block) (g : Dealer → Dealer) : (modDealer b g).pins = b.pins := rfl
@[simp] theorem modDealer_out (b : Block) (g : Dealer → Dealer) : (modDealer b g).out = b.out := rfl
@[simp] theorem modDealer_freeCtr (b : Block) (g : Dealer → Dealer) : (modDealer b g).freeCtr = b.freeCtr := rfl

/-! ### setCore -/

@[simp] theorem setCore_tb (b : Block) (i : Nat) (c : Core) : (setCore b i c).tb = b.tb := rfl
@[simp] theorem setCore_cal (b : Block) (i : Nat) (c : Core) : (setCore b i c).cal = b.cal := rfl
@[simp] theorem setCore_grotto (b : Block) (i : Nat) (c : Core) : (setCore b i c).grotto = b.grotto := rfl
@[simp] theorem setCore_fns (b : Block) (i : Nat) (c : Core) : (setCore b i c).fns = b.fns := rfl
@[simp] theorem setCore_ctxs (b : Block) (i : Nat) (c : Core) : (setCore b i c).ctxs = b.ctxs := rfl
@[simp] theorem setCore_parts (b : Block) (i : Nat) (c : Core) : (setCore b i c).parts = b.parts := rfl
@[simp] theorem setCore_dealer (b : Block) (i : Nat) (c : Core) : (setCore b i c).dealer = b.dealer := rfl
@[simp] theorem setCore_cores (b : Block) (i : Nat) (c : Core) : (setCore b i c).cores = tabSetD b.cores i c Core.reset := rfl
@[simp] theorem setCore_xlat (b : Block) (i : Nat) (c : Core) : (setCore b i c).xlat = b.xlat := rfl
@[simp] theorem setCore_mem (b : Block) (i : Nat) (c : Core) : (setCore b i c).mem = b.mem := rfl
@[simp] theorem setCore_acct (b : Block) (i : Nat) (c : Core) : (setCore b i c).acct = b.acct := rfl
@[simp] theorem setCore_recov (b : Block) (i : Nat) (c : Core) : (setCore b i c).recov = b.recov := rfl
@[simp] theorem setCore_lantern (b : Block) (i : Nat) (c : Core) : (setCore b i c).lantern = b.lantern := rfl
@[simp] theorem setCore_jtag (b : Block) (i : Nat) (c : Core) : (setCore b i c).jtag = b.jtag := rfl
@[simp] theorem setCore_pins (b : Block) (i : Nat) (c : Core) : (setCore b i c).pins = b.pins := rfl
@[simp] theorem setCore_out (b : Block) (i : Nat) (c : Core) : (setCore b i c).out = b.out := rfl
@[simp] theorem setCore_freeCtr (b : Block) (i : Nat) (c : Core) : (setCore b i c).freeCtr = b.freeCtr := rfl

/-! ### modCore -/

@[simp] theorem modCore_tb (b : Block) (i : Nat) (g : Core → Core) : (modCore b i g).tb = b.tb := rfl
@[simp] theorem modCore_cal (b : Block) (i : Nat) (g : Core → Core) : (modCore b i g).cal = b.cal := rfl
@[simp] theorem modCore_grotto (b : Block) (i : Nat) (g : Core → Core) : (modCore b i g).grotto = b.grotto := rfl
@[simp] theorem modCore_fns (b : Block) (i : Nat) (g : Core → Core) : (modCore b i g).fns = b.fns := rfl
@[simp] theorem modCore_ctxs (b : Block) (i : Nat) (g : Core → Core) : (modCore b i g).ctxs = b.ctxs := rfl
@[simp] theorem modCore_parts (b : Block) (i : Nat) (g : Core → Core) : (modCore b i g).parts = b.parts := rfl
@[simp] theorem modCore_dealer (b : Block) (i : Nat) (g : Core → Core) : (modCore b i g).dealer = b.dealer := rfl
@[simp] theorem modCore_cores (b : Block) (i : Nat) (g : Core → Core) : (modCore b i g).cores = tabSetD b.cores i (g (coreAt b i)) Core.reset := rfl
@[simp] theorem modCore_xlat (b : Block) (i : Nat) (g : Core → Core) : (modCore b i g).xlat = b.xlat := rfl
@[simp] theorem modCore_mem (b : Block) (i : Nat) (g : Core → Core) : (modCore b i g).mem = b.mem := rfl
@[simp] theorem modCore_acct (b : Block) (i : Nat) (g : Core → Core) : (modCore b i g).acct = b.acct := rfl
@[simp] theorem modCore_recov (b : Block) (i : Nat) (g : Core → Core) : (modCore b i g).recov = b.recov := rfl
@[simp] theorem modCore_lantern (b : Block) (i : Nat) (g : Core → Core) : (modCore b i g).lantern = b.lantern := rfl
@[simp] theorem modCore_jtag (b : Block) (i : Nat) (g : Core → Core) : (modCore b i g).jtag = b.jtag := rfl
@[simp] theorem modCore_pins (b : Block) (i : Nat) (g : Core → Core) : (modCore b i g).pins = b.pins := rfl
@[simp] theorem modCore_out (b : Block) (i : Nat) (g : Core → Core) : (modCore b i g).out = b.out := rfl
@[simp] theorem modCore_freeCtr (b : Block) (i : Nat) (g : Core → Core) : (modCore b i g).freeCtr = b.freeCtr := rfl

/-! ### setXlat -/

@[simp] theorem setXlat_tb (b : Block) (g : Xlat → Xlat) : (setXlat b g).tb = b.tb := rfl
@[simp] theorem setXlat_cal (b : Block) (g : Xlat → Xlat) : (setXlat b g).cal = b.cal := rfl
@[simp] theorem setXlat_grotto (b : Block) (g : Xlat → Xlat) : (setXlat b g).grotto = b.grotto := rfl
@[simp] theorem setXlat_fns (b : Block) (g : Xlat → Xlat) : (setXlat b g).fns = b.fns := rfl
@[simp] theorem setXlat_ctxs (b : Block) (g : Xlat → Xlat) : (setXlat b g).ctxs = b.ctxs := rfl
@[simp] theorem setXlat_parts (b : Block) (g : Xlat → Xlat) : (setXlat b g).parts = b.parts := rfl
@[simp] theorem setXlat_dealer (b : Block) (g : Xlat → Xlat) : (setXlat b g).dealer = b.dealer := rfl
@[simp] theorem setXlat_cores (b : Block) (g : Xlat → Xlat) : (setXlat b g).cores = b.cores := rfl
@[simp] theorem setXlat_xlat (b : Block) (g : Xlat → Xlat) : (setXlat b g).xlat = g b.xlat := rfl
@[simp] theorem setXlat_mem (b : Block) (g : Xlat → Xlat) : (setXlat b g).mem = b.mem := rfl
@[simp] theorem setXlat_acct (b : Block) (g : Xlat → Xlat) : (setXlat b g).acct = b.acct := rfl
@[simp] theorem setXlat_recov (b : Block) (g : Xlat → Xlat) : (setXlat b g).recov = b.recov := rfl
@[simp] theorem setXlat_lantern (b : Block) (g : Xlat → Xlat) : (setXlat b g).lantern = b.lantern := rfl
@[simp] theorem setXlat_jtag (b : Block) (g : Xlat → Xlat) : (setXlat b g).jtag = b.jtag := rfl
@[simp] theorem setXlat_pins (b : Block) (g : Xlat → Xlat) : (setXlat b g).pins = b.pins := rfl
@[simp] theorem setXlat_out (b : Block) (g : Xlat → Xlat) : (setXlat b g).out = b.out := rfl
@[simp] theorem setXlat_freeCtr (b : Block) (g : Xlat → Xlat) : (setXlat b g).freeCtr = b.freeCtr := rfl

/-! ### releasePins -/

@[simp] theorem releasePins_tb (b : Block) (st : Step) : (releasePins b st).tb = b.tb := rfl
@[simp] theorem releasePins_cal (b : Block) (st : Step) : (releasePins b st).cal = b.cal := rfl
@[simp] theorem releasePins_grotto (b : Block) (st : Step) : (releasePins b st).grotto = b.grotto := rfl
@[simp] theorem releasePins_fns (b : Block) (st : Step) : (releasePins b st).fns = b.fns := rfl
@[simp] theorem releasePins_ctxs (b : Block) (st : Step) : (releasePins b st).ctxs = b.ctxs := rfl
@[simp] theorem releasePins_parts (b : Block) (st : Step) : (releasePins b st).parts = b.parts := rfl
@[simp] theorem releasePins_dealer (b : Block) (st : Step) : (releasePins b st).dealer = b.dealer := rfl
@[simp] theorem releasePins_cores (b : Block) (st : Step) : (releasePins b st).cores = b.cores := rfl
@[simp] theorem releasePins_xlat (b : Block) (st : Step) :
    (releasePins b st).xlat = { b.xlat with l2 := st.pins.foldl (fun l r => unpin l st.fn r) b.xlat.l2 } := rfl
@[simp] theorem releasePins_mem (b : Block) (st : Step) : (releasePins b st).mem = b.mem := rfl
@[simp] theorem releasePins_acct (b : Block) (st : Step) : (releasePins b st).acct = b.acct := rfl
@[simp] theorem releasePins_recov (b : Block) (st : Step) : (releasePins b st).recov = b.recov := rfl
@[simp] theorem releasePins_lantern (b : Block) (st : Step) : (releasePins b st).lantern = b.lantern := rfl
@[simp] theorem releasePins_jtag (b : Block) (st : Step) : (releasePins b st).jtag = b.jtag := rfl
@[simp] theorem releasePins_pins (b : Block) (st : Step) : (releasePins b st).pins = b.pins := rfl
@[simp] theorem releasePins_out (b : Block) (st : Step) : (releasePins b st).out = b.out := rfl
@[simp] theorem releasePins_freeCtr (b : Block) (st : Step) : (releasePins b st).freeCtr = b.freeCtr := rfl

/-! ### modMem -/

@[simp] theorem modMem_tb (b : Block) (g : Mem → Mem) : (modMem b g).tb = b.tb := rfl
@[simp] theorem modMem_cal (b : Block) (g : Mem → Mem) : (modMem b g).cal = b.cal := rfl
@[simp] theorem modMem_grotto (b : Block) (g : Mem → Mem) : (modMem b g).grotto = b.grotto := rfl
@[simp] theorem modMem_fns (b : Block) (g : Mem → Mem) : (modMem b g).fns = b.fns := rfl
@[simp] theorem modMem_ctxs (b : Block) (g : Mem → Mem) : (modMem b g).ctxs = b.ctxs := rfl
@[simp] theorem modMem_parts (b : Block) (g : Mem → Mem) : (modMem b g).parts = b.parts := rfl
@[simp] theorem modMem_dealer (b : Block) (g : Mem → Mem) : (modMem b g).dealer = b.dealer := rfl
@[simp] theorem modMem_cores (b : Block) (g : Mem → Mem) : (modMem b g).cores = b.cores := rfl
@[simp] theorem modMem_xlat (b : Block) (g : Mem → Mem) : (modMem b g).xlat = b.xlat := rfl
@[simp] theorem modMem_mem (b : Block) (g : Mem → Mem) : (modMem b g).mem = g b.mem := rfl
@[simp] theorem modMem_acct (b : Block) (g : Mem → Mem) : (modMem b g).acct = b.acct := rfl
@[simp] theorem modMem_recov (b : Block) (g : Mem → Mem) : (modMem b g).recov = b.recov := rfl
@[simp] theorem modMem_lantern (b : Block) (g : Mem → Mem) : (modMem b g).lantern = b.lantern := rfl
@[simp] theorem modMem_jtag (b : Block) (g : Mem → Mem) : (modMem b g).jtag = b.jtag := rfl
@[simp] theorem modMem_pins (b : Block) (g : Mem → Mem) : (modMem b g).pins = b.pins := rfl
@[simp] theorem modMem_out (b : Block) (g : Mem → Mem) : (modMem b g).out = b.out := rfl
@[simp] theorem modMem_freeCtr (b : Block) (g : Mem → Mem) : (modMem b g).freeCtr = b.freeCtr := rfl

/-! ### hostWrite -/

@[simp] theorem hostWrite_tb (b : Block) (a : Nat) (bs : List Byte) : (hostWrite b a bs).tb = b.tb := rfl
@[simp] theorem hostWrite_cal (b : Block) (a : Nat) (bs : List Byte) : (hostWrite b a bs).cal = b.cal := rfl
@[simp] theorem hostWrite_grotto (b : Block) (a : Nat) (bs : List Byte) : (hostWrite b a bs).grotto = b.grotto := rfl
@[simp] theorem hostWrite_fns (b : Block) (a : Nat) (bs : List Byte) : (hostWrite b a bs).fns = b.fns := rfl
@[simp] theorem hostWrite_ctxs (b : Block) (a : Nat) (bs : List Byte) : (hostWrite b a bs).ctxs = b.ctxs := rfl
@[simp] theorem hostWrite_parts (b : Block) (a : Nat) (bs : List Byte) : (hostWrite b a bs).parts = b.parts := rfl
@[simp] theorem hostWrite_dealer (b : Block) (a : Nat) (bs : List Byte) : (hostWrite b a bs).dealer = b.dealer := rfl
@[simp] theorem hostWrite_cores (b : Block) (a : Nat) (bs : List Byte) : (hostWrite b a bs).cores = b.cores := rfl
@[simp] theorem hostWrite_xlat (b : Block) (a : Nat) (bs : List Byte) : (hostWrite b a bs).xlat = b.xlat := rfl
@[simp] theorem hostWrite_mem (b : Block) (a : Nat) (bs : List Byte) :
    (hostWrite b a bs).mem = { b.mem with host := memWriteN b.mem.host a bs } := rfl
@[simp] theorem hostWrite_acct (b : Block) (a : Nat) (bs : List Byte) : (hostWrite b a bs).acct = b.acct := rfl
@[simp] theorem hostWrite_recov (b : Block) (a : Nat) (bs : List Byte) : (hostWrite b a bs).recov = b.recov := rfl
@[simp] theorem hostWrite_lantern (b : Block) (a : Nat) (bs : List Byte) : (hostWrite b a bs).lantern = b.lantern := rfl
@[simp] theorem hostWrite_jtag (b : Block) (a : Nat) (bs : List Byte) : (hostWrite b a bs).jtag = b.jtag := rfl
@[simp] theorem hostWrite_pins (b : Block) (a : Nat) (bs : List Byte) : (hostWrite b a bs).pins = b.pins := rfl
@[simp] theorem hostWrite_freeCtr (b : Block) (a : Nat) (bs : List Byte) : (hostWrite b a bs).freeCtr = b.freeCtr := rfl
@[simp] theorem hostWrite_mem_bytes (b : Block) (a : Nat) (bs : List Byte) : (hostWrite b a bs).mem.bytes = b.mem.bytes := rfl
@[simp] theorem hostWrite_mem_tiles (b : Block) (a : Nat) (bs : List Byte) : (hostWrite b a bs).mem.tiles = b.mem.tiles := rfl
@[simp] theorem hostWrite_mem_cache (b : Block) (a : Nat) (bs : List Byte) : (hostWrite b a bs).mem.cache = b.mem.cache := rfl
@[simp] theorem hostWrite_mem_forceX4 (b : Block) (a : Nat) (bs : List Byte) : (hostWrite b a bs).mem.forceX4 = b.mem.forceX4 := rfl
@[simp] theorem hostWrite_mem_rate (b : Block) (a : Nat) (bs : List Byte) : (hostWrite b a bs).mem.rate = b.mem.rate := rfl
@[simp] theorem hostWrite_mem_farTrained (b : Block) (a : Nat) (bs : List Byte) : (hostWrite b a bs).mem.farTrained = b.mem.farTrained := rfl
@[simp] theorem hostWrite_mem_stackRegs (b : Block) (a : Nat) (bs : List Byte) : (hostWrite b a bs).mem.stackRegs = b.mem.stackRegs := rfl
@[simp] theorem hostWrite_mem_repairMap (b : Block) (a : Nat) (bs : List Byte) : (hostWrite b a bs).mem.repairMap = b.mem.repairMap := rfl
@[simp] theorem hostWrite_mem_ecc (b : Block) (a : Nat) (bs : List Byte) : (hostWrite b a bs).mem.ecc = b.mem.ecc := rfl
@[simp] theorem hostWrite_mem_gecc (b : Block) (a : Nat) (bs : List Byte) : (hostWrite b a bs).mem.gecc = b.mem.gecc := rfl
@[simp] theorem hostWrite_mem_farUsed (b : Block) (a : Nat) (bs : List Byte) : (hostWrite b a bs).mem.farUsed = b.mem.farUsed := rfl

/-! ### zeroPhys -/

@[simp] theorem zeroPhys_tb (b : Block) (pa n : Nat) : (zeroPhys b pa n).tb = b.tb := rfl
@[simp] theorem zeroPhys_cal (b : Block) (pa n : Nat) : (zeroPhys b pa n).cal = b.cal := rfl
@[simp] theorem zeroPhys_grotto (b : Block) (pa n : Nat) : (zeroPhys b pa n).grotto = b.grotto := rfl
@[simp] theorem zeroPhys_fns (b : Block) (pa n : Nat) : (zeroPhys b pa n).fns = b.fns := rfl
@[simp] theorem zeroPhys_ctxs (b : Block) (pa n : Nat) : (zeroPhys b pa n).ctxs = b.ctxs := rfl
@[simp] theorem zeroPhys_parts (b : Block) (pa n : Nat) : (zeroPhys b pa n).parts = b.parts := rfl
@[simp] theorem zeroPhys_dealer (b : Block) (pa n : Nat) : (zeroPhys b pa n).dealer = b.dealer := rfl
@[simp] theorem zeroPhys_cores (b : Block) (pa n : Nat) : (zeroPhys b pa n).cores = b.cores := rfl
@[simp] theorem zeroPhys_xlat (b : Block) (pa n : Nat) : (zeroPhys b pa n).xlat = b.xlat := rfl
@[simp] theorem zeroPhys_acct (b : Block) (pa n : Nat) : (zeroPhys b pa n).acct = b.acct := rfl
@[simp] theorem zeroPhys_recov (b : Block) (pa n : Nat) : (zeroPhys b pa n).recov = b.recov := rfl
@[simp] theorem zeroPhys_lantern (b : Block) (pa n : Nat) : (zeroPhys b pa n).lantern = b.lantern := rfl
@[simp] theorem zeroPhys_jtag (b : Block) (pa n : Nat) : (zeroPhys b pa n).jtag = b.jtag := rfl
@[simp] theorem zeroPhys_pins (b : Block) (pa n : Nat) : (zeroPhys b pa n).pins = b.pins := rfl
@[simp] theorem zeroPhys_out (b : Block) (pa n : Nat) : (zeroPhys b pa n).out = b.out := rfl
@[simp] theorem zeroPhys_freeCtr (b : Block) (pa n : Nat) : (zeroPhys b pa n).freeCtr = b.freeCtr := rfl
@[simp] theorem zeroPhys_mem_host (b : Block) (pa n : Nat) : (zeroPhys b pa n).mem.host = b.mem.host := rfl
@[simp] theorem zeroPhys_mem_forceX4 (b : Block) (pa n : Nat) : (zeroPhys b pa n).mem.forceX4 = b.mem.forceX4 := rfl
@[simp] theorem zeroPhys_mem_rate (b : Block) (pa n : Nat) : (zeroPhys b pa n).mem.rate = b.mem.rate := rfl
@[simp] theorem zeroPhys_mem_farTrained (b : Block) (pa n : Nat) : (zeroPhys b pa n).mem.farTrained = b.mem.farTrained := rfl
@[simp] theorem zeroPhys_mem_stackRegs (b : Block) (pa n : Nat) : (zeroPhys b pa n).mem.stackRegs = b.mem.stackRegs := rfl
@[simp] theorem zeroPhys_mem_repairMap (b : Block) (pa n : Nat) : (zeroPhys b pa n).mem.repairMap = b.mem.repairMap := rfl
@[simp] theorem zeroPhys_mem_ecc (b : Block) (pa n : Nat) : (zeroPhys b pa n).mem.ecc = b.mem.ecc := rfl
@[simp] theorem zeroPhys_mem_gecc (b : Block) (pa n : Nat) : (zeroPhys b pa n).mem.gecc = b.mem.gecc := rfl
@[simp] theorem zeroPhys_mem_farUsed (b : Block) (pa n : Nat) : (zeroPhys b pa n).mem.farUsed = b.mem.farUsed := rfl

/-! ### setFaultRing -/

@[simp] theorem setFaultRing_tb (b : Block) (r : AcRing) : (setFaultRing b r).tb = b.tb := rfl
@[simp] theorem setFaultRing_cal (b : Block) (r : AcRing) : (setFaultRing b r).cal = b.cal := rfl
@[simp] theorem setFaultRing_grotto (b : Block) (r : AcRing) : (setFaultRing b r).grotto = b.grotto := rfl
@[simp] theorem setFaultRing_fns (b : Block) (r : AcRing) : (setFaultRing b r).fns = b.fns := rfl
@[simp] theorem setFaultRing_ctxs (b : Block) (r : AcRing) : (setFaultRing b r).ctxs = b.ctxs := rfl
@[simp] theorem setFaultRing_parts (b : Block) (r : AcRing) : (setFaultRing b r).parts = b.parts := rfl
@[simp] theorem setFaultRing_dealer (b : Block) (r : AcRing) : (setFaultRing b r).dealer = b.dealer := rfl
@[simp] theorem setFaultRing_cores (b : Block) (r : AcRing) : (setFaultRing b r).cores = b.cores := rfl
@[simp] theorem setFaultRing_xlat (b : Block) (r : AcRing) : (setFaultRing b r).xlat = b.xlat := rfl
@[simp] theorem setFaultRing_mem (b : Block) (r : AcRing) : (setFaultRing b r).mem = b.mem := rfl
@[simp] theorem setFaultRing_acct (b : Block) (r : AcRing) : (setFaultRing b r).acct = { b.acct with fault := r } := rfl
@[simp] theorem setFaultRing_recov (b : Block) (r : AcRing) : (setFaultRing b r).recov = b.recov := rfl
@[simp] theorem setFaultRing_lantern (b : Block) (r : AcRing) : (setFaultRing b r).lantern = b.lantern := rfl
@[simp] theorem setFaultRing_jtag (b : Block) (r : AcRing) : (setFaultRing b r).jtag = b.jtag := rfl
@[simp] theorem setFaultRing_pins (b : Block) (r : AcRing) : (setFaultRing b r).pins = b.pins := rfl
@[simp] theorem setFaultRing_out (b : Block) (r : AcRing) : (setFaultRing b r).out = b.out := rfl
@[simp] theorem setFaultRing_freeCtr (b : Block) (r : AcRing) : (setFaultRing b r).freeCtr = b.freeCtr := rfl

/-! ### setAcctRing -/

@[simp] theorem setAcctRing_tb (b : Block) (r : AcRing) : (setAcctRing b r).tb = b.tb := rfl
@[simp] theorem setAcctRing_cal (b : Block) (r : AcRing) : (setAcctRing b r).cal = b.cal := rfl
@[simp] theorem setAcctRing_grotto (b : Block) (r : AcRing) : (setAcctRing b r).grotto = b.grotto := rfl
@[simp] theorem setAcctRing_fns (b : Block) (r : AcRing) : (setAcctRing b r).fns = b.fns := rfl
@[simp] theorem setAcctRing_ctxs (b : Block) (r : AcRing) : (setAcctRing b r).ctxs = b.ctxs := rfl
@[simp] theorem setAcctRing_parts (b : Block) (r : AcRing) : (setAcctRing b r).parts = b.parts := rfl
@[simp] theorem setAcctRing_dealer (b : Block) (r : AcRing) : (setAcctRing b r).dealer = b.dealer := rfl
@[simp] theorem setAcctRing_cores (b : Block) (r : AcRing) : (setAcctRing b r).cores = b.cores := rfl
@[simp] theorem setAcctRing_xlat (b : Block) (r : AcRing) : (setAcctRing b r).xlat = b.xlat := rfl
@[simp] theorem setAcctRing_mem (b : Block) (r : AcRing) : (setAcctRing b r).mem = b.mem := rfl
@[simp] theorem setAcctRing_acct (b : Block) (r : AcRing) : (setAcctRing b r).acct = { b.acct with ring := r } := rfl
@[simp] theorem setAcctRing_recov (b : Block) (r : AcRing) : (setAcctRing b r).recov = b.recov := rfl
@[simp] theorem setAcctRing_lantern (b : Block) (r : AcRing) : (setAcctRing b r).lantern = b.lantern := rfl
@[simp] theorem setAcctRing_jtag (b : Block) (r : AcRing) : (setAcctRing b r).jtag = b.jtag := rfl
@[simp] theorem setAcctRing_pins (b : Block) (r : AcRing) : (setAcctRing b r).pins = b.pins := rfl
@[simp] theorem setAcctRing_out (b : Block) (r : AcRing) : (setAcctRing b r).out = b.out := rfl
@[simp] theorem setAcctRing_freeCtr (b : Block) (r : AcRing) : (setAcctRing b r).freeCtr = b.freeCtr := rfl

/-! ### modLantern -/

@[simp] theorem modLantern_tb (b : Block) (g : Lantern → Lantern) : (modLantern b g).tb = b.tb := rfl
@[simp] theorem modLantern_cal (b : Block) (g : Lantern → Lantern) : (modLantern b g).cal = b.cal := rfl
@[simp] theorem modLantern_grotto (b : Block) (g : Lantern → Lantern) : (modLantern b g).grotto = b.grotto := rfl
@[simp] theorem modLantern_fns (b : Block) (g : Lantern → Lantern) : (modLantern b g).fns = b.fns := rfl
@[simp] theorem modLantern_ctxs (b : Block) (g : Lantern → Lantern) : (modLantern b g).ctxs = b.ctxs := rfl
@[simp] theorem modLantern_parts (b : Block) (g : Lantern → Lantern) : (modLantern b g).parts = b.parts := rfl
@[simp] theorem modLantern_dealer (b : Block) (g : Lantern → Lantern) : (modLantern b g).dealer = b.dealer := rfl
@[simp] theorem modLantern_cores (b : Block) (g : Lantern → Lantern) : (modLantern b g).cores = b.cores := rfl
@[simp] theorem modLantern_xlat (b : Block) (g : Lantern → Lantern) : (modLantern b g).xlat = b.xlat := rfl
@[simp] theorem modLantern_mem (b : Block) (g : Lantern → Lantern) : (modLantern b g).mem = b.mem := rfl
@[simp] theorem modLantern_acct (b : Block) (g : Lantern → Lantern) : (modLantern b g).acct = b.acct := rfl
@[simp] theorem modLantern_recov (b : Block) (g : Lantern → Lantern) : (modLantern b g).recov = b.recov := rfl
@[simp] theorem modLantern_lantern (b : Block) (g : Lantern → Lantern) : (modLantern b g).lantern = g b.lantern := rfl
@[simp] theorem modLantern_jtag (b : Block) (g : Lantern → Lantern) : (modLantern b g).jtag = b.jtag := rfl
@[simp] theorem modLantern_pins (b : Block) (g : Lantern → Lantern) : (modLantern b g).pins = b.pins := rfl
@[simp] theorem modLantern_out (b : Block) (g : Lantern → Lantern) : (modLantern b g).out = b.out := rfl
@[simp] theorem modLantern_freeCtr (b : Block) (g : Lantern → Lantern) : (modLantern b g).freeCtr = b.freeCtr := rfl

/-! ### offer -/

@[simp] theorem offer_tb (b : Block) (p : PortOut) : (offer b p).tb = b.tb := rfl
@[simp] theorem offer_cal (b : Block) (p : PortOut) : (offer b p).cal = b.cal := rfl
@[simp] theorem offer_grotto (b : Block) (p : PortOut) : (offer b p).grotto = b.grotto := rfl
@[simp] theorem offer_fns (b : Block) (p : PortOut) : (offer b p).fns = b.fns := rfl
@[simp] theorem offer_ctxs (b : Block) (p : PortOut) : (offer b p).ctxs = b.ctxs := rfl
@[simp] theorem offer_parts (b : Block) (p : PortOut) : (offer b p).parts = b.parts := rfl
@[simp] theorem offer_dealer (b : Block) (p : PortOut) : (offer b p).dealer = b.dealer := rfl
@[simp] theorem offer_cores (b : Block) (p : PortOut) : (offer b p).cores = b.cores := rfl
@[simp] theorem offer_xlat (b : Block) (p : PortOut) : (offer b p).xlat = b.xlat := rfl
@[simp] theorem offer_mem (b : Block) (p : PortOut) : (offer b p).mem = b.mem := rfl
@[simp] theorem offer_acct (b : Block) (p : PortOut) : (offer b p).acct = b.acct := rfl
@[simp] theorem offer_recov (b : Block) (p : PortOut) : (offer b p).recov = b.recov := rfl
@[simp] theorem offer_lantern (b : Block) (p : PortOut) : (offer b p).lantern = b.lantern := rfl
@[simp] theorem offer_jtag (b : Block) (p : PortOut) : (offer b p).jtag = b.jtag := rfl
@[simp] theorem offer_pins (b : Block) (p : PortOut) : (offer b p).pins = b.pins := rfl
@[simp] theorem offer_out (b : Block) (p : PortOut) : (offer b p).out = b.out ++ [p] := rfl
@[simp] theorem offer_freeCtr (b : Block) (p : PortOut) : (offer b p).freeCtr = b.freeCtr := rfl

/-! ### nextFree -/

@[simp] theorem nextFree_tb (b : Block) : (nextFree b).tb = b.tb := rfl
@[simp] theorem nextFree_cal (b : Block) : (nextFree b).cal = b.cal := rfl
@[simp] theorem nextFree_grotto (b : Block) : (nextFree b).grotto = b.grotto := rfl
@[simp] theorem nextFree_fns (b : Block) : (nextFree b).fns = b.fns := rfl
@[simp] theorem nextFree_ctxs (b : Block) : (nextFree b).ctxs = b.ctxs := rfl
@[simp] theorem nextFree_parts (b : Block) : (nextFree b).parts = b.parts := rfl
@[simp] theorem nextFree_dealer (b : Block) : (nextFree b).dealer = b.dealer := rfl
@[simp] theorem nextFree_cores (b : Block) : (nextFree b).cores = b.cores := rfl
@[simp] theorem nextFree_xlat (b : Block) : (nextFree b).xlat = b.xlat := rfl
@[simp] theorem nextFree_mem (b : Block) : (nextFree b).mem = b.mem := rfl
@[simp] theorem nextFree_acct (b : Block) : (nextFree b).acct = b.acct := rfl
@[simp] theorem nextFree_recov (b : Block) : (nextFree b).recov = b.recov := rfl
@[simp] theorem nextFree_lantern (b : Block) : (nextFree b).lantern = b.lantern := rfl
@[simp] theorem nextFree_jtag (b : Block) : (nextFree b).jtag = b.jtag := rfl
@[simp] theorem nextFree_pins (b : Block) : (nextFree b).pins = b.pins := rfl
@[simp] theorem nextFree_out (b : Block) : (nextFree b).out = b.out := rfl
@[simp] theorem nextFree_freeCtr (b : Block) : (nextFree b).freeCtr = b.freeCtr + 1 := rfl

/-! ### hostRequest -/

@[simp] theorem hostRequest_tb (kind : HostReqKind) (k n : Nat) (payload : List Byte) (b : Block) : (hostRequest kind k n payload b).tb = b.tb := rfl
@[simp] theorem hostRequest_cal (kind : HostReqKind) (k n : Nat) (payload : List Byte) (b : Block) :
    (hostRequest kind k n payload b).cal = b.cal := rfl
@[simp] theorem hostRequest_grotto (kind : HostReqKind) (k n : Nat) (payload : List Byte) (b : Block) :
    (hostRequest kind k n payload b).grotto = b.grotto := rfl
@[simp] theorem hostRequest_fns (kind : HostReqKind) (k n : Nat) (payload : List Byte) (b : Block) :
    (hostRequest kind k n payload b).fns = b.fns := rfl
@[simp] theorem hostRequest_ctxs (kind : HostReqKind) (k n : Nat) (payload : List Byte) (b : Block) :
    (hostRequest kind k n payload b).ctxs = b.ctxs := rfl
@[simp] theorem hostRequest_parts (kind : HostReqKind) (k n : Nat) (payload : List Byte) (b : Block) :
    (hostRequest kind k n payload b).parts = b.parts := rfl
@[simp] theorem hostRequest_dealer (kind : HostReqKind) (k n : Nat) (payload : List Byte) (b : Block) :
    (hostRequest kind k n payload b).dealer = b.dealer := rfl
@[simp] theorem hostRequest_cores (kind : HostReqKind) (k n : Nat) (payload : List Byte) (b : Block) :
    (hostRequest kind k n payload b).cores = b.cores := rfl
@[simp] theorem hostRequest_xlat (kind : HostReqKind) (k n : Nat) (payload : List Byte) (b : Block) :
    (hostRequest kind k n payload b).xlat = b.xlat := rfl
@[simp] theorem hostRequest_mem (kind : HostReqKind) (k n : Nat) (payload : List Byte) (b : Block) :
    (hostRequest kind k n payload b).mem = b.mem := rfl
@[simp] theorem hostRequest_acct (kind : HostReqKind) (k n : Nat) (payload : List Byte) (b : Block) :
    (hostRequest kind k n payload b).acct = b.acct := rfl
@[simp] theorem hostRequest_recov (kind : HostReqKind) (k n : Nat) (payload : List Byte) (b : Block) :
    (hostRequest kind k n payload b).recov = b.recov := rfl
@[simp] theorem hostRequest_lantern (kind : HostReqKind) (k n : Nat) (payload : List Byte) (b : Block) :
    (hostRequest kind k n payload b).lantern = b.lantern := rfl
@[simp] theorem hostRequest_jtag (kind : HostReqKind) (k n : Nat) (payload : List Byte) (b : Block) :
    (hostRequest kind k n payload b).jtag = b.jtag := rfl
@[simp] theorem hostRequest_pins (kind : HostReqKind) (k n : Nat) (payload : List Byte) (b : Block) :
    (hostRequest kind k n payload b).pins = b.pins := rfl
@[simp] theorem hostRequest_freeCtr (kind : HostReqKind) (k n : Nat) (payload : List Byte) (b : Block) :
    (hostRequest kind k n payload b).freeCtr = b.freeCtr := rfl

/-! ### hostAsk -/

@[simp] theorem hostAsk_tb (k n : Nat) (b : Block) : (hostAsk k n b).tb = b.tb := rfl
@[simp] theorem hostAsk_cal (k n : Nat) (b : Block) : (hostAsk k n b).cal = b.cal := rfl
@[simp] theorem hostAsk_grotto (k n : Nat) (b : Block) : (hostAsk k n b).grotto = b.grotto := rfl
@[simp] theorem hostAsk_fns (k n : Nat) (b : Block) : (hostAsk k n b).fns = b.fns := rfl
@[simp] theorem hostAsk_ctxs (k n : Nat) (b : Block) : (hostAsk k n b).ctxs = b.ctxs := rfl
@[simp] theorem hostAsk_parts (k n : Nat) (b : Block) : (hostAsk k n b).parts = b.parts := rfl
@[simp] theorem hostAsk_dealer (k n : Nat) (b : Block) : (hostAsk k n b).dealer = b.dealer := rfl
@[simp] theorem hostAsk_cores (k n : Nat) (b : Block) : (hostAsk k n b).cores = b.cores := rfl
@[simp] theorem hostAsk_xlat (k n : Nat) (b : Block) : (hostAsk k n b).xlat = b.xlat := rfl
@[simp] theorem hostAsk_mem (k n : Nat) (b : Block) : (hostAsk k n b).mem = b.mem := rfl
@[simp] theorem hostAsk_acct (k n : Nat) (b : Block) : (hostAsk k n b).acct = b.acct := rfl
@[simp] theorem hostAsk_recov (k n : Nat) (b : Block) : (hostAsk k n b).recov = b.recov := rfl
@[simp] theorem hostAsk_lantern (k n : Nat) (b : Block) : (hostAsk k n b).lantern = b.lantern := rfl
@[simp] theorem hostAsk_jtag (k n : Nat) (b : Block) : (hostAsk k n b).jtag = b.jtag := rfl
@[simp] theorem hostAsk_pins (k n : Nat) (b : Block) : (hostAsk k n b).pins = b.pins := rfl
@[simp] theorem hostAsk_freeCtr (k n : Nat) (b : Block) : (hostAsk k n b).freeCtr = b.freeCtr := rfl

/-! ### setCmd -/

@[simp] theorem setCmd_tb (b : Block) (id : Nat) (st : CmdStage) : (setCmd b id st).tb = b.tb := rfl
@[simp] theorem setCmd_cal (b : Block) (id : Nat) (st : CmdStage) : (setCmd b id st).cal = b.cal := rfl
@[simp] theorem setCmd_grotto (b : Block) (id : Nat) (st : CmdStage) : (setCmd b id st).grotto = b.grotto := rfl
@[simp] theorem setCmd_fns (b : Block) (id : Nat) (st : CmdStage) : (setCmd b id st).fns = b.fns := rfl
@[simp] theorem setCmd_ctxs (b : Block) (id : Nat) (st : CmdStage) : (setCmd b id st).ctxs = b.ctxs := rfl
@[simp] theorem setCmd_parts (b : Block) (id : Nat) (st : CmdStage) : (setCmd b id st).parts = b.parts := rfl
@[simp] theorem setCmd_cores (b : Block) (id : Nat) (st : CmdStage) : (setCmd b id st).cores = b.cores := rfl
@[simp] theorem setCmd_xlat (b : Block) (id : Nat) (st : CmdStage) : (setCmd b id st).xlat = b.xlat := rfl
@[simp] theorem setCmd_mem (b : Block) (id : Nat) (st : CmdStage) : (setCmd b id st).mem = b.mem := rfl
@[simp] theorem setCmd_acct (b : Block) (id : Nat) (st : CmdStage) : (setCmd b id st).acct = b.acct := rfl
@[simp] theorem setCmd_recov (b : Block) (id : Nat) (st : CmdStage) : (setCmd b id st).recov = b.recov := rfl
@[simp] theorem setCmd_lantern (b : Block) (id : Nat) (st : CmdStage) : (setCmd b id st).lantern = b.lantern := rfl
@[simp] theorem setCmd_jtag (b : Block) (id : Nat) (st : CmdStage) : (setCmd b id st).jtag = b.jtag := rfl
@[simp] theorem setCmd_pins (b : Block) (id : Nat) (st : CmdStage) : (setCmd b id st).pins = b.pins := rfl
@[simp] theorem setCmd_out (b : Block) (id : Nat) (st : CmdStage) : (setCmd b id st).out = b.out := rfl
@[simp] theorem setCmd_freeCtr (b : Block) (id : Nat) (st : CmdStage) : (setCmd b id st).freeCtr = b.freeCtr := rfl
@[simp] theorem setCmd_dealer_seqs (b : Block) (id : Nat) (st : CmdStage) : (setCmd b id st).dealer.seqs = b.dealer.seqs := rfl
@[simp] theorem setCmd_dealer_adapters (b : Block) (id : Nat) (st : CmdStage) : (setCmd b id st).dealer.adapters = b.dealer.adapters := rfl
@[simp] theorem setCmd_dealer_cmds (b : Block) (id : Nat) (st : CmdStage) :
    (setCmd b id st).dealer.cmds = b.dealer.cmds.map (fun c => if c.id = id then { c with stage := st } else c) := rfl
@[simp] theorem setCmd_dealer_steps (b : Block) (id : Nat) (st : CmdStage) : (setCmd b id st).dealer.steps = b.dealer.steps := rfl
@[simp] theorem setCmd_dealer_loaded (b : Block) (id : Nat) (st : CmdStage) : (setCmd b id st).dealer.loaded = b.dealer.loaded := rfl
@[simp] theorem setCmd_dealer_running (b : Block) (id : Nat) (st : CmdStage) : (setCmd b id st).dealer.running = b.dealer.running := rfl
@[simp] theorem setCmd_dealer_skipped (b : Block) (id : Nat) (st : CmdStage) : (setCmd b id st).dealer.skipped = b.dealer.skipped := rfl
@[simp] theorem setCmd_dealer_bases (b : Block) (id : Nat) (st : CmdStage) : (setCmd b id st).dealer.bases = b.dealer.bases := rfl
@[simp] theorem setCmd_dealer_baseGens (b : Block) (id : Nat) (st : CmdStage) : (setCmd b id st).dealer.baseGens = b.dealer.baseGens := rfl
@[simp] theorem setCmd_dealer_nextCmd (b : Block) (id : Nat) (st : CmdStage) : (setCmd b id st).dealer.nextCmd = b.dealer.nextCmd := rfl
@[simp] theorem setCmd_dealer_nextStep (b : Block) (id : Nat) (st : CmdStage) : (setCmd b id st).dealer.nextStep = b.dealer.nextStep := rfl

/-! ### finish -/

@[simp] theorem finish_tb (b : Block) (id : Nat) (st : BitVec 16) (detail : BitVec 32) : (finish b id st detail).tb = b.tb := rfl
@[simp] theorem finish_cal (b : Block) (id : Nat) (st : BitVec 16) (detail : BitVec 32) : (finish b id st detail).cal = b.cal := rfl
@[simp] theorem finish_grotto (b : Block) (id : Nat) (st : BitVec 16) (detail : BitVec 32) : (finish b id st detail).grotto = b.grotto := rfl
@[simp] theorem finish_fns (b : Block) (id : Nat) (st : BitVec 16) (detail : BitVec 32) : (finish b id st detail).fns = b.fns := rfl
@[simp] theorem finish_ctxs (b : Block) (id : Nat) (st : BitVec 16) (detail : BitVec 32) : (finish b id st detail).ctxs = b.ctxs := rfl
@[simp] theorem finish_parts (b : Block) (id : Nat) (st : BitVec 16) (detail : BitVec 32) : (finish b id st detail).parts = b.parts := rfl
@[simp] theorem finish_cores (b : Block) (id : Nat) (st : BitVec 16) (detail : BitVec 32) : (finish b id st detail).cores = b.cores := rfl
@[simp] theorem finish_xlat (b : Block) (id : Nat) (st : BitVec 16) (detail : BitVec 32) : (finish b id st detail).xlat = b.xlat := rfl
@[simp] theorem finish_mem (b : Block) (id : Nat) (st : BitVec 16) (detail : BitVec 32) : (finish b id st detail).mem = b.mem := rfl
@[simp] theorem finish_acct (b : Block) (id : Nat) (st : BitVec 16) (detail : BitVec 32) : (finish b id st detail).acct = b.acct := rfl
@[simp] theorem finish_recov (b : Block) (id : Nat) (st : BitVec 16) (detail : BitVec 32) : (finish b id st detail).recov = b.recov := rfl
@[simp] theorem finish_lantern (b : Block) (id : Nat) (st : BitVec 16) (detail : BitVec 32) : (finish b id st detail).lantern = b.lantern := rfl
@[simp] theorem finish_jtag (b : Block) (id : Nat) (st : BitVec 16) (detail : BitVec 32) : (finish b id st detail).jtag = b.jtag := rfl
@[simp] theorem finish_pins (b : Block) (id : Nat) (st : BitVec 16) (detail : BitVec 32) : (finish b id st detail).pins = b.pins := rfl
@[simp] theorem finish_out (b : Block) (id : Nat) (st : BitVec 16) (detail : BitVec 32) : (finish b id st detail).out = b.out := rfl
@[simp] theorem finish_freeCtr (b : Block) (id : Nat) (st : BitVec 16) (detail : BitVec 32) : (finish b id st detail).freeCtr = b.freeCtr := rfl
@[simp] theorem finish_dealer_seqs (b : Block) (id : Nat) (st : BitVec 16) (detail : BitVec 32) :
    (finish b id st detail).dealer.seqs = b.dealer.seqs := rfl
@[simp] theorem finish_dealer_adapters (b : Block) (id : Nat) (st : BitVec 16) (detail : BitVec 32) :
    (finish b id st detail).dealer.adapters = b.dealer.adapters := rfl
@[simp] theorem finish_dealer_cmds (b : Block) (id : Nat) (st : BitVec 16) (detail : BitVec 32) :
    (finish b id st detail).dealer.cmds = b.dealer.cmds.map (fun c => if c.id = id then { c with stage := .done st detail } else c) := rfl
@[simp] theorem finish_dealer_steps (b : Block) (id : Nat) (st : BitVec 16) (detail : BitVec 32) :
    (finish b id st detail).dealer.steps = b.dealer.steps := rfl
@[simp] theorem finish_dealer_loaded (b : Block) (id : Nat) (st : BitVec 16) (detail : BitVec 32) :
    (finish b id st detail).dealer.loaded = b.dealer.loaded := rfl
@[simp] theorem finish_dealer_running (b : Block) (id : Nat) (st : BitVec 16) (detail : BitVec 32) :
    (finish b id st detail).dealer.running = b.dealer.running := rfl
@[simp] theorem finish_dealer_skipped (b : Block) (id : Nat) (st : BitVec 16) (detail : BitVec 32) :
    (finish b id st detail).dealer.skipped = b.dealer.skipped := rfl
@[simp] theorem finish_dealer_bases (b : Block) (id : Nat) (st : BitVec 16) (detail : BitVec 32) :
    (finish b id st detail).dealer.bases = b.dealer.bases := rfl
@[simp] theorem finish_dealer_baseGens (b : Block) (id : Nat) (st : BitVec 16) (detail : BitVec 32) :
    (finish b id st detail).dealer.baseGens = b.dealer.baseGens := rfl
@[simp] theorem finish_dealer_nextCmd (b : Block) (id : Nat) (st : BitVec 16) (detail : BitVec 32) :
    (finish b id st detail).dealer.nextCmd = b.dealer.nextCmd := rfl
@[simp] theorem finish_dealer_nextStep (b : Block) (id : Nat) (st : BitVec 16) (detail : BitVec 32) :
    (finish b id st detail).dealer.nextStep = b.dealer.nextStep := rfl

/-! ### finishAll -/

@[simp] theorem finishAll_tb (b : Block) (p : Cmd → Bool) (st : BitVec 16) (detail : BitVec 32) : (finishAll b p st detail).tb = b.tb := rfl
@[simp] theorem finishAll_cal (b : Block) (p : Cmd → Bool) (st : BitVec 16) (detail : BitVec 32) : (finishAll b p st detail).cal = b.cal := rfl
@[simp] theorem finishAll_grotto (b : Block) (p : Cmd → Bool) (st : BitVec 16) (detail : BitVec 32) :
    (finishAll b p st detail).grotto = b.grotto := rfl
@[simp] theorem finishAll_fns (b : Block) (p : Cmd → Bool) (st : BitVec 16) (detail : BitVec 32) : (finishAll b p st detail).fns = b.fns := rfl
@[simp] theorem finishAll_ctxs (b : Block) (p : Cmd → Bool) (st : BitVec 16) (detail : BitVec 32) : (finishAll b p st detail).ctxs = b.ctxs := rfl
@[simp] theorem finishAll_parts (b : Block) (p : Cmd → Bool) (st : BitVec 16) (detail : BitVec 32) : (finishAll b p st detail).parts = b.parts := rfl
@[simp] theorem finishAll_cores (b : Block) (p : Cmd → Bool) (st : BitVec 16) (detail : BitVec 32) : (finishAll b p st detail).cores = b.cores := rfl
@[simp] theorem finishAll_xlat (b : Block) (p : Cmd → Bool) (st : BitVec 16) (detail : BitVec 32) : (finishAll b p st detail).xlat = b.xlat := rfl
@[simp] theorem finishAll_mem (b : Block) (p : Cmd → Bool) (st : BitVec 16) (detail : BitVec 32) : (finishAll b p st detail).mem = b.mem := rfl
@[simp] theorem finishAll_acct (b : Block) (p : Cmd → Bool) (st : BitVec 16) (detail : BitVec 32) : (finishAll b p st detail).acct = b.acct := rfl
@[simp] theorem finishAll_recov (b : Block) (p : Cmd → Bool) (st : BitVec 16) (detail : BitVec 32) : (finishAll b p st detail).recov = b.recov := rfl
@[simp] theorem finishAll_lantern (b : Block) (p : Cmd → Bool) (st : BitVec 16) (detail : BitVec 32) :
    (finishAll b p st detail).lantern = b.lantern := rfl
@[simp] theorem finishAll_jtag (b : Block) (p : Cmd → Bool) (st : BitVec 16) (detail : BitVec 32) : (finishAll b p st detail).jtag = b.jtag := rfl
@[simp] theorem finishAll_pins (b : Block) (p : Cmd → Bool) (st : BitVec 16) (detail : BitVec 32) : (finishAll b p st detail).pins = b.pins := rfl
@[simp] theorem finishAll_out (b : Block) (p : Cmd → Bool) (st : BitVec 16) (detail : BitVec 32) : (finishAll b p st detail).out = b.out := rfl
@[simp] theorem finishAll_freeCtr (b : Block) (p : Cmd → Bool) (st : BitVec 16) (detail : BitVec 32) :
    (finishAll b p st detail).freeCtr = b.freeCtr := rfl
@[simp] theorem finishAll_dealer_seqs (b : Block) (p : Cmd → Bool) (st : BitVec 16) (detail : BitVec 32) :
    (finishAll b p st detail).dealer.seqs = b.dealer.seqs := rfl
@[simp] theorem finishAll_dealer_adapters (b : Block) (p : Cmd → Bool) (st : BitVec 16) (detail : BitVec 32) :
    (finishAll b p st detail).dealer.adapters = b.dealer.adapters := rfl
@[simp] theorem finishAll_dealer_cmds (b : Block) (p : Cmd → Bool) (st : BitVec 16) (detail : BitVec 32) :
    (finishAll b p st detail).dealer.cmds = b.dealer.cmds.map (fun c => if p c then { c with stage := .done st detail } else c) := rfl
@[simp] theorem finishAll_dealer_steps (b : Block) (p : Cmd → Bool) (st : BitVec 16) (detail : BitVec 32) :
    (finishAll b p st detail).dealer.steps = b.dealer.steps := rfl
@[simp] theorem finishAll_dealer_loaded (b : Block) (p : Cmd → Bool) (st : BitVec 16) (detail : BitVec 32) :
    (finishAll b p st detail).dealer.loaded = b.dealer.loaded := rfl
@[simp] theorem finishAll_dealer_running (b : Block) (p : Cmd → Bool) (st : BitVec 16) (detail : BitVec 32) :
    (finishAll b p st detail).dealer.running = b.dealer.running := rfl
@[simp] theorem finishAll_dealer_skipped (b : Block) (p : Cmd → Bool) (st : BitVec 16) (detail : BitVec 32) :
    (finishAll b p st detail).dealer.skipped = b.dealer.skipped := rfl
@[simp] theorem finishAll_dealer_bases (b : Block) (p : Cmd → Bool) (st : BitVec 16) (detail : BitVec 32) :
    (finishAll b p st detail).dealer.bases = b.dealer.bases := rfl
@[simp] theorem finishAll_dealer_baseGens (b : Block) (p : Cmd → Bool) (st : BitVec 16) (detail : BitVec 32) :
    (finishAll b p st detail).dealer.baseGens = b.dealer.baseGens := rfl
@[simp] theorem finishAll_dealer_nextCmd (b : Block) (p : Cmd → Bool) (st : BitVec 16) (detail : BitVec 32) :
    (finishAll b p st detail).dealer.nextCmd = b.dealer.nextCmd := rfl
@[simp] theorem finishAll_dealer_nextStep (b : Block) (p : Cmd → Bool) (st : BitVec 16) (detail : BitVec 32) :
    (finishAll b p st detail).dealer.nextStep = b.dealer.nextStep := rfl

/-! ### setRefs -/

@[simp] theorem setRefs_tb (b : Block) (id : Nat) (refs : List Nat) : (setRefs b id refs).tb = b.tb := rfl
@[simp] theorem setRefs_cal (b : Block) (id : Nat) (refs : List Nat) : (setRefs b id refs).cal = b.cal := rfl
@[simp] theorem setRefs_grotto (b : Block) (id : Nat) (refs : List Nat) : (setRefs b id refs).grotto = b.grotto := rfl
@[simp] theorem setRefs_fns (b : Block) (id : Nat) (refs : List Nat) : (setRefs b id refs).fns = b.fns := rfl
@[simp] theorem setRefs_ctxs (b : Block) (id : Nat) (refs : List Nat) : (setRefs b id refs).ctxs = b.ctxs := rfl
@[simp] theorem setRefs_parts (b : Block) (id : Nat) (refs : List Nat) : (setRefs b id refs).parts = b.parts := rfl
@[simp] theorem setRefs_cores (b : Block) (id : Nat) (refs : List Nat) : (setRefs b id refs).cores = b.cores := rfl
@[simp] theorem setRefs_xlat (b : Block) (id : Nat) (refs : List Nat) : (setRefs b id refs).xlat = b.xlat := rfl
@[simp] theorem setRefs_mem (b : Block) (id : Nat) (refs : List Nat) : (setRefs b id refs).mem = b.mem := rfl
@[simp] theorem setRefs_acct (b : Block) (id : Nat) (refs : List Nat) : (setRefs b id refs).acct = b.acct := rfl
@[simp] theorem setRefs_recov (b : Block) (id : Nat) (refs : List Nat) : (setRefs b id refs).recov = b.recov := rfl
@[simp] theorem setRefs_lantern (b : Block) (id : Nat) (refs : List Nat) : (setRefs b id refs).lantern = b.lantern := rfl
@[simp] theorem setRefs_jtag (b : Block) (id : Nat) (refs : List Nat) : (setRefs b id refs).jtag = b.jtag := rfl
@[simp] theorem setRefs_pins (b : Block) (id : Nat) (refs : List Nat) : (setRefs b id refs).pins = b.pins := rfl
@[simp] theorem setRefs_out (b : Block) (id : Nat) (refs : List Nat) : (setRefs b id refs).out = b.out := rfl
@[simp] theorem setRefs_freeCtr (b : Block) (id : Nat) (refs : List Nat) : (setRefs b id refs).freeCtr = b.freeCtr := rfl
@[simp] theorem setRefs_dealer_seqs (b : Block) (id : Nat) (refs : List Nat) : (setRefs b id refs).dealer.seqs = b.dealer.seqs := rfl
@[simp] theorem setRefs_dealer_adapters (b : Block) (id : Nat) (refs : List Nat) : (setRefs b id refs).dealer.adapters = b.dealer.adapters := rfl
@[simp] theorem setRefs_dealer_cmds (b : Block) (id : Nat) (refs : List Nat) :
    (setRefs b id refs).dealer.cmds = b.dealer.cmds.map (fun c => if c.id = id then { c with refs := refs } else c) := rfl
@[simp] theorem setRefs_dealer_steps (b : Block) (id : Nat) (refs : List Nat) : (setRefs b id refs).dealer.steps = b.dealer.steps := rfl
@[simp] theorem setRefs_dealer_loaded (b : Block) (id : Nat) (refs : List Nat) : (setRefs b id refs).dealer.loaded = b.dealer.loaded := rfl
@[simp] theorem setRefs_dealer_running (b : Block) (id : Nat) (refs : List Nat) : (setRefs b id refs).dealer.running = b.dealer.running := rfl
@[simp] theorem setRefs_dealer_skipped (b : Block) (id : Nat) (refs : List Nat) : (setRefs b id refs).dealer.skipped = b.dealer.skipped := rfl
@[simp] theorem setRefs_dealer_bases (b : Block) (id : Nat) (refs : List Nat) : (setRefs b id refs).dealer.bases = b.dealer.bases := rfl
@[simp] theorem setRefs_dealer_baseGens (b : Block) (id : Nat) (refs : List Nat) : (setRefs b id refs).dealer.baseGens = b.dealer.baseGens := rfl
@[simp] theorem setRefs_dealer_nextCmd (b : Block) (id : Nat) (refs : List Nat) : (setRefs b id refs).dealer.nextCmd = b.dealer.nextCmd := rfl
@[simp] theorem setRefs_dealer_nextStep (b : Block) (id : Nat) (refs : List Nat) : (setRefs b id refs).dealer.nextStep = b.dealer.nextStep := rfl

/-! ### dropCmd -/

@[simp] theorem dropCmd_tb (b : Block) (id : Nat) : (dropCmd b id).tb = b.tb := rfl
@[simp] theorem dropCmd_cal (b : Block) (id : Nat) : (dropCmd b id).cal = b.cal := rfl
@[simp] theorem dropCmd_grotto (b : Block) (id : Nat) : (dropCmd b id).grotto = b.grotto := rfl
@[simp] theorem dropCmd_fns (b : Block) (id : Nat) : (dropCmd b id).fns = b.fns := rfl
@[simp] theorem dropCmd_ctxs (b : Block) (id : Nat) : (dropCmd b id).ctxs = b.ctxs := rfl
@[simp] theorem dropCmd_parts (b : Block) (id : Nat) : (dropCmd b id).parts = b.parts := rfl
@[simp] theorem dropCmd_cores (b : Block) (id : Nat) : (dropCmd b id).cores = b.cores := rfl
@[simp] theorem dropCmd_xlat (b : Block) (id : Nat) : (dropCmd b id).xlat = b.xlat := rfl
@[simp] theorem dropCmd_mem (b : Block) (id : Nat) : (dropCmd b id).mem = b.mem := rfl
@[simp] theorem dropCmd_acct (b : Block) (id : Nat) : (dropCmd b id).acct = b.acct := rfl
@[simp] theorem dropCmd_recov (b : Block) (id : Nat) : (dropCmd b id).recov = b.recov := rfl
@[simp] theorem dropCmd_lantern (b : Block) (id : Nat) : (dropCmd b id).lantern = b.lantern := rfl
@[simp] theorem dropCmd_jtag (b : Block) (id : Nat) : (dropCmd b id).jtag = b.jtag := rfl
@[simp] theorem dropCmd_pins (b : Block) (id : Nat) : (dropCmd b id).pins = b.pins := rfl
@[simp] theorem dropCmd_out (b : Block) (id : Nat) : (dropCmd b id).out = b.out := rfl
@[simp] theorem dropCmd_freeCtr (b : Block) (id : Nat) : (dropCmd b id).freeCtr = b.freeCtr := rfl
@[simp] theorem dropCmd_dealer_seqs (b : Block) (id : Nat) : (dropCmd b id).dealer.seqs = b.dealer.seqs := rfl
@[simp] theorem dropCmd_dealer_adapters (b : Block) (id : Nat) : (dropCmd b id).dealer.adapters = b.dealer.adapters := rfl
@[simp] theorem dropCmd_dealer_cmds (b : Block) (id : Nat) : (dropCmd b id).dealer.cmds = b.dealer.cmds.filter (fun c => c.id != id) := rfl
@[simp] theorem dropCmd_dealer_steps (b : Block) (id : Nat) : (dropCmd b id).dealer.steps = b.dealer.steps := rfl
@[simp] theorem dropCmd_dealer_loaded (b : Block) (id : Nat) : (dropCmd b id).dealer.loaded = b.dealer.loaded := rfl
@[simp] theorem dropCmd_dealer_running (b : Block) (id : Nat) : (dropCmd b id).dealer.running = b.dealer.running := rfl
@[simp] theorem dropCmd_dealer_skipped (b : Block) (id : Nat) : (dropCmd b id).dealer.skipped = b.dealer.skipped := rfl
@[simp] theorem dropCmd_dealer_bases (b : Block) (id : Nat) : (dropCmd b id).dealer.bases = b.dealer.bases := rfl
@[simp] theorem dropCmd_dealer_baseGens (b : Block) (id : Nat) : (dropCmd b id).dealer.baseGens = b.dealer.baseGens := rfl
@[simp] theorem dropCmd_dealer_nextCmd (b : Block) (id : Nat) : (dropCmd b id).dealer.nextCmd = b.dealer.nextCmd := rfl
@[simp] theorem dropCmd_dealer_nextStep (b : Block) (id : Nat) : (dropCmd b id).dealer.nextStep = b.dealer.nextStep := rfl

/-! ### modStep -/

@[simp] theorem modStep_tb (b : Block) (id : Nat) (g : Step → Step) : (modStep b id g).tb = b.tb := rfl
@[simp] theorem modStep_cal (b : Block) (id : Nat) (g : Step → Step) : (modStep b id g).cal = b.cal := rfl
@[simp] theorem modStep_grotto (b : Block) (id : Nat) (g : Step → Step) : (modStep b id g).grotto = b.grotto := rfl
@[simp] theorem modStep_fns (b : Block) (id : Nat) (g : Step → Step) : (modStep b id g).fns = b.fns := rfl
@[simp] theorem modStep_ctxs (b : Block) (id : Nat) (g : Step → Step) : (modStep b id g).ctxs = b.ctxs := rfl
@[simp] theorem modStep_parts (b : Block) (id : Nat) (g : Step → Step) : (modStep b id g).parts = b.parts := rfl
@[simp] theorem modStep_cores (b : Block) (id : Nat) (g : Step → Step) : (modStep b id g).cores = b.cores := rfl
@[simp] theorem modStep_xlat (b : Block) (id : Nat) (g : Step → Step) : (modStep b id g).xlat = b.xlat := rfl
@[simp] theorem modStep_mem (b : Block) (id : Nat) (g : Step → Step) : (modStep b id g).mem = b.mem := rfl
@[simp] theorem modStep_acct (b : Block) (id : Nat) (g : Step → Step) : (modStep b id g).acct = b.acct := rfl
@[simp] theorem modStep_recov (b : Block) (id : Nat) (g : Step → Step) : (modStep b id g).recov = b.recov := rfl
@[simp] theorem modStep_lantern (b : Block) (id : Nat) (g : Step → Step) : (modStep b id g).lantern = b.lantern := rfl
@[simp] theorem modStep_jtag (b : Block) (id : Nat) (g : Step → Step) : (modStep b id g).jtag = b.jtag := rfl
@[simp] theorem modStep_pins (b : Block) (id : Nat) (g : Step → Step) : (modStep b id g).pins = b.pins := rfl
@[simp] theorem modStep_out (b : Block) (id : Nat) (g : Step → Step) : (modStep b id g).out = b.out := rfl
@[simp] theorem modStep_freeCtr (b : Block) (id : Nat) (g : Step → Step) : (modStep b id g).freeCtr = b.freeCtr := rfl
@[simp] theorem modStep_dealer_seqs (b : Block) (id : Nat) (g : Step → Step) : (modStep b id g).dealer.seqs = b.dealer.seqs := rfl
@[simp] theorem modStep_dealer_adapters (b : Block) (id : Nat) (g : Step → Step) : (modStep b id g).dealer.adapters = b.dealer.adapters := rfl
@[simp] theorem modStep_dealer_cmds (b : Block) (id : Nat) (g : Step → Step) : (modStep b id g).dealer.cmds = b.dealer.cmds := rfl
@[simp] theorem modStep_dealer_steps (b : Block) (id : Nat) (g : Step → Step) :
    (modStep b id g).dealer.steps = b.dealer.steps.map (fun x => if x.id = id then g x else x) := rfl
@[simp] theorem modStep_dealer_loaded (b : Block) (id : Nat) (g : Step → Step) : (modStep b id g).dealer.loaded = b.dealer.loaded := rfl
@[simp] theorem modStep_dealer_running (b : Block) (id : Nat) (g : Step → Step) : (modStep b id g).dealer.running = b.dealer.running := rfl
@[simp] theorem modStep_dealer_skipped (b : Block) (id : Nat) (g : Step → Step) : (modStep b id g).dealer.skipped = b.dealer.skipped := rfl
@[simp] theorem modStep_dealer_bases (b : Block) (id : Nat) (g : Step → Step) : (modStep b id g).dealer.bases = b.dealer.bases := rfl
@[simp] theorem modStep_dealer_baseGens (b : Block) (id : Nat) (g : Step → Step) : (modStep b id g).dealer.baseGens = b.dealer.baseGens := rfl
@[simp] theorem modStep_dealer_nextCmd (b : Block) (id : Nat) (g : Step → Step) : (modStep b id g).dealer.nextCmd = b.dealer.nextCmd := rfl
@[simp] theorem modStep_dealer_nextStep (b : Block) (id : Nat) (g : Step → Step) : (modStep b id g).dealer.nextStep = b.dealer.nextStep := rfl

/-! ### setSeq -/

@[simp] theorem setSeq_tb (b : Block) (i : Nat) (q : Seq) : (setSeq b i q).tb = b.tb := rfl
@[simp] theorem setSeq_cal (b : Block) (i : Nat) (q : Seq) : (setSeq b i q).cal = b.cal := rfl
@[simp] theorem setSeq_grotto (b : Block) (i : Nat) (q : Seq) : (setSeq b i q).grotto = b.grotto := rfl
@[simp] theorem setSeq_fns (b : Block) (i : Nat) (q : Seq) : (setSeq b i q).fns = b.fns := rfl
@[simp] theorem setSeq_ctxs (b : Block) (i : Nat) (q : Seq) : (setSeq b i q).ctxs = b.ctxs := rfl
@[simp] theorem setSeq_parts (b : Block) (i : Nat) (q : Seq) : (setSeq b i q).parts = b.parts := rfl
@[simp] theorem setSeq_cores (b : Block) (i : Nat) (q : Seq) : (setSeq b i q).cores = b.cores := rfl
@[simp] theorem setSeq_xlat (b : Block) (i : Nat) (q : Seq) : (setSeq b i q).xlat = b.xlat := rfl
@[simp] theorem setSeq_mem (b : Block) (i : Nat) (q : Seq) : (setSeq b i q).mem = b.mem := rfl
@[simp] theorem setSeq_acct (b : Block) (i : Nat) (q : Seq) : (setSeq b i q).acct = b.acct := rfl
@[simp] theorem setSeq_recov (b : Block) (i : Nat) (q : Seq) : (setSeq b i q).recov = b.recov := rfl
@[simp] theorem setSeq_lantern (b : Block) (i : Nat) (q : Seq) : (setSeq b i q).lantern = b.lantern := rfl
@[simp] theorem setSeq_jtag (b : Block) (i : Nat) (q : Seq) : (setSeq b i q).jtag = b.jtag := rfl
@[simp] theorem setSeq_pins (b : Block) (i : Nat) (q : Seq) : (setSeq b i q).pins = b.pins := rfl
@[simp] theorem setSeq_out (b : Block) (i : Nat) (q : Seq) : (setSeq b i q).out = b.out := rfl
@[simp] theorem setSeq_freeCtr (b : Block) (i : Nat) (q : Seq) : (setSeq b i q).freeCtr = b.freeCtr := rfl
@[simp] theorem setSeq_dealer_seqs (b : Block) (i : Nat) (q : Seq) : (setSeq b i q).dealer.seqs = tabSetD b.dealer.seqs i q (freeSeq 0) := rfl
@[simp] theorem setSeq_dealer_adapters (b : Block) (i : Nat) (q : Seq) : (setSeq b i q).dealer.adapters = b.dealer.adapters := rfl
@[simp] theorem setSeq_dealer_cmds (b : Block) (i : Nat) (q : Seq) : (setSeq b i q).dealer.cmds = b.dealer.cmds := rfl
@[simp] theorem setSeq_dealer_steps (b : Block) (i : Nat) (q : Seq) : (setSeq b i q).dealer.steps = b.dealer.steps := rfl
@[simp] theorem setSeq_dealer_loaded (b : Block) (i : Nat) (q : Seq) : (setSeq b i q).dealer.loaded = b.dealer.loaded := rfl
@[simp] theorem setSeq_dealer_running (b : Block) (i : Nat) (q : Seq) : (setSeq b i q).dealer.running = b.dealer.running := rfl
@[simp] theorem setSeq_dealer_skipped (b : Block) (i : Nat) (q : Seq) : (setSeq b i q).dealer.skipped = b.dealer.skipped := rfl
@[simp] theorem setSeq_dealer_bases (b : Block) (i : Nat) (q : Seq) : (setSeq b i q).dealer.bases = b.dealer.bases := rfl
@[simp] theorem setSeq_dealer_baseGens (b : Block) (i : Nat) (q : Seq) : (setSeq b i q).dealer.baseGens = b.dealer.baseGens := rfl
@[simp] theorem setSeq_dealer_nextCmd (b : Block) (i : Nat) (q : Seq) : (setSeq b i q).dealer.nextCmd = b.dealer.nextCmd := rfl
@[simp] theorem setSeq_dealer_nextStep (b : Block) (i : Nat) (q : Seq) : (setSeq b i q).dealer.nextStep = b.dealer.nextStep := rfl

/-! ### setAdapter -/

@[simp] theorem setAdapter_tb (b : Block) (i : Nat) (a : Adapter) : (setAdapter b i a).tb = b.tb := rfl
@[simp] theorem setAdapter_cal (b : Block) (i : Nat) (a : Adapter) : (setAdapter b i a).cal = b.cal := rfl
@[simp] theorem setAdapter_grotto (b : Block) (i : Nat) (a : Adapter) : (setAdapter b i a).grotto = b.grotto := rfl
@[simp] theorem setAdapter_fns (b : Block) (i : Nat) (a : Adapter) : (setAdapter b i a).fns = b.fns := rfl
@[simp] theorem setAdapter_ctxs (b : Block) (i : Nat) (a : Adapter) : (setAdapter b i a).ctxs = b.ctxs := rfl
@[simp] theorem setAdapter_parts (b : Block) (i : Nat) (a : Adapter) : (setAdapter b i a).parts = b.parts := rfl
@[simp] theorem setAdapter_cores (b : Block) (i : Nat) (a : Adapter) : (setAdapter b i a).cores = b.cores := rfl
@[simp] theorem setAdapter_xlat (b : Block) (i : Nat) (a : Adapter) : (setAdapter b i a).xlat = b.xlat := rfl
@[simp] theorem setAdapter_mem (b : Block) (i : Nat) (a : Adapter) : (setAdapter b i a).mem = b.mem := rfl
@[simp] theorem setAdapter_acct (b : Block) (i : Nat) (a : Adapter) : (setAdapter b i a).acct = b.acct := rfl
@[simp] theorem setAdapter_recov (b : Block) (i : Nat) (a : Adapter) : (setAdapter b i a).recov = b.recov := rfl
@[simp] theorem setAdapter_lantern (b : Block) (i : Nat) (a : Adapter) : (setAdapter b i a).lantern = b.lantern := rfl
@[simp] theorem setAdapter_jtag (b : Block) (i : Nat) (a : Adapter) : (setAdapter b i a).jtag = b.jtag := rfl
@[simp] theorem setAdapter_pins (b : Block) (i : Nat) (a : Adapter) : (setAdapter b i a).pins = b.pins := rfl
@[simp] theorem setAdapter_out (b : Block) (i : Nat) (a : Adapter) : (setAdapter b i a).out = b.out := rfl
@[simp] theorem setAdapter_freeCtr (b : Block) (i : Nat) (a : Adapter) : (setAdapter b i a).freeCtr = b.freeCtr := rfl
@[simp] theorem setAdapter_dealer_seqs (b : Block) (i : Nat) (a : Adapter) : (setAdapter b i a).dealer.seqs = b.dealer.seqs := rfl
@[simp] theorem setAdapter_dealer_adapters (b : Block) (i : Nat) (a : Adapter) :
    (setAdapter b i a).dealer.adapters = tabSetD b.dealer.adapters i a adapterNone := rfl
@[simp] theorem setAdapter_dealer_cmds (b : Block) (i : Nat) (a : Adapter) : (setAdapter b i a).dealer.cmds = b.dealer.cmds := rfl
@[simp] theorem setAdapter_dealer_steps (b : Block) (i : Nat) (a : Adapter) : (setAdapter b i a).dealer.steps = b.dealer.steps := rfl
@[simp] theorem setAdapter_dealer_loaded (b : Block) (i : Nat) (a : Adapter) : (setAdapter b i a).dealer.loaded = b.dealer.loaded := rfl
@[simp] theorem setAdapter_dealer_running (b : Block) (i : Nat) (a : Adapter) : (setAdapter b i a).dealer.running = b.dealer.running := rfl
@[simp] theorem setAdapter_dealer_skipped (b : Block) (i : Nat) (a : Adapter) : (setAdapter b i a).dealer.skipped = b.dealer.skipped := rfl
@[simp] theorem setAdapter_dealer_bases (b : Block) (i : Nat) (a : Adapter) : (setAdapter b i a).dealer.bases = b.dealer.bases := rfl
@[simp] theorem setAdapter_dealer_baseGens (b : Block) (i : Nat) (a : Adapter) : (setAdapter b i a).dealer.baseGens = b.dealer.baseGens := rfl
@[simp] theorem setAdapter_dealer_nextCmd (b : Block) (i : Nat) (a : Adapter) : (setAdapter b i a).dealer.nextCmd = b.dealer.nextCmd := rfl
@[simp] theorem setAdapter_dealer_nextStep (b : Block) (i : Nat) (a : Adapter) : (setAdapter b i a).dealer.nextStep = b.dealer.nextStep := rfl

/-! ### setBase -/

@[simp] theorem setBase_tb (b : Block) (i : Nat) (x : BaseSet) : (setBase b i x).tb = b.tb := rfl
@[simp] theorem setBase_cal (b : Block) (i : Nat) (x : BaseSet) : (setBase b i x).cal = b.cal := rfl
@[simp] theorem setBase_grotto (b : Block) (i : Nat) (x : BaseSet) : (setBase b i x).grotto = b.grotto := rfl
@[simp] theorem setBase_fns (b : Block) (i : Nat) (x : BaseSet) : (setBase b i x).fns = b.fns := rfl
@[simp] theorem setBase_ctxs (b : Block) (i : Nat) (x : BaseSet) : (setBase b i x).ctxs = b.ctxs := rfl
@[simp] theorem setBase_parts (b : Block) (i : Nat) (x : BaseSet) : (setBase b i x).parts = b.parts := rfl
@[simp] theorem setBase_cores (b : Block) (i : Nat) (x : BaseSet) : (setBase b i x).cores = b.cores := rfl
@[simp] theorem setBase_xlat (b : Block) (i : Nat) (x : BaseSet) : (setBase b i x).xlat = b.xlat := rfl
@[simp] theorem setBase_mem (b : Block) (i : Nat) (x : BaseSet) : (setBase b i x).mem = b.mem := rfl
@[simp] theorem setBase_acct (b : Block) (i : Nat) (x : BaseSet) : (setBase b i x).acct = b.acct := rfl
@[simp] theorem setBase_recov (b : Block) (i : Nat) (x : BaseSet) : (setBase b i x).recov = b.recov := rfl
@[simp] theorem setBase_lantern (b : Block) (i : Nat) (x : BaseSet) : (setBase b i x).lantern = b.lantern := rfl
@[simp] theorem setBase_jtag (b : Block) (i : Nat) (x : BaseSet) : (setBase b i x).jtag = b.jtag := rfl
@[simp] theorem setBase_pins (b : Block) (i : Nat) (x : BaseSet) : (setBase b i x).pins = b.pins := rfl
@[simp] theorem setBase_out (b : Block) (i : Nat) (x : BaseSet) : (setBase b i x).out = b.out := rfl
@[simp] theorem setBase_freeCtr (b : Block) (i : Nat) (x : BaseSet) : (setBase b i x).freeCtr = b.freeCtr := rfl
@[simp] theorem setBase_dealer_seqs (b : Block) (i : Nat) (x : BaseSet) : (setBase b i x).dealer.seqs = b.dealer.seqs := rfl
@[simp] theorem setBase_dealer_adapters (b : Block) (i : Nat) (x : BaseSet) : (setBase b i x).dealer.adapters = b.dealer.adapters := rfl
@[simp] theorem setBase_dealer_cmds (b : Block) (i : Nat) (x : BaseSet) : (setBase b i x).dealer.cmds = b.dealer.cmds := rfl
@[simp] theorem setBase_dealer_steps (b : Block) (i : Nat) (x : BaseSet) : (setBase b i x).dealer.steps = b.dealer.steps := rfl
@[simp] theorem setBase_dealer_loaded (b : Block) (i : Nat) (x : BaseSet) : (setBase b i x).dealer.loaded = b.dealer.loaded := rfl
@[simp] theorem setBase_dealer_running (b : Block) (i : Nat) (x : BaseSet) : (setBase b i x).dealer.running = b.dealer.running := rfl
@[simp] theorem setBase_dealer_skipped (b : Block) (i : Nat) (x : BaseSet) : (setBase b i x).dealer.skipped = b.dealer.skipped := rfl
@[simp] theorem setBase_dealer_bases (b : Block) (i : Nat) (x : BaseSet) : (setBase b i x).dealer.bases = tabSet b.dealer.bases i x := rfl
@[simp] theorem setBase_dealer_baseGens (b : Block) (i : Nat) (x : BaseSet) : (setBase b i x).dealer.baseGens = b.dealer.baseGens := rfl
@[simp] theorem setBase_dealer_nextCmd (b : Block) (i : Nat) (x : BaseSet) : (setBase b i x).dealer.nextCmd = b.dealer.nextCmd := rfl
@[simp] theorem setBase_dealer_nextStep (b : Block) (i : Nat) (x : BaseSet) : (setBase b i x).dealer.nextStep = b.dealer.nextStep := rfl

/-! ### Acting on the block -/

@[simp] theorem onBlock_next (f : Block → Block) (s : State) : onBlock f s = .next { s with blk := f s.blk } := rfl

end Sys2Proof.Machine
end

