-- ==== Sys2Proof/Laws/Table.lean ====
section
/-!
SUPPORT. The laws of sparse tables and byte memories: an entry reads as it was last set, every other entry as before, and each
operation keeps the canonical form.
-/

namespace Sys2Proof.Machine

open Sys2Proof

/-! ## Reading a table -/

@[simp] theorem tabGet_nil {α : Type} (k : Nat) : tabGet ([] : Tab α) k = none := rfl

theorem tabGet_cons {α : Type} (a : Nat) (v : α) (t : Tab α) (k : Nat) :
    tabGet ((a, v) :: t) k = if a = k then some v else tabGet t k := rfl

@[simp] theorem tabGet_tabSet_self {α : Type} (t : Tab α) (k : Nat) (v : α) : tabGet (tabSet t k v) k = some v := by
  induction t with
  | nil => simp [tabSet, tabGet]
  | cons e t ih =>
    obtain ⟨a, w⟩ := e
    simp only [tabSet]
    split
    · simp [tabGet]
    · split
      · simp [tabGet]
      · rename_i h
        simp only [tabGet]
        rw [if_neg (fun h' => h h'.symm), ih]

theorem tabGet_tabSet_other {α : Type} (t : Tab α) {k j : Nat} (v : α) (h : j ≠ k) : tabGet (tabSet t k v) j = tabGet t j := by
  induction t with
  | nil => simp [tabSet, tabGet, Ne.symm h]
  | cons e t ih =>
    obtain ⟨a, w⟩ := e
    simp only [tabSet]
    split
    · simp [tabGet, Ne.symm h]
    · split
      · rename_i hk
        subst hk
        simp [tabGet, Ne.symm h]
      · simp only [tabGet, ih]

theorem tabGet_tabSet {α : Type} (t : Tab α) (k j : Nat) (v : α) :
    tabGet (tabSet t k v) j = if j = k then some v else tabGet t j := by
  split
  · subst_vars; simp
  · exact tabGet_tabSet_other t v ‹_›

theorem tabGet_filter {α : Type} (t : Tab α) (p : Nat → Bool) (k : Nat) :
    tabGet (t.filter (fun e => p e.1)) k = if p k then tabGet t k else none := by
  induction t with
  | nil => simp
  | cons e t ih =>
    obtain ⟨a, w⟩ := e
    by_cases ha : p a = true
    · rw [List.filter_cons_of_pos (by simpa using ha)]
      simp only [tabGet, ih]
      split
      · subst_vars; simp [ha]
      · rfl
    · rw [List.filter_cons_of_neg (by simpa using ha), ih]
      simp only [tabGet]
      by_cases hk : a = k
      · subst hk; simp [ha]
      · simp [hk]

@[simp] theorem tabGet_tabDel_self {α : Type} (t : Tab α) (k : Nat) : tabGet (tabDel t k) k = none := by
  unfold tabDel
  rw [tabGet_filter t (fun a => a != k) k]
  simp

theorem tabGet_tabDel_other {α : Type} (t : Tab α) {k j : Nat} (h : j ≠ k) : tabGet (tabDel t k) j = tabGet t j := by
  unfold tabDel
  rw [tabGet_filter t (fun a => a != k) j]
  simp [h]

@[simp] theorem tabGetD_tabSetD_self {α : Type} [DecidableEq α] (t : Tab α) (k : Nat) (v d : α) :
    tabGetD (tabSetD t k v d) k d = v := by
  unfold tabGetD tabSetD
  split
  · subst_vars; simp
  · simp

theorem tabGetD_tabSetD_other {α : Type} [DecidableEq α] (t : Tab α) {k j : Nat} (v d : α) (h : j ≠ k) :
    tabGetD (tabSetD t k v d) j d = tabGetD t j d := by
  unfold tabGetD tabSetD
  split
  · rw [tabGet_tabDel_other t h]
  · rw [tabGet_tabSet_other t v h]

theorem tabGet_tabMod {α : Type} (t : Tab α) (k j : Nat) (f : α → α) :
    tabGet (tabMod t k f) j = if j = k then (tabGet t j).map f else tabGet t j := by
  induction t with
  | nil => simp [tabMod]
  | cons e t ih =>
    obtain ⟨a, w⟩ := e
    simp only [tabMod, List.map_cons] at ih ⊢
    by_cases ha : a = k
    · subst ha
      simp only [if_true, tabGet, ih]
      by_cases hj : a = j
      · subst hj; simp
      · simp [hj, Ne.symm hj]
    · simp only [ha, if_false, tabGet, ih]
      by_cases hj : a = j
      · subst hj; simp [ha]
      · simp [hj]

@[simp] theorem tabGet_tabMod_self {α : Type} (t : Tab α) (k : Nat) (f : α → α) :
    tabGet (tabMod t k f) k = (tabGet t k).map f := by simp [tabGet_tabMod]

theorem tabGet_tabMod_other {α : Type} (t : Tab α) {k j : Nat} (f : α → α) (h : j ≠ k) :
    tabGet (tabMod t k f) j = tabGet t j := by simp [tabGet_tabMod, h]

theorem tabGet_tabMap {α β : Type} (t : Tab α) (f : Nat → α → β) (k : Nat) :
    tabGet (tabMap t f) k = (tabGet t k).map (f k) := by
  induction t with
  | nil => simp [tabMap]
  | cons e t ih =>
    obtain ⟨a, w⟩ := e
    simp only [tabMap, List.map_cons, tabGet] at ih ⊢
    split
    · subst_vars; simp
    · exact ih

theorem tabGet_tabClear {α : Type} (t : Tab α) (lo n k : Nat) :
    tabGet (tabClear t lo n) k = if lo ≤ k ∧ k < lo + n then none else tabGet t k := by
  unfold tabClear
  rw [tabGet_filter t (fun a => !(decide (lo ≤ a) && decide (a < lo + n))) k]
  by_cases h : lo ≤ k ∧ k < lo + n
  · simp [h]
  · rw [if_neg h, if_pos]
    by_cases h1 : lo ≤ k
    · have h2 : ¬ k < lo + n := fun h3 => h ⟨h1, h3⟩
      simp [h2]
    · simp [h1]

/-! ## Rising keys -/

theorem tabRising_cons {α : Type} (a : Nat) (v : α) (t : Tab α) :
    tabRising ((a, v) :: t) = true ↔ (∀ e ∈ t, a < e.1) ∧ tabRising t = true := by
  induction t generalizing a v with
  | nil => simp [tabRising]
  | cons e t ih =>
    obtain ⟨b, w⟩ := e
    simp only [tabRising, Bool.and_eq_true, decide_eq_true_eq, List.mem_cons, forall_eq_or_imp]
    constructor
    · rintro ⟨hab, h⟩
      exact ⟨⟨hab, fun e he => Nat.lt_trans hab (((ih b w).1 h).1 e he)⟩, h⟩
    · rintro ⟨⟨hab, _⟩, h⟩
      exact ⟨hab, h⟩

theorem tabRising_filter {α : Type} (t : Tab α) (p : Nat × α → Bool) (h : tabRising t = true) : tabRising (t.filter p) = true := by
  induction t with
  | nil => simp [tabRising]
  | cons e t ih =>
    obtain ⟨a, v⟩ := e
    rw [tabRising_cons] at h
    by_cases hp : p (a, v) = true
    · rw [List.filter_cons_of_pos hp, tabRising_cons]
      exact ⟨fun e he => h.1 e ((List.mem_filter.1 he).1), ih h.2⟩
    · rw [List.filter_cons_of_neg hp]
      exact ih h.2

theorem mem_tabSet {α : Type} (t : Tab α) (k : Nat) (v : α) {e : Nat × α} (h : e ∈ tabSet t k v) : e = (k, v) ∨ e ∈ t := by
  induction t with
  | nil => simpa [tabSet] using h
  | cons x t ih =>
    obtain ⟨a, w⟩ := x
    simp only [tabSet] at h
    split at h
    · simpa using h
    · split at h
      · simp only [List.mem_cons] at h ⊢
        exact h.imp id Or.inr
      · simp only [List.mem_cons] at h ⊢
        rcases h with h | h
        · exact Or.inr (Or.inl h)
        · exact (ih h).imp id Or.inr

theorem tabRising_tabSet {α : Type} (t : Tab α) (k : Nat) (v : α) (h : tabRising t = true) : tabRising (tabSet t k v) = true := by
  induction t with
  | nil => simp [tabSet, tabRising]
  | cons e t ih =>
    obtain ⟨a, w⟩ := e
    have h' := (tabRising_cons a w t).1 h
    simp only [tabSet]
    split
    · rename_i hk
      rw [tabRising_cons]
      refine ⟨?_, h⟩
      intro e he
      rcases List.mem_cons.1 he with rfl | he
      · exact hk
      · exact Nat.lt_trans hk (h'.1 e he)
    · split
      · rename_i hk
        subst hk
        rw [tabRising_cons]
        exact h'
      · rename_i h1 h2
        rw [tabRising_cons]
        refine ⟨?_, ih h'.2⟩
        intro e he
        rcases mem_tabSet t k v he with rfl | he
        · exact Nat.lt_of_le_of_ne (Nat.not_lt.1 h1) (fun h3 => h2 h3.symm)
        · exact h'.1 e he

theorem tabRising_tabDel {α : Type} (t : Tab α) (k : Nat) (h : tabRising t = true) : tabRising (tabDel t k) = true :=
  tabRising_filter t _ h

theorem tabRising_tabSetD {α : Type} [DecidableEq α] (t : Tab α) (k : Nat) (v d : α) (h : tabRising t = true) :
    tabRising (tabSetD t k v d) = true := by
  unfold tabSetD
  split
  · exact tabRising_tabDel t k h
  · exact tabRising_tabSet t k v h

/-- With rising keys a listed entry is the one its key reads as. -/
theorem tabGet_of_mem {α : Type} {t : Tab α} (h : tabRising t = true) {k : Nat} {v : α} (hm : (k, v) ∈ t) : tabGet t k = some v := by
  induction t with
  | nil => cases hm
  | cons e t ih =>
    obtain ⟨a, w⟩ := e
    have h' := (tabRising_cons a w t).1 h
    rcases List.mem_cons.1 hm with heq | hm
    · cases heq; simp [tabGet]
    · have := h'.1 _ hm
      simp only [tabGet]
      rw [if_neg (by simp only at this; omega)]
      exact ih h'.2 hm

theorem mem_of_tabGet {α : Type} {t : Tab α} {k : Nat} {v : α} (h : tabGet t k = some v) : (k, v) ∈ t := by
  induction t with
  | nil => simp at h
  | cons e t ih =>
    obtain ⟨a, w⟩ := e
    simp only [tabGet] at h
    split at h
    · cases h; subst_vars; exact List.mem_cons_self
    · exact List.mem_cons_of_mem _ (ih h)

/-! ## Byte memories -/

@[simp] theorem memRead_memWrite_self (m : ByteMem) (a : Nat) (x : Byte) : memRead (memWrite m a x) a = x :=
  tabGetD_tabSetD_self m a x 0

theorem memRead_memWrite_other (m : ByteMem) {a c : Nat} (x : Byte) (h : c ≠ a) : memRead (memWrite m a x) c = memRead m c :=
  tabGetD_tabSetD_other m x 0 h

theorem memRead_memWriteN (m : ByteMem) (a c : Nat) (bs : List Byte) :
    memRead (memWriteN m a bs) c = if a ≤ c ∧ c < a + bs.length then bs.getD (c - a) 0 else memRead m c := by
  induction bs generalizing m a with
  | nil =>
    simp only [memWriteN, List.length_nil]
    rw [if_neg (by omega)]
  | cons x xs ih =>
    simp only [memWriteN, ih, List.length_cons]
    by_cases hc : c = a
    · subst hc
      rw [if_neg (by omega), if_pos (by omega)]
      simp
    · rw [memRead_memWrite_other m x hc]
      by_cases h : a + 1 ≤ c ∧ c < a + 1 + xs.length
      · rw [if_pos h, if_pos (by omega)]
        obtain ⟨n, rfl⟩ : ∃ n, c = a + (n + 1) := ⟨c - a - 1, by omega⟩
        have h1 : a + (n + 1) - (a + 1) = n := by omega
        have h2 : a + (n + 1) - a = n + 1 := by omega
        simp [h1, h2]
      · rw [if_neg h, if_neg (by omega)]

theorem memRead_memZero (m : ByteMem) (a n c : Nat) :
    memRead (memZero m a n) c = if a ≤ c ∧ c < a + n then 0 else memRead m c := by
  unfold memRead memZero tabGetD
  rw [tabGet_tabClear]
  split <;> rfl

@[simp] theorem memReadN_length (m : ByteMem) (a n : Nat) : (memReadN m a n).length = n := by
  induction n generalizing a with
  | zero => rfl
  | succ n ih => simp [memReadN, ih]

theorem memReadN_getD (m : ByteMem) (a n i : Nat) (h : i < n) : (memReadN m a n).getD i 0 = memRead m (a + i) := by
  induction n generalizing a i with
  | zero => omega
  | succ n ih =>
    cases i with
    | zero => simp [memReadN]
    | succ i =>
      have := ih (a + 1) i (by omega)
      simp only [memReadN, List.getD_cons_succ, this]
      congr 1
      omega

/-- A range reads the same in memories that agree on it. -/
theorem memReadN_congr {m1 m2 : ByteMem} {a n : Nat} (h : ∀ c, a ≤ c → c < a + n → memRead m1 c = memRead m2 c) :
    memReadN m1 a n = memReadN m2 a n := by
  induction n generalizing a with
  | zero => rfl
  | succ n ih =>
    simp only [memReadN]
    rw [h a (by omega) (by omega), ih (fun c h1 h2 => h c (by omega) (by omega))]

/-- What was written is read back. -/
theorem memReadN_memWriteN_self (m : ByteMem) (a : Nat) (bs : List Byte) : memReadN (memWriteN m a bs) a bs.length = bs := by
  apply List.ext_getElem
  · simp
  · intro i h1 h2
    have h := memReadN_getD (memWriteN m a bs) a bs.length i h2
    rw [memRead_memWriteN, if_pos (by omega)] at h
    have e1 : (memReadN (memWriteN m a bs) a bs.length).getD i 0 = (memReadN (memWriteN m a bs) a bs.length)[i] := by
      simp [List.getD, List.getElem?_eq_getElem h1]
    have e2 : bs.getD (a + i - a) 0 = bs[i] := by
      have : a + i - a = i := by omega
      simp [this, List.getD, List.getElem?_eq_getElem h2]
    rw [← e1, h, e2]

theorem memWf_nil : Memory.wf [] := by decide

theorem memWf_filter {m : ByteMem} (p : Nat × Byte → Bool) (h : Memory.wf m) : Memory.wf (m.filter p) := by
  refine ⟨tabRising_filter m p h.1, ?_⟩
  rw [List.all_eq_true]
  intro e he
  exact List.all_eq_true.1 h.2 e ((List.mem_filter.1 he).1)

theorem memWf_memWrite {m : ByteMem} (a : Nat) (x : Byte) (h : Memory.wf m) : Memory.wf (memWrite m a x) := by
  unfold memWrite tabSetD
  split
  · exact memWf_filter _ h
  · rename_i hx
    refine ⟨tabRising_tabSet m a x h.1, ?_⟩
    rw [List.all_eq_true]
    intro e he
    rcases mem_tabSet m a x he with rfl | he
    · simpa using hx
    · exact List.all_eq_true.1 h.2 e he

theorem memWf_memWriteN {m : ByteMem} (a : Nat) (bs : List Byte) (h : Memory.wf m) : Memory.wf (memWriteN m a bs) := by
  induction bs generalizing m a with
  | nil => exact h
  | cons x xs ih => exact ih (a + 1) (memWf_memWrite a x h)

theorem memWf_memZero {m : ByteMem} (a n : Nat) (h : Memory.wf m) : Memory.wf (memZero m a n) := memWf_filter _ h

end Sys2Proof.Machine
end

