-- ==== Sys2Proof/Laws/Block.lean ====
section
/-!
SUPPORT. What the block's accessors read after its updates, the ends of commands, and the memory operations: the bytes they change and
the canonical form they keep.
-/

namespace Sys2Proof.Machine

open Sys2Proof

/-! ## Accessors -/

@[simp] theorem fnAt_setFn_self (b : Block) (f : Nat) (x : Fn) : fnAt (setFn b f x) f = x := by simp [fnAt]

theorem fnAt_setFn_other (b : Block) {f g : Nat} (x : Fn) (h : g ≠ f) : fnAt (setFn b f x) g = fnAt b g := by
  simp [fnAt, tabGetD_tabSetD_other _ _ _ h]

@[simp] theorem fnAt_modFn_self (b : Block) (f : Nat) (g : Fn → Fn) : fnAt (modFn b f g) f = g (fnAt b f) := by
  simp [modFn]

theorem fnAt_modFn_other (b : Block) {f k : Nat} (g : Fn → Fn) (h : k ≠ f) : fnAt (modFn b f g) k = fnAt b k := by
  simp only [modFn, fnAt_setFn_other b _ h]

@[simp] theorem ctxAt_setCtx_self (b : Block) (tag : Nat) (c : Ctx) : ctxAt (setCtx b tag c) tag = some c := by simp [ctxAt]

theorem ctxAt_setCtx_other (b : Block) {tag x : Nat} (c : Ctx) (h : x ≠ tag) : ctxAt (setCtx b tag c) x = ctxAt b x := by
  simp [ctxAt, tabGet_tabSet_other _ _ h]

@[simp] theorem ctxAt_modCtx_self (b : Block) (tag : Nat) (g : Ctx → Ctx) : ctxAt (modCtx b tag g) tag = (ctxAt b tag).map g := by
  simp [ctxAt]

theorem ctxAt_modCtx_other (b : Block) {tag x : Nat} (g : Ctx → Ctx) (h : x ≠ tag) : ctxAt (modCtx b tag g) x = ctxAt b x := by
  simp [ctxAt, tabGet_tabMod_other _ _ h]

@[simp] theorem ctxAt_delCtx_self (b : Block) (tag : Nat) : ctxAt (delCtx b tag) tag = none := by simp [ctxAt]

theorem ctxAt_delCtx_other (b : Block) {tag x : Nat} (h : x ≠ tag) : ctxAt (delCtx b tag) x = ctxAt b x := by
  simp [ctxAt, tabGet_tabDel_other _ h]

@[simp] theorem partAt_modPart_self (b : Block) (v : Nat) (g : Part → Part) : partAt (modPart b v g) v = (partAt b v).map g := by
  simp [partAt]

theorem partAt_modPart_other (b : Block) {v x : Nat} (g : Part → Part) (h : x ≠ v) : partAt (modPart b v g) x = partAt b x := by
  simp [partAt, tabGet_tabMod_other _ _ h]

@[simp] theorem coreAt_setCore_self (b : Block) (i : Nat) (c : Core) : coreAt (setCore b i c) i = c := by simp [coreAt]

theorem coreAt_setCore_other (b : Block) {i j : Nat} (c : Core) (h : j ≠ i) : coreAt (setCore b i c) j = coreAt b j := by
  simp [coreAt, tabGetD_tabSetD_other _ _ _ h]

@[simp] theorem coreAt_modCore_self (b : Block) (i : Nat) (g : Core → Core) : coreAt (modCore b i g) i = g (coreAt b i) := by
  simp [modCore]

theorem coreAt_modCore_other (b : Block) {i j : Nat} (g : Core → Core) (h : j ≠ i) : coreAt (modCore b i g) j = coreAt b j := by
  simp only [modCore, coreAt_setCore_other b _ h]

/-- Every core changed alike, by a change that leaves a core of nothing as it is. -/
theorem coreAt_tabMap (b : Block) (f : Nat → Core → Core) (h : ∀ i, f i Core.reset = Core.reset) (i : Nat) :
    coreAt { b with cores := tabMap b.cores f } i = f i (coreAt b i) := by
  simp only [coreAt, tabGetD, tabGet_tabMap]
  cases tabGet b.cores i with
  | none => exact (h i).symm
  | some c => rfl

@[simp] theorem seqAt_setSeq_self (b : Block) (i : Nat) (q : Seq) : seqAt (setSeq b i q) i = q := by simp [seqAt]

theorem seqAt_setSeq_other (b : Block) {i j : Nat} (q : Seq) (h : j ≠ i) : seqAt (setSeq b i q) j = seqAt b j := by
  simp [seqAt, tabGetD_tabSetD_other _ _ _ h]

@[simp] theorem adapterAt_setAdapter_self (b : Block) (i : Nat) (a : Adapter) : adapterAt (setAdapter b i a) i = a := by
  simp [adapterAt]

theorem adapterAt_setAdapter_other (b : Block) {i j : Nat} (a : Adapter) (h : j ≠ i) :
    adapterAt (setAdapter b i a) j = adapterAt b j := by
  simp [adapterAt, tabGetD_tabSetD_other _ _ _ h]

/-! ## Commands and steps -/

theorem find?_map_step (l : List Step) (p : Step → Bool) (f : Step → Step) (h : ∀ x, p (f x) = p x) :
    (l.map f).find? p = (l.find? p).map f := by
  induction l with
  | nil => rfl
  | cons x xs ih =>
    simp only [List.map_cons, List.find?_cons, h]
    split <;> simp [ih]

theorem stepById_modStep_self (b : Block) (id : Nat) (g : Step → Step) (hg : ∀ x, (g x).id = x.id) :
    stepById (modStep b id g) id = (stepById b id).map g := by
  unfold stepById
  rw [modStep_dealer_steps, find?_map_step]
  · cases h : b.dealer.steps.find? (fun x => x.id == id) with
    | none => rfl
    | some x =>
      have := List.find?_some h
      simp only [beq_iff_eq] at this
      simp [this]
  · intro x
    split <;> simp [hg]

theorem stepById_modStep_other (b : Block) {id j : Nat} (g : Step → Step) (hg : ∀ x, (g x).id = x.id) (h : j ≠ id) :
    stepById (modStep b id g) j = stepById b j := by
  unfold stepById
  rw [modStep_dealer_steps, find?_map_step]
  · cases hx : b.dealer.steps.find? (fun x => x.id == j) with
    | none => rfl
    | some x =>
      have := List.find?_some hx
      simp only [beq_iff_eq] at this
      simp [this, h]
  · intro x
    split <;> simp [hg]

/-- A command that has been ended waits for its record with that status. -/
theorem finish_ended (b : Block) (id : Nat) (st : BitVec 16) (detail : BitVec 32) (h : ∃ c ∈ b.dealer.cmds, c.id = id) :
    ∃ c ∈ (finish b id st detail).dealer.cmds, c.id = id ∧ c.stage = .done st detail := by
  obtain ⟨c, hc, hid⟩ := h
  refine ⟨{ c with stage := .done st detail }, ?_, hid, rfl⟩
  rw [finish_dealer_cmds, List.mem_map]
  exact ⟨c, hc, by simp [hid]⟩

theorem setCmd_stands (b : Block) (id : Nat) (st : CmdStage) (h : ∃ c ∈ b.dealer.cmds, c.id = id) :
    ∃ c ∈ (setCmd b id st).dealer.cmds, c.id = id ∧ c.stage = st := by
  obtain ⟨c, hc, hid⟩ := h
  refine ⟨{ c with stage := st }, ?_, hid, rfl⟩
  rw [setCmd_dealer_cmds, List.mem_map]
  exact ⟨c, hc, by simp [hid]⟩

/-- Commands that other work ends are still there. -/
theorem finishAll_keeps (b : Block) (p : Cmd → Bool) (st : BitVec 16) (detail : BitVec 32) {c : Cmd} (h : c ∈ b.dealer.cmds)
    (hp : p c = false) : c ∈ (finishAll b p st detail).dealer.cmds := by
  rw [finishAll_dealer_cmds, List.mem_map]
  exact ⟨c, h, by simp [hp]⟩

theorem finishAll_ends (b : Block) (p : Cmd → Bool) (st : BitVec 16) (detail : BitVec 32) {c : Cmd} (h : c ∈ b.dealer.cmds)
    (hp : p c = true) : { c with stage := .done st detail } ∈ (finishAll b p st detail).dealer.cmds := by
  rw [finishAll_dealer_cmds, List.mem_map]
  exact ⟨c, h, by simp [hp]⟩

/-! ## Packets -/

/-- A packet that the front end would not fetch now changes nothing. -/
theorem fetchPacket_out_of_turn (i : Instr) (q : QRef) (h : Hdr) (op : BitVec 8) (own : Nat → Block → Block) (b : Block)
    (hn : canFetch b q = false) : fetchPacket i q h op own b = b := by simp [fetchPacket, hn]

/-- A packet whose CQ has no free entry is fetched and held. -/
theorem fetchPacket_held (i : Instr) (q : QRef) (h : Hdr) (op : BitVec 8) (own : Nat → Block → Block) (b : Block)
    (hf : canFetch b q = true) (hr : cqHasRoom (takeEntry b q) q (recordCq (takeEntry b q) q h).1 = false) :
    fetchPacket i q h op own b = addCmd (takeEntry b q) i q h op (.held (packetStatus (takeEntry b q) q h op)) := by
  simp [fetchPacket, hf, hr]

/-- A packet that is fetched with its CQ entry reserved runs the checks of R242, then its own work. -/
theorem fetchPacket_fetched (i : Instr) (q : QRef) (h : Hdr) (op : BitVec 8) (own : Nat → Block → Block) (b : Block)
    (hf : canFetch b q = true) (hr : cqHasRoom (takeEntry b q) q (recordCq (takeEntry b q) q h).1 = true) :
    fetchPacket i q h op own b = runChecked q h op (takeEntry b q).dealer.nextCmd own
      (addCmd (reserveCq (takeEntry b q) q (recordCq (takeEntry b q) q h).1) i q h op (.done stOk 0)) := by
  simp [fetchPacket, hf, hr]

theorem runChecked_passes (q : QRef) (h : Hdr) (op : BitVec 8) (id : Nat) (own : Nat → Block → Block) (b : Block)
    (hs : packetStatus b q h op = none) (hd : queueDying b q = false) : runChecked q h op id own b = own id b := by
  simp [runChecked, hs, hd]

theorem runChecked_fails (q : QRef) (h : Hdr) (op : BitVec 8) (id : Nat) (own : Nat → Block → Block) (b : Block)
    (st : BitVec 16) (d : BitVec 32) (hs : packetStatus b q h op = some (st, d)) : runChecked q h op id own b = finish b id st d := by
  simp [runChecked, hs]

/-! ## Memory -/

/-- A change of a block that leaves the bytes of its memories and its cores as they are. -/
def KeepsBytes (b c : Block) : Prop := c.mem.bytes = b.mem.bytes ∧ c.mem.host = b.mem.host ∧ c.cores = b.cores

theorem KeepsBytes.refl (b : Block) : KeepsBytes b b := ⟨rfl, rfl, rfl⟩

theorem KeepsBytes.trans {b c d : Block} (h : KeepsBytes b c) (h' : KeepsBytes c d) : KeepsBytes b d :=
  ⟨h'.1.trans h.1, h'.2.1.trans h.2.1, h'.2.2.trans h.2.2⟩

/-- A cache line filled or overwritten changes no byte. -/
theorem cachePut_keeps (b : Block) (pa : Nat) (failing : Bool) : KeepsBytes b (cachePut b pa failing) := by
  unfold cachePut; split <;> exact ⟨rfl, rfl, rfl⟩

theorem cacheWrite_keeps (b : Block) (pa : Nat) : KeepsBytes b (cacheWrite b pa) := cachePut_keeps b pa false

theorem cacheFill_keeps (b : Block) (pa : Nat) : KeepsBytes b (cacheFill b pa) := by
  unfold cacheFill; split
  · exact KeepsBytes.refl b
  · exact cachePut_keeps ..

/-- A tile written changes its own bytes alone, whatever its check says. -/
theorem writeTileErr_bytes (b : Block) (pa : Nat) (z : Bool) (t : List Byte) (err : BitVec 32) :
    (writeTileErr b pa z t err).mem.bytes = memWriteN b.mem.bytes pa t := by
  unfold writeTileErr; rw [(cacheWrite_keeps _ _).1]; rfl

theorem writeTileErr_host (b : Block) (pa : Nat) (z : Bool) (t : List Byte) (err : BitVec 32) :
    (writeTileErr b pa z t err).mem.host = b.mem.host := by
  unfold writeTileErr; rw [(cacheWrite_keeps _ _).2.1]; rfl

theorem writeTileErr_cores (b : Block) (pa : Nat) (z : Bool) (t : List Byte) (err : BitVec 32) :
    (writeTileErr b pa z t err).cores = b.cores := by
  unfold writeTileErr; rw [(cacheWrite_keeps _ _).2.2]; rfl

theorem writeTile_bytes (b : Block) (pa : Nat) (z : Bool) (t : List Byte) :
    (writeTile b pa z t).mem.bytes = memWriteN b.mem.bytes pa t := writeTileErr_bytes ..

theorem writeTile_host (b : Block) (pa : Nat) (z : Bool) (t : List Byte) : (writeTile b pa z t).mem.host = b.mem.host :=
  writeTileErr_host ..

/-- A tile written reads back. -/
theorem tileBytes_writeTile (b : Block) (pa : Nat) (z : Bool) (t : List Byte) (h : t.length = 4096) :
    tileBytes (writeTile b pa z t) pa = t := by
  unfold tileBytes
  rw [writeTile_bytes, ← h]
  exact memReadN_memWriteN_self _ _ _

/-- One tile's share of a physical write changes its own bytes alone. -/
theorem writePart_bytes (b : Block) (pa : Nat) (bs : List Byte) : (writePart b pa bs).mem.bytes = memWriteN b.mem.bytes pa bs := by
  unfold writePart; dsimp only; rw [(cacheWrite_keeps _ _).1]; rfl

theorem writePart_host (b : Block) (pa : Nat) (bs : List Byte) : (writePart b pa bs).mem.host = b.mem.host := by
  unfold writePart; dsimp only; rw [(cacheWrite_keeps _ _).2.1]; rfl

theorem writePart_cores (b : Block) (pa : Nat) (bs : List Byte) : (writePart b pa bs).cores = b.cores := by
  unfold writePart; dsimp only; rw [(cacheWrite_keeps _ _).2.2]; rfl

theorem zeroPhys_bytes (b : Block) (pa n : Nat) : (zeroPhys b pa n).mem.bytes = memZero b.mem.bytes pa n := rfl

/-- The canonical form of the memories, kept by each operation that writes them. -/
theorem memoriesWf_of_mem {b c : Block} (h : Safety.memoriesWf b) (hb : c.mem.bytes = b.mem.bytes) (hh : c.mem.host = b.mem.host)
    (hc : c.cores = b.cores) : Safety.memoriesWf c := by
  unfold Safety.memoriesWf at *
  rw [hb, hh, hc]
  exact h

theorem memoriesWf_hostWrite {b : Block} (a : Nat) (bs : List Byte) (h : Safety.memoriesWf b) :
    Safety.memoriesWf (hostWrite b a bs) := ⟨h.1, memWf_memWriteN a bs h.2.1, h.2.2⟩

theorem memoriesWf_writeTileErr {b : Block} (pa : Nat) (z : Bool) (t : List Byte) (err : BitVec 32) (h : Safety.memoriesWf b) :
    Safety.memoriesWf (writeTileErr b pa z t err) := by
  refine ⟨?_, ?_, ?_⟩
  · rw [writeTileErr_bytes]; exact memWf_memWriteN pa t h.1
  · rw [writeTileErr_host]; exact h.2.1
  · rw [writeTileErr_cores]; exact h.2.2

theorem memoriesWf_writeTile {b : Block} (pa : Nat) (z : Bool) (t : List Byte) (h : Safety.memoriesWf b) :
    Safety.memoriesWf (writeTile b pa z t) := memoriesWf_writeTileErr pa z t 0 h

theorem memoriesWf_zeroPhys {b : Block} (pa n : Nat) (h : Safety.memoriesWf b) : Safety.memoriesWf (zeroPhys b pa n) :=
  ⟨memWf_memZero pa n h.1, h.2.1, h.2.2⟩

theorem memoriesWf_writePart {b : Block} (pa : Nat) (bs : List Byte) (h : Safety.memoriesWf b) :
    Safety.memoriesWf (writePart b pa bs) := by
  refine ⟨?_, ?_, ?_⟩
  · rw [writePart_bytes]; exact memWf_memWriteN pa bs h.1
  · rw [writePart_host]; exact h.2.1
  · rw [writePart_cores]; exact h.2.2

theorem foldl_memoriesWf {α : Type} (f : Block → α → Block) (hf : ∀ c x, Safety.memoriesWf c → Safety.memoriesWf (f c x)) (l : List α)
    {b : Block} (h : Safety.memoriesWf b) : Safety.memoriesWf (l.foldl f b) := by
  induction l generalizing b with
  | nil => exact h
  | cons x xs ih => exact ih (hf b x h)

theorem memoriesWf_writePhys {b : Block} (pa : Nat) (bs : List Byte) (h : Safety.memoriesWf b) :
    Safety.memoriesWf (writePhys b pa bs) := by
  unfold writePhys
  exact foldl_memoriesWf _ (fun c t hc => memoriesWf_writePart _ _ hc) _ h

theorem memoriesWf_setCore {b : Block} (i : Nat) (c : Core) (h : Safety.memoriesWf b) (hc : Memory.wf c.spad) :
    Safety.memoriesWf (setCore b i c) := by
  refine ⟨h.1, h.2.1, ?_⟩
  intro e he
  rw [setCore_cores] at he
  unfold tabSetD at he
  split at he
  · exact h.2.2 e (List.mem_filter.1 he).1
  · rcases mem_tabSet _ _ _ he with rfl | he
    · exact hc
    · exact h.2.2 e he

/-- A core's scratchpad is in canonical form where the memories are. -/
theorem spad_wf {b : Block} (h : Safety.memoriesWf b) (i : Nat) : Memory.wf (coreAt b i).spad := by
  unfold coreAt tabGetD
  cases hx : tabGet b.cores i with
  | none => exact memWf_nil
  | some c => exact h.2.2 _ (mem_of_tabGet hx)

/-! ## Reports of the memory arrays (R317) -/

/-- A block whose tile checks, cache lines and error counts alone may differ from another's. -/
def ReadsOf (b c : Block) : Prop :=
  c = { b with mem := { b.mem with tiles := c.mem.tiles, cache := c.mem.cache, ecc := c.mem.ecc, gecc := c.mem.gecc } }

theorem ReadsOf.refl (b : Block) : ReadsOf b b := rfl

theorem ReadsOf.trans {b c d : Block} (h : ReadsOf b c) (h' : ReadsOf c d) : ReadsOf b d := by
  unfold ReadsOf at *
  rw [h'] ; rw [h]

theorem countEcc_readsOf (b : Block) (pa n m : Nat) : ReadsOf b (countEcc b pa n m) := by
  unfold countEcc; split <;> rfl

theorem cachePut_readsOf (b : Block) (pa : Nat) (failing : Bool) : ReadsOf b (cachePut b pa failing) := by
  unfold cachePut; split <;> rfl

theorem cacheFill_readsOf (b : Block) (pa : Nat) : ReadsOf b (cacheFill b pa) := by
  unfold cacheFill; split
  · rfl
  · exact cachePut_readsOf ..

theorem noteArray_readsOf (b : Block) (pa c u : Nat) : ReadsOf b (noteArray b pa c u) := by
  unfold noteArray
  dsimp only
  split <;> split
  · rfl
  · exact countEcc_readsOf ..
  · rfl
  · exact (countEcc_readsOf ..).trans rfl

theorem noteLine_readsOf (b : Block) (key : Nat) (l : CacheLine) (c u : Nat) : ReadsOf b (noteLine b key l c u) := by
  unfold noteLine
  dsimp only
  split <;> split
  · rfl
  · exact countEcc_readsOf ..
  · rfl
  · exact (countEcc_readsOf ..).trans rfl

/-- A report that is no lost index entry changes nothing but the tile's check, its cache line and the counts. -/
theorem noteRead_readsOf (b : Block) (pa : Nat) (err : ReadErr) (h : err ≠ .lostEntry) : ReadsOf b (noteRead b pa err) := by
  have hs : ∀ line, ReadsOf b (noteServed b pa line err) := by
    intro line
    unfold noteServed
    dsimp only
    split
    · exact absurd rfl h
    · split
      · split
        · exact noteLine_readsOf ..
        · exact countEcc_readsOf ..
      · exact countEcc_readsOf ..
    · split
      · split
        · exact noteArray_readsOf ..
        · exact (noteArray_readsOf ..).trans rfl
      · exact noteArray_readsOf ..
  unfold noteRead
  split
  · exact hs _
  · exact (hs none).trans (cacheFill_readsOf ..)

end Sys2Proof.Machine
end

