-- ==== Sys2Proof/Laws/Packets.lean ====
section
/-!
SUPPORT. The fetch of packets in the statements' words: what a packet does that is accepted, that fails a check, or that is held.
-/

namespace Sys2Proof.Certificates

open Sys2Proof Sys2Proof.Machine

/-- Taking an entry leaves the Dealer alone. -/
theorem takeEntry_dealer (b : Block) (q : QRef) : (takeEntry b q).dealer = b.dealer := by
  have hset : ∀ (c : Block) (n : Nat), (setSqHead c q n).dealer = c.dealer := by
    intro c n
    unfold setSqHead
    split <;> rfl
  unfold takeEntry
  simp only
  split
  · rw [hset]; split <;> rfl
  · split <;> rfl

/-- An accepted packet does its own work on the block as fetched. -/
theorem fetchPacket_accepted (i : Instr) (q : QRef) (h : Hdr) (op : BitVec 8) (own : Nat → Block → Block) (b : Block)
    (ha : accepted i q h op b = true) : fetchPacket i q h op own b = own b.dealer.nextCmd (fetched i q h op b) := by
  simp only [accepted, fetchable, Bool.and_eq_true, Bool.not_eq_true', Option.isNone_iff_eq_none] at ha
  obtain ⟨⟨⟨hf, hr⟩, hs⟩, hd⟩ := ha
  refine (fetchPacket_fetched i q h op own b hf hr).trans ?_
  rw [takeEntry_dealer]
  exact runChecked_passes _ _ _ _ _ _ hs hd

/-- A fetched packet that fails a check ends with that check's status. -/
theorem fetchPacket_fails (i : Instr) (q : QRef) (h : Hdr) (op : BitVec 8) (own : Nat → Block → Block) (b : Block)
    (st : BitVec 16) (d : BitVec 32) (hf : fetchable q h b = true)
    (hs : packetStatus (fetched i q h op b) q h op = some (st, d)) :
    fetchPacket i q h op own b = finish (fetched i q h op b) b.dealer.nextCmd st d := by
  simp only [fetchable, Bool.and_eq_true] at hf
  refine (fetchPacket_fetched i q h op own b hf.1 hf.2).trans ?_
  rw [takeEntry_dealer]
  exact runChecked_fails _ _ _ _ _ _ _ _ hs

/-- The command a fetched packet becomes stands in the list. -/
theorem fetched_cmd (i : Instr) (q : QRef) (h : Hdr) (op : BitVec 8) (b : Block) :
    ∃ c ∈ (fetched i q h op b).dealer.cmds, c.packet = i ∧ c.q = q := by
  unfold fetched addCmd
  simp

end Sys2Proof.Certificates
end

