-- ==== Sys2Proof/WellFormed.lean ====
section
/-!
DEFINITION. Well-formed commands: operands that the ports and numbers of the block can carry. `exec` is total without it: a command
that is not well formed names what does not exist, and changes nothing or is answered as its rule says.
-/

namespace Sys2Proof.WellFormed

open Sys2Proof

/-- A PCIe function: PF0 or VF1 to VF63 (R222). -/
def fnOk (f : Nat) : Bool := decide (f < 64)

/-- A partition's function: VF1 to VF63. -/
def vfOk (f : Nat) : Bool := decide (1 ≤ f) && decide (f < 64)

/-- A global core index or engine position (R17, R188). -/
def coreOk (c : Nat) : Bool := decide (c < 1024)

/-- An engine position (R188). -/
def engineOk (c : Nat) : Bool := decide (768 ≤ c) && decide (c < 1024)

/-- The width of a host write (R222). -/
def widthOk (w : Nat) : Bool := [8, 16, 32, 64].contains w

/-- An offset inside BAR0 (R222). -/
def offsetOk (o : Nat) : Bool := decide (o < 65536)

/-- A capture tick of a round of at most 187,500 ticks; an edge may end the trim round (R140, R141). -/
def tickOk (t : Nat) : Bool := decide (t ≤ 187500)

/-- A mover slot of the longest round (R328). -/
def slotOk (i : Nat) : Bool := decide (i < 24)

/-- What a core's memories report names slots of a bundle. -/
def coreErrOk (e : CoreErr) : Bool := (e.double.getD []).all (fun x => decide (x < 6))

/-- What cores report lies in the trick and drain windows of a round. -/
def ticksOk (errs : List TickErr) : Bool :=
  errs.all (fun e => coreOk e.core && decide (2048 ≤ e.tick) && decide (e.tick ≤ 124999) && coreErrOk e.err)

/-- Tiles told with what an array reports of their read: each by its own address. -/
def tilesOk (errs : List (Nat × ReadErr)) : Bool := errs.all (fun e => decide (e.1 % 4096 = 0))

/-- Stack temperatures: one byte for each of at most 12 stacks (R312). -/
def tempsOk (l : List Nat) : Bool := decide (l.length ≤ 12) && l.all (fun t => decide (t < 256))

/-- A queue reference: an SQ of a function, the admin queue having index 0 alone (R227, R229). -/
def queueOk (q : QRef) : Bool := fnOk q.fn && (q.tag != 0 || q.idx == 0)

/-- What training reports: channels of the 12 stacks with their 256 data and 16 check connections, descriptors of 256 bytes (R189,
R309, R310). -/
def trainingOk (t : Training) : Bool :=
  t.channels.all (fun e => decide (e.stack < 12) && e.connections.all (fun i => decide (i < 272))) &&
  t.engines.all (fun d => d.length == 256)

/-- An access of the host port. -/
def accessOk : HostAccess → Bool
  | .adminSq fn => fnOk fn
  | .adminCq fn => fnOk fn
  | .contextSq fn tag _ => vfOk fn && tag != 0
  | .contextCq fn tag _ => vfOk fn && tag != 0
  | .fencePage tag _ _ _ => tag != 0
  | .moverCommand fn tag _ _ _ => vfOk fn && tag != 0
  | .staging fn _ => vfOk fn
  | .busParameter _ _ => true
  | .saveImage vf => vfOk vf
  | .faultRing => true
  | .acctRing => true
  | .lanternDump => true
  | .mailbox fn _ => fnOk fn
  | .mailboxReply fn _ write => fnOk fn && decide (write < 3)
  | .bootImage => true

/-- Whether a command is well formed. -/
def wf : Instr → Bool
  | .nop q _ => queueOk q
  | .memMap q _ _ _ _ _ _ _ _ _ _ => queueOk q
  | .memUnmap q _ _ _ => queueOk q
  | .memCopy q _ _ _ _ => queueOk q
  | .memFill q _ _ _ _ => queueOk q
  | .memImport q _ _ _ _ _ _ => queueOk q
  | .memFree q _ _ => queueOk q
  | .planLoad q _ _ _ => queueOk q
  | .planUnload q _ _ => queueOk q
  | .stepCmd q _ _ _ _ _ => queueOk q
  | .seqOpen q _ _ => queueOk q
  | .seqClose q _ _ => queueOk q
  | .seqUpdate q _ _ _ _ => queueOk q
  | .adapterBind q _ _ _ _ => queueOk q
  | .adapterRelease q _ _ => queueOk q
  | .fenceSignal q _ _ _ => queueOk q
  | .fenceWait q _ _ _ => queueOk q
  | .query q _ _ _ => queueOk q
  | .queueCreate q _ _ _ _ _ _ _ => queueOk q
  | .queueDestroy q _ _ _ => queueOk q
  | .ctxCreate q _ _ _ _ _ => queueOk q
  | .ctxDestroy q _ => queueOk q
  | .partCreate q _ _ _ => queueOk q
  | .partDestroy q _ _ => queueOk q
  | .partFreeze q _ _ => queueOk q
  | .partSave q _ _ _ _ => queueOk q
  | .partRestore q _ _ _ _ => queueOk q
  | .partThaw q _ _ => queueOk q
  | .calendarSet q _ _ _ _ => queueOk q
  | .baseLoad q _ _ => queueOk q
  | .baseRelease q _ _ => queueOk q
  | .debugUnlock q _ => queueOk q
  | .completionRecordWrite fn => fnOk fn
  | .cqEntryReserve fn => fnOk fn
  | .fnEnable fn => fnOk fn
  | .fnDisable fn => fnOk fn
  | .stoppingDone fn => fnOk fn
  | .perFunctionReset fn _ => fnOk fn
  | .perFunctionResetComplete fn => fnOk fn
  | .aqConfigWrite fn offset width _ => fnOk fn && offsetOk offset && widthOk width
  | .sqDoorbell fn width _ => fnOk fn && widthOk width
  | .cqDoorbell fn width _ => fnOk fn && widthOk width
  | .fenceDoorbell fn width _ => fnOk fn && widthOk width
  | .ppsPinWrite _ => true
  | .tbNowLatch => true
  | .s2EntryRead _ => true
  | .s2EntryWrite _ => true
  | .faultRingEnable _ => true
  | .acctRingEnable _ => true
  | .lanternEnable _ => true
  | .lanternArm _ => true
  | .lanternDump _ => true
  | .lanternTrigger _ => true
  | .lanternStop => true
  | .registerWrite fn offset width _ => fnOk fn && offsetOk offset && widthOk width
  | .mailboxPost fn _ _ => fnOk fn
  | .mailboxTake fn _ _ => fnOk fn
  | .echo fn => fnOk fn
  | .versions fn => fnOk fn
  | .rootKey => true
  | .helper => true
  | .loadGrotto => true
  | .chain => true
  | .licensee => true
  | .config t => trainingOk t
  | .loadDealer => true
  | .start _ => true
  | .timeBaseStart => true
  | .getVersion fn => fnOk fn
  | .getCapabilities fn => fnOk fn
  | .negotiateAlgorithms fn _ => fnOk fn
  | .getDigests fn => fnOk fn
  | .getCertificate fn _ _ => fnOk fn
  | .challenge fn _ => fnOk fn
  | .getMeasurements fn _ _ => fnOk fn
  | .keyExchange fn _ _ => fnOk fn
  | .finish fn _ => fnOk fn
  | .keyUpdate fn => fnOk fn
  | .endSession fn => fnOk fn
  | .setMigrationKey fn _ _ => fnOk fn
  | .decommission fn => fnOk fn
  | .lockInterfaceRequest _ _ => true
  | .startInterfaceRequest _ => true
  | .stopInterfaceRequest _ => true
  | .getDeviceInterfaceState _ => true
  | .getDeviceInterfaceReport _ => true
  | .ideKmQuery fn => fnOk fn
  | .keyProg fn _ _ _ _ _ _ _ => fnOk fn
  | .kSetGo fn _ _ _ _ _ _ _ => fnOk fn
  | .kSetStop fn _ _ _ _ _ _ _ => fnOk fn
  | .streamInsecure _ => true
  | .resetRelease => true
  | .resetAssert => true
  | .ppsEdgeCapture tick => tickOk tick
  | .stoppedTimeout => true
  | .roundBoundary _ _ report => tempsOk report.temps && ticksOk report.errs
  | .presenceGrant => true
  | .presenceGrantExpiry => true
  | .dbgCableRelease => true
  | .contextSwapIn fn => vfOk fn
  | .trickWindowStart => true
  | .bundleIssue core err => coreOk core && coreErrOk err.own && ticksOk err.others
  | .mma core _ _ _ => coreOk core
  | .rotate core _ _ => coreOk core
  | .quantise core _ => coreOk core
  | .scale core _ => coreOk core
  | .vec core _ => coreOk core
  | .load core _ => coreOk core
  | .store core _ => coreOk core
  | .gather core _ => coreOk core
  | .scatter core _ => coreOk core
  | .accExport core _ => coreOk core
  | .accImport core _ => coreOk core
  | .sregLoad core _ => coreOk core
  | .atomic core _ => coreOk core
  | .clipSave core _ => coreOk core
  | .scrub core => coreOk core
  | .stateSave core => coreOk core
  | .loop core _ _ _ => coreOk core
  | .wait core _ => coreOk core
  | .semSignal core _ _ => coreOk core
  | .semWait core _ _ => coreOk core
  | .trickEnd core => coreOk core
  | .transferComplete core err => coreOk core && ticksOk err.others
  | .recoveryRound _ => true
  | .fatalFault _ => true
  | .engineFault unit => engineOk unit
  | .hostPortError access => accessOk access
  | .drainCreditCheck => true
  | .thermSample _ _ _ => true
  | .placement _ => true
  | .pinInstall _ => true
  | .saveTrick _ => true
  | .fillTrick _ errs => tilesOk errs
  | .commit _ => true
  | .planVerifyRound fn errs => vfOk fn && tilesOk errs
  | .moverSlot slot errs => slotOk slot && tilesOk errs
  | .objectZeroDone vf _ => vfOk vf
  | .invalidationRequest _ => true
  | .invalidationComplete _ => true
  | .accountingClose => true
  | .calendarSwitch => true
  | .refreshRateChange => true
  | .trimRoundEnd => true
  | .unassignedOpcode q _ _ => queueOk q
  | .jtagInstruction _ => true
  | .areaZeroingEnd vf => vfOk vf

end Sys2Proof.WellFormed
end

