-- ==== Sys2Proof/Tests/Slice0.lean ====
section
/-!
SUPPORT. Tests: ill-formed commands that `WellFormed.wf` refuses, single steps whose results the spec gives, and for every
statement with hypotheses a state and operands that meet them.
-/

namespace Sys2Proof.Tests

set_option Elab.async false

open Sys2Proof Sys2Proof.Machine Sys2Proof.Certificates

/-! ## A small block in use: one die of 16 cores, a partition of VF1 with one context -/

/-- One die of 16 cores with a stack of 48 MiB of Gallery and one far channel of 16 GiB. -/
def build1 : Build := ⟨1, 16, true, 48, 1, 1, 16, 4, 100000, 1000, 0, zeros 160⟩

/-- Quads 0 to 3, a GiB of stack 0 and of far channel 0, contexts from tag 0x40. -/
def desc1 : PartDesc :=
  { isSealed := false, pooling := false, galleryCache := false, diagnostic := false, quads := [0, 1, 2, 3], stackFirst := 0
    stackDies := 1, stackGranule := 0, stackGib := 1, galleryFirst := 0, galleryDies := 0, galleryOffset := 0, galleryMib := 0
    farFirst := 0, farChannels := 1, farGranule := 0, farGib := 1, farShare := [10], moverMask := 1, tagFirst := 0x40, tagCount := 16
    seqBase := 0, seqCount := 8, adapterBase := 0, adapterCount := 4, residentContexts := 1, l2Entries := 16, hostPins := 16
    maxContexts := 4, baseSet := 0
    areas := [⟨2, 0, 1088⟩, ⟨2, 1088, 16⟩, ⟨2, 1104, 64⟩, ⟨2, 1168, 64⟩, ⟨1, 0, 16⟩], raw := zeros 256 }

/-- A stack object of two tiles and a host object of one. -/
def part1 : Part :=
  { newPart desc1 with
    objects := [(0, ⟨1, .live, 2, 1, 12, 8192, [⟨0, 0x10000000, 8192⟩], 0, 0x40⟩), (1, ⟨1, .live, 0, 0, 12, 4096, [⟨0, 0x500000000000, 4096⟩], 0, 0x40⟩)]
    objectGens := [(0, 1), (1, 1)]
    stage2 := tabSet (newPart desc1).stage2 4 ⟨0xE000500000000100, 0x0000000000000000⟩ }

/-- A resident context with one SQ, one CQ and both objects mapped. -/
def ctx1 : Ctx :=
  { newCtx 1 0x300000 8 0x20000000 64 [⟨3, 0, 0x450000⟩, ⟨2, 0, 0x451000⟩, ⟨1, 0, 0x452000⟩, ⟨0, 0, 0x453000⟩] with
    sqs := [(0, ⟨0x100000, 4, 1, 0, 1⟩)], cqs := [(0, ⟨0x200000, 4, 0, 0, 0, true, true, 0⟩)], resident := true
    mappings := [⟨0x10000, 8192, 12, 0, 0, true, false⟩, ⟨0x20000, 4096, 12, 1, 0, true, false⟩] }

/-- Round 5 of epoch 1, an entry waiting in the SQ of context 0x40 and one in the admin queue of PF0. -/
def blk1 : Block :=
  { Block.reset with
    boot := { Boot.reset with
      released := true, stage := 8, rootKey := some [], grottoVersion := some 1, licensee := some ([], 0), dealerVersion := some 1
      build := some build1, dealerStarted := true, zeroed := true }
    tb := { TimeBase.reset with pps := .locked, started := true, epoch := 1, round := 5, tick := 100 }
    fns := [(0, { Fn.reset with state := .running, enable := true, intMask := 0x77F, sqTail := 1 }),
      (1, { Fn.reset with state := .running, enable := true })]
    parts := [(1, part1)]
    ctxs := [(0x40, ctx1)] }

def st1 : State := ⟨blk1, []⟩

/-- An entry in the admin queue of VF1. -/
def stA : State := ⟨modFn blk1 1 (fun x => { x with sqTail := 1 }), []⟩

def qG : QRef := ⟨1, 0x40, 0⟩
def qA : QRef := ⟨1, 0, 0⟩
def qM : QRef := ⟨0, 0, 0⟩

/-- A header of level 1 with a tag. -/
def hd (tag : BitVec 16) : Hdr := ⟨1, 0, tag, 7, 0, false⟩

def b1 (s : State) (f : Block → Block) : State := { s with blk := f s.blk }

/-- A fetched command of a queue at a stage. -/
def cmd (id : Nat) (q : QRef) (op : BitVec 8) (stage : CmdStage) : Cmd :=
  ⟨id, q, 0, 7, q.tag, op, false, false, false, [], .nop q (hd q.tag), 0, 0, none, stage⟩

/-- The state with those commands in the list. -/
def withCmds (s : State) (l : List Cmd) : State := b1 s (fun b => modDealer b (fun d => { d with cmds := l, nextCmd := l.length }))

/-- The CQ of context 0x40 without a free entry. -/
def stFull : State := b1 st1 (fun b => modCtx b 0x40 (fun c => { c with cqs := tabMod c.cqs 0 (fun x => { x with reserved := 15 }) }))

/-- Every listed value of an option, by evaluation. -/
theorem opt_all {α : Type} {o : Option α} {p : α → Bool} (h : o.all p = true) (c : α) (hc : o = some c) : p c = true := by
  subst hc; exact h

/-- A result of a partial computation, by evaluation. -/
theorem ex_ok {ε α : Type} {x : Except ε α} (p : α → Bool) (h : (match x with
    | .ok l => p l
    | .error _ => false) = true) : ∃ l, x = .ok l ∧ p l = true := by
  cases x with
  | ok l => exact ⟨l, rfl, h⟩
  | error e => cases h

/-! ## Ill-formed commands -/

theorem test_function_number : WellFormed.wf (.echo 63) = true ∧ WellFormed.wf (.echo 64) = false := by decide

theorem test_partition_number : WellFormed.wf (.contextSwapIn 1) = true ∧ WellFormed.wf (.contextSwapIn 0) = false := by decide

theorem test_core_number : WellFormed.wf (.scrub 1023) = true ∧ WellFormed.wf (.scrub 1024) = false := by decide

theorem test_engine_position : WellFormed.wf (.engineFault 768) = true ∧ WellFormed.wf (.engineFault 767) = false := by decide

theorem test_write_width : WellFormed.wf (.sqDoorbell 1 8 0) = true ∧ WellFormed.wf (.sqDoorbell 1 24 0) = false := by decide

theorem test_bar_offset : WellFormed.wf (.registerWrite 0 65535 8 0) = true ∧ WellFormed.wf (.registerWrite 0 65536 8 0) = false := by decide

theorem test_capture_tick : WellFormed.wf (.ppsEdgeCapture 187500) = true ∧ WellFormed.wf (.ppsEdgeCapture 187501) = false := by decide

theorem test_mover_slot : WellFormed.wf (.moverSlot 23 []) = true ∧ WellFormed.wf (.moverSlot 24 []) = false := by decide

theorem test_stack_temperatures : WellFormed.wf (.roundBoundary false false ⟨[255], []⟩) = true ∧
    WellFormed.wf (.roundBoundary false false ⟨[256], []⟩) = false := by decide

theorem test_queue_reference : WellFormed.wf (.nop ⟨1, 0x40, 7⟩ (hd 0x40)) = true ∧ WellFormed.wf (.nop ⟨1, 0, 7⟩ (hd 0)) = false := by decide

theorem test_training_report : WellFormed.wf (.config ⟨[], [⟨11, 1, [271]⟩], 0, []⟩) = true ∧
    WellFormed.wf (.config ⟨[], [⟨12, 1, []⟩], 0, []⟩) = false ∧ WellFormed.wf (.config ⟨[], [⟨11, 1, [272]⟩], 0, []⟩) = false := by decide

theorem test_host_access : WellFormed.wf (.hostPortError (.mailboxReply 63 .gr 2)) = true ∧
    WellFormed.wf (.hostPortError (.mailboxReply 63 .gr 3)) = false ∧ WellFormed.wf (.hostPortError (.staging 0 0)) = false := by decide

theorem test_tick_errors : WellFormed.wf (.roundBoundary false false ⟨[], [⟨0, 124999, ⟨1, some [5]⟩⟩]⟩) = true ∧
    WellFormed.wf (.roundBoundary false false ⟨[], [⟨0, 2047, ⟨1, none⟩⟩]⟩) = false ∧
    WellFormed.wf (.roundBoundary false false ⟨[], [⟨0, 2048, ⟨0, some [6]⟩⟩]⟩) = false := by decide

theorem test_read_errors : WellFormed.wf (.moverSlot 0 [(4096, .lostEntry)]) = true ∧
    WellFormed.wf (.moverSlot 0 [(4097, .lostEntry)]) = false := by decide

/-! ## Meeting the statements: the machine and packets -/

theorem witness_EmptyQueueIsOneTick :
    (let b := { blk1 with tb := { blk1.tb with tick := 124998 } }
     alive b = true ∧ ticking b = true ∧ b.tb.boundaryDone = true ∧ b.tb.tick < lastTick b.tb) ∧
    alive Block.reset = false ∧ lastTick blk1.tb ≤ { blk1.tb with tick := 124999 }.tick := by
  and_intros <;> decide +kernel

theorem witness_QueueAndStops :
    (∃ t, exec .tbNowLatch st1 = .next t) ∧ Safety.mayRefuse .tbNowLatch st1 = false ∧
    (∃ t, execAll [.tbNowLatch, .ppsPinWrite 1] st1 = some t) ∧
    Safety.mayRefuse (.jtagInstruction (.other 0)) (b1 st1 (fun b => { b with jtag := { b.jtag with debugOpen := true } })) = true := by
  refine ⟨⟨_, rfl⟩, ?_, ⟨_, rfl⟩, ?_⟩ <;> decide +kernel

/-- A command held for a completion entry, with what its checks gave. -/
def stHeld (fail : Option (BitVec 16 × BitVec 32)) : State := withCmds st1 [cmd 0 qG 1 (.held fail)]

/-- The function of context 0x40 not running any more. -/
def stHeldStops : State := b1 (stHeld none) (fun b => modCtx b 0x40 (fun c => { c with state := .destroying }))

/-- Context 0x40 LOST while the command is held. -/
def stHeldLost : State := b1 (stHeld none) (fun b => modCtx b 0x40 (fun c => { c with state := .lost, lostStatus := 0x0700 }))

theorem witness_FetchReservesAndNopCompletes_fetch :
    (packetOf (.nop qG (hd 0x40)) = some (qG, hd 0x40, 0x01) ∧ canFetch (stHeld none).blk ⟨1, 0x40, 1⟩ = false) ∧
    accepted (.nop qG (hd 0x40)) qG (hd 0x40) 0x01 st1.blk = true ∧
    (canFetch stFull.blk qG = true ∧
      cqHasRoom (takeEntry stFull.blk qG) qG (recordCq (takeEntry stFull.blk qG) qG (hd 0x40)).1 = false) := by
  and_intros <;> decide +kernel

theorem witness_FetchReservesAndNopCompletes_held :
    let c := fun f => cmd 0 qG 1 (.held f)
    let b := fun (s : State) f => setCmd (reserveCq s.blk (c f).q (c f).cq) (c f).id (.done stOk 0)
    let fail : Option (BitVec 16 × BitVec 32) := some (stInvalidField, 0)
    (alive (stHeld fail).blk = true ∧ (fnAt (stHeld fail).blk 1).state ≠ .frozen ∧ nextHeld (stHeld fail).blk 1 = some (c fail) ∧
      packetHdr (c fail).packet = some (hd 0x40) ∧ lostCtx (b (stHeld fail) fail) qG (hd 0x40) = none) ∧
    (alive (stHeld none).blk = true ∧ (fnAt (stHeld none).blk 1).state ≠ .frozen ∧ nextHeld (stHeld none).blk 1 = some (c none) ∧
      lostCtx (b (stHeld none) none) qG (hd 0x40) = none ∧ queueDying (b (stHeld none) none) qG = false) ∧
    (nextHeld stHeldStops.blk 1 = some (c none) ∧ lostCtx (b stHeldStops none) qG (hd 0x40) = none ∧
      queueDying (b stHeldStops none) qG = true) ∧
    (nextHeld stHeldLost.blk 1 = some (c none) ∧ (lostCtx (b stHeldLost none) qG (hd 0x40)).isSome = true ∧ (c none).opcode ≠ 0x71) := by
  and_intros <;> decide +kernel

theorem witness_PacketChecksInOrder :
    (∃ sq, sqOf st1.blk qG = some sq ∧ 1 ≤ sq.level.toNat ∧ sq.level.toNat < (hd 0).level.toNat + 1) ∧
    (cqOf st1.blk qG 1).isSome = false ∧ (cqOf st1.blk qG 0).isSome = true ∧ assigned 0x02 = false ∧
    permitted qG 0x60 = false ∧ tagAllowed qG (hd 0x41) 0x01 = false ∧
    (let b := modCtx st1.blk 0x40 (fun c => { c with state := .lost })
     ∃ c, ctxAt b 0x40 = some c ∧ c.fn = qG.fn ∧ c.state = .lost) ∧
    (∀ c, ctxAt st1.blk 0x40 = some c → ¬ (c.fn = qG.fn ∧ c.state = .lost)) ∧
    (packetOf (.ctxDestroy qG (hd 0x40)) = some (qG, hd 0x40, 0x71) ∧ fetchable qG (hd 0x40) st1.blk = true ∧
      packetStatus (fetched (.ctxDestroy qG (hd 0x40)) qG (hd 0x40) 0x71 st1.blk) qG (hd 0x40) 0x71 = some (stNotPermitted, 0)) := by
  refine ⟨⟨_, rfl, ?_⟩, ?_, ?_, ?_, ?_, ?_, ⟨_, rfl, ?_⟩, fun c h => ?_, ?_⟩
  · and_intros <;> decide +kernel
  · decide +kernel
  · decide +kernel
  · decide +kernel
  · decide +kernel
  · decide +kernel
  · and_intros <;> decide +kernel
  · exact of_decide_eq_true (opt_all (p := fun c => decide (¬ (c.fn = qG.fn ∧ c.state = .lost))) (by decide +kernel) c h)
  · and_intros <;> decide +kernel

theorem witness_UnassignedOpcodesEnd :
    (assigned 0xEF = false ∧ fetchable qM (hd 0) st1.blk = true ∧ (hd 0).cq = 0 ∧ (hd 0).level ≠ 0 ∧ (cqOf st1.blk qM 0).isSome = true) ∧
    (assigned 0xF0 = false ∧ fetchable qG (hd 0x40) st1.blk = true ∧ (cqOf st1.blk qG 0).isSome = true) ∧ assigned 0x01 = true ∧
    (∀ x, sqOf st1.blk qM = some x → (hd 0).level.toNat ≤ x.level.toNat) ∧
    (∀ x, sqOf st1.blk qG = some x → (hd 0x40).level.toNat ≤ x.level.toNat) := by
  refine ⟨?_, ?_, ?_, fun x h => ?_, fun x h => ?_⟩
  · and_intros <;> decide +kernel
  · and_intros <;> decide +kernel
  · decide +kernel
  · exact of_decide_eq_true (opt_all (p := fun x => decide ((hd 0).level.toNat ≤ x.level.toNat)) (by decide +kernel) x h)
  · exact of_decide_eq_true (opt_all (p := fun x => decide ((hd 0x40).level.toNat ≤ x.level.toNat)) (by decide +kernel) x h)


/-! ## Meeting the statements: sequences, adapter slots, fences -/

def fields0 : SeqFields := ⟨0, 0, 0, 0, 0, 0, 0, 0, 0, 0, 0, 0, 0xFFFF⟩

/-- Sequences 0 to 6 of context 0x40: 0 OPEN, the others DEALT. -/
def stSeq : State := b1 st1 (fun b => modDealer b (fun d => { d with
  seqs := (0, ⟨1, 0x40, .isOpen, fields0, none, 0, 0⟩) :: (List.range 6).map (fun i => (i + 1, ⟨1, 0x40, .dealt, fields0, none, 0, 0⟩)) }))

/-- Adapter slot 0 bound to the object of VA 0x10000. -/
def stBound : State := b1 st1 (fun b => modDealer b (fun d => { d with
  adapters := [(0, ⟨true, false, 1, 0x40, 0x10000, 2, true, true, 0⟩)] }))

theorem witness_SequenceAndAdapterCommands_sequences :
    (ctxAt stSeq.blk 0x40 = some ctx1 ∧ partAt stSeq.blk 1 = some part1 ∧ seqFieldsOk ctx1 fields0 = true ∧
      part1.desc.seqBase ≤ 7 ∧ 7 < part1.desc.seqBase + part1.desc.seqCount ∧ (seqAt stSeq.blk 7).state = .free ∧
      (∀ j, j < 7 → (seqAt stSeq.blk j).state ≠ .free) ∧
      accepted (.seqOpen qG (hd 0x40) fields0) qG (hd 0x40) 0x30 stSeq.blk = true) ∧
    ((seqAt stSeq.blk 0).state = .isOpen ∧ (seqAt stSeq.blk 1).state = .dealt ∧
      (seqAt stSeq.blk 1).gen.toNat = (16385 : BitVec 32).toNat / 2 ^ 14 ∧ (seqAt stSeq.blk 1).tag = qG.tag ∧
      accepted (.seqClose qG (hd 0x40) 16384) qG (hd 0x40) 0x31 stSeq.blk = true ∧
      accepted (.seqClose qG (hd 0x40) 16385) qG (hd 0x40) 0x31 stSeq.blk = true) ∧
    (let f := { fields0 with position := 9 }
     (0x1FFF : BitVec 16).toNat < 2 ^ 13 ∧ mergeSeq 0x1FFF SeqFields.zero f = SeqFields.zero ∧
      seqFieldsOk ctx1 (mergeSeq 0x1FFF f (nextFields (seqAt stSeq.blk 0))) = true ∧ (0x1FFF : BitVec 16).getLsbD 4 = true ∧
      accepted (.seqUpdate qG (hd 0x40) f 0x1FFF 16384) qG (hd 0x40) 0x32 stSeq.blk = true) ∧
    (let f := { SeqFields.zero with view := 3 }
     let e := nextFields (seqAt stSeq.blk 1)
     mergeSeq 2 SeqFields.zero f = SeqFields.zero ∧ openOnly (mergeSeq 2 f e) e = false ∧
      seqFieldsOk ctx1 (mergeSeq 2 f e) = true ∧ (2 : BitVec 16).getLsbD 4 = false ∧
      accepted (.seqUpdate qG (hd 0x40) f 2 16385) qG (hd 0x40) 0x32 stSeq.blk = true) := by
  and_intros <;> decide +kernel

theorem witness_SequenceAndAdapterCommands_adapters :
    (let i : Instr := .adapterBind qG (hd 0x40) 0x10000 2 1
     let b := fetched i qG (hd 0x40) 0x38 stBound.blk
     (∃ c, ctxAt b 0x40 = some c ∧ rangeObject c 0x10000 2 = some 0) ∧ partAt stBound.blk 1 = some part1 ∧
      (∃ o, tabGet part1.objects 0 = some o ∧ adapterTier stBound.blk o.tier = true ∧ objGone o 0 = false ∧ o.attrs.getLsbD 2 = false) ∧
      part1.desc.adapterBase ≤ 1 ∧ 1 < part1.desc.adapterBase + part1.desc.adapterCount ∧ (adapterAt stBound.blk 1).bound = false ∧
      (∀ j, j < 1 → (adapterAt stBound.blk j).bound = true) ∧ accepted i qG (hd 0x40) 0x38 stBound.blk = true) ∧
    (let i : Instr := .adapterRelease qG (hd 0x40) 1024
     let a := adapterAt stBound.blk 0
     a.bound = true ∧ a.dying = false ∧ a.gen.toNat = (1024 : BitVec 32).toNat / 1024 ∧ a.tag = qG.tag ∧
      accepted i qG (hd 0x40) 0x39 stBound.blk = true) ∧
    (let b := (withCmds stBound [cmd 0 qG 0x39 (.adapterRelease 0)]).blk
     b.dealer.cmds = [cmd 0 qG 0x39 (.adapterRelease 0)] ∧ adapterInUse b 0 = false ∧ (adapterAt b 0).half = true) := by
  and_intros
  · exact ⟨_, rfl, by decide +kernel⟩
  · decide +kernel
  · exact ⟨_, rfl, by decide +kernel, by decide +kernel, by decide +kernel⟩
  all_goals decide +kernel

theorem witness_FencesSignalAndWait :
    (let s := withCmds st1 [cmd 0 ⟨1, 0x40, 1⟩ 0x41 (.fenceWait (hostAt 1 0x300038) 5)]
     let b := fetched (.fenceSignal qG (hd 0x40) 7 5) qG (hd 0x40) 0x40 s.blk
     (∃ c, ctxAt b 0x40 = some c ∧ c.fencePage = 0x300000 ∧ (7 : BitVec 16).toNat < c.fenceCount) ∧ (5 : BitVec 64).toNat < 2 ^ 63 ∧
      accepted (.fenceSignal qG (hd 0x40) 7 5) qG (hd 0x40) 0x40 s.blk = true ∧
      (∃ k ∈ b.dealer.cmds, k.stage = .fenceWait (hostAt 1 0x300038) 5 ∧ k.q.fn = 1)) ∧
    (let b := fetched (.fenceWait qG (hd 0x40) 7 1) qG (hd 0x40) 0x41 st1.blk
     (∃ c, ctxAt b 0x40 = some c ∧ (7 : BitVec 16).toNat < c.fenceCount) ∧
      hostLE st1.blk (hostAt 1 0x300038) 8 % 2 ^ 63 < (1 : BitVec 64).toNat ∧ (0 : BitVec 64).toNat ≤ hostLE st1.blk (hostAt 1 0x300038) 8 % 2 ^ 63 ∧
      accepted (.fenceWait qG (hd 0x40) 7 0) qG (hd 0x40) 0x41 st1.blk = true ∧
      accepted (.fenceWait qG (hd 0x40) 7 1) qG (hd 0x40) 0x41 st1.blk = true) ∧
    (takesDoorbells st1.blk 1 = true ∧ ctxAt st1.blk ((0x4000000007 : BitVec 64).extractLsb' 32 16).toNat = some ctx1 ∧
      ctx1.fn = 1 ∧ ctx1.state = .live ∧ ((0x4000000007 : BitVec 64).extractLsb' 0 16).toNat < ctx1.fenceCount) := by
  and_intros
  · exact ⟨_, rfl, by decide +kernel, by decide +kernel⟩
  · decide +kernel
  · decide +kernel
  · exact ⟨cmd 0 ⟨1, 0x40, 1⟩ 0x41 (.fenceWait (hostAt 1 0x300038) 5), by decide +kernel⟩
  · exact ⟨_, rfl, by decide +kernel⟩
  all_goals decide +kernel

/-! ## Meeting the statements: memory objects and the mover -/

theorem witness_MemMapMakesAndMaps_new :
    (let i : Instr := .memMap qG (hd 0x40) 0x40000 0x1000 0 2 1 0 3 0 0
     let b := fetched i qG (hd 0x40) 0x10 st1.blk
     accepted i qG (hd 0x40) 0x10 st1.blk = true ∧ partAt b 1 = some part1 ∧ pageLogOf 0 = some 12 ∧ (3 : BitVec 8).toNat < 4 ∧
      attrsOk 2 1 = true ∧ lowestFree part1.objects 0 = 2 ∧
      (∃ c, ctxAt b 0x40 = some c ∧ rangeOk c 0x40000 0x1000 12 = true ∧
        tablesFit b 1 0x40 part1 (c.mappings ++ [⟨0x40000, 0x1000, 12, 2, 0, true, true⟩]) = true) ∧
      (∃ ext, allocObject b 1 part1 2 (2 ^ 12) 0x1000 = some ext)) ∧
    (let i : Instr := .memMap qG (hd 0x40) 0x40000 0x1000 0 0 0 0 1 0 0x500000001000
     let b := fetched i qG (hd 0x40) 0x10 st1.blk
     accepted i qG (hd 0x40) 0x10 st1.blk = true ∧ attrsOk 0 0 = true ∧ backingOk part1 0x500000001000 0x1000 12 = true ∧
      (∃ c, ctxAt b 0x40 = some c ∧
        tablesFit b 1 0x40 part1 (c.mappings ++ [⟨0x40000, 0x1000, 12, 2, 0, true, false⟩]) = true)) := by
  and_intros
  · decide +kernel
  · decide +kernel
  · decide +kernel
  · decide +kernel
  · decide +kernel
  · decide +kernel
  · exact ⟨_, rfl, by decide +kernel, by decide +kernel⟩
  · exact Option.isSome_iff_exists.mp (by decide +kernel)
  · decide +kernel
  · decide +kernel
  · decide +kernel
  · exact ⟨_, rfl, by decide +kernel⟩

theorem witness_MemMapMakesAndMaps_refused :
    let i : Instr := .memMap qG (hd 0x40) 0x40000 0x1000 0 2 5 0 1 0 0
    let b := fetched i qG (hd 0x40) 0x10 st1.blk
    accepted i qG (hd 0x40) 0x10 st1.blk = true ∧ attrsOk 2 5 = true ∧
      ((1 : BitVec 8).getLsbD 0 && (5 : BitVec 8).getLsbD 2) = true ∧
      (∃ c, ctxAt b 0x40 = some c ∧ rangeOk c 0x40000 0x1000 12 = true ∧
        tablesFit b 1 0x40 part1 (c.mappings ++ [⟨0x40000, 0x1000, 12, 2, 0, true, false⟩]) = true) ∧
      (∃ ext, allocObject b 1 part1 2 (2 ^ 12) 0x1000 = some ext) := by
  and_intros
  · decide +kernel
  · decide +kernel
  · decide +kernel
  · exact ⟨_, rfl, by decide +kernel, by decide +kernel⟩
  · exact Option.isSome_iff_exists.mp (by decide +kernel)

/-- The area of the contexts' tables with room for the four that context 0x40 has. -/
def stTables : State := b1 st1 (fun b => modPart b 1 (fun p => { p with
  desc := { p.desc with areas := [⟨2, 0, 1088⟩, ⟨2, 1088, 16⟩, ⟨2, 1104, 4⟩, ⟨2, 1168, 64⟩, ⟨1, 0, 16⟩] } }))

/-- Object 0 read-only. -/
def stReadOnly : State := b1 st1 (fun b => modPart b 1 (fun p => { p with objects := tabMod p.objects 0 (fun o => { o with attrs := 5 }) }))

theorem witness_MemMapMakesAndMaps_existing :
    let i : Instr := .memMap qG (hd 0x40) 0x40000 0x1000 0x4010000 0 0 0 1 0x1000 0
    let b := fetched i qG (hd 0x40) 0x10 st1.blk
    accepted i qG (hd 0x40) 0x10 st1.blk = true ∧ accepted i qG (hd 0x40) 0x10 stReadOnly.blk = true ∧ partAt b 1 = some part1 ∧
    (∃ c, ctxAt b 0x40 = some c ∧ rangeOk c 0x40000 0x1000 12 = true ∧
      tablesFit b 1 0x40 part1 (c.mappings ++ [⟨0x40000, 0x1000, 12, 0, 0x1000, true, false⟩]) = true) ∧
    (0x4010000 : BitVec 32).toNat / 2 ^ 26 = 1 ∧
    (∃ o, tabGet part1.objects 0 = some o ∧ o.gen.toNat = (0x4010000 : BitVec 32).toNat / 2 ^ 16 % 2 ^ 10 ∧ objGone o 0 = false ∧
      12 ≤ o.pageLog ∧ 0x1000 + 0x1000 ≤ o.bytes ∧ o.attrs.getLsbD 2 = false) ∧
    (∃ p o, partAt stReadOnly.blk 1 = some p ∧ tabGet p.objects 0 = some o ∧ o.attrs.getLsbD 2 = true) ∧
    (let j : Instr := .memMap qG (hd 0x40) 0x40000000 0x1000 0x4010000 0 0 0 1 0x1000 0
     let u := fetched j qG (hd 0x40) 0x10 stTables.blk
     accepted j qG (hd 0x40) 0x10 stTables.blk = true ∧ (∃ p c, partAt u 1 = some p ∧ ctxAt u 0x40 = some c ∧
        rangeOk c 0x40000000 0x1000 12 = true ∧ tablesFit u 1 0x40 p (c.mappings ++ [⟨0x40000000, 0x1000, 12, 0, 0x1000, true, false⟩]) = false)) := by
  and_intros
  · decide +kernel
  · decide +kernel
  · decide +kernel
  · exact ⟨_, rfl, by decide +kernel, by decide +kernel⟩
  · decide +kernel
  · exact ⟨_, rfl, by decide +kernel, by decide +kernel, by decide +kernel, by decide +kernel, by decide +kernel⟩
  · exact ⟨_, _, rfl, rfl, by decide +kernel⟩
  · decide +kernel
  · exact ⟨_, _, rfl, rfl, by decide +kernel, by decide +kernel⟩

theorem witness_UnmapAndFreeWait :
    (let i : Instr := .memUnmap qG (hd 0x40) 0x10000 0x2000
     let b := fetched i qG (hd 0x40) 0x11 st1.blk
     accepted i qG (hd 0x40) 0x11 st1.blk = true ∧ partAt b 1 = some part1 ∧ ∃ c, ctxAt b 0x40 = some c ∧
      c.mappings.filter (fun m => overlap m.va m.bytes 0x10000 0x2000) = [⟨0x10000, 8192, 12, 0, 0, true, false⟩] ∧
      (tabGet part1.objects 0).all (fun o => !objGone o 0) = true) ∧
    (let i : Instr := .memFree qG (hd 0x40) 0x4010000
     let b := fetched i qG (hd 0x40) 0x15 st1.blk
     accepted i qG (hd 0x40) 0x15 st1.blk = true ∧ (0x4010000 : BitVec 32).toNat / 2 ^ 26 = 1 ∧ partAt b 1 = some part1 ∧
      ∃ o, tabGet part1.objects 0 = some o ∧ o.gen.toNat = (0x4010000 : BitVec 32).toNat / 2 ^ 16 % 2 ^ 10 ∧ o.state = .live) := by
  and_intros
  · decide +kernel
  · decide +kernel
  · exact ⟨_, rfl, by decide +kernel, by decide +kernel⟩
  · decide +kernel
  · decide +kernel
  · decide +kernel
  · exact ⟨_, rfl, by decide +kernel, by decide +kernel⟩

/-- The header of a container of 8 signed bytes; `flags` says whether it is encrypted. -/
def containerHeader (flags nonce : Nat) : List Byte :=
  leBytes 4 0x504D4954 ++ leBytes 2 0x0100 ++ leBytes 1 4 ++ leBytes 1 flags ++ leBytes 8 8 ++ leBytes 8 8 ++ leBytes 12 nonce

/-- A container at VA 0x20000, in host memory, and the session key of VF1. -/
def stImport (flags nonce : Nat) : State :=
  b1 st1 (fun b => { b with
    grotto := { b.grotto with sessionKeys := [(1, 1)] }
    mem := { b.mem with host := memWriteN [] (hostAt 1 0) (containerHeader flags nonce) } })

/-- No session key. -/
def noKey (s : State) : State := b1 s (fun b => { b with grotto := { b.grotto with sessionKeys := [] } })

theorem witness_MoverWorkStarts_copies :
    (let i : Instr := .memCopy qG (hd 0x40) 0x10000 0x20000 0x1000
     let b := fetched i qG (hd 0x40) 0x12 st1.blk
     accepted i qG (hd 0x40) 0x12 st1.blk = true ∧ (∃ l, cmdTiles b 0x40 0 0xF5 false 0x10000 0x1000 = .ok l ∧ true = true) ∧
      (∃ l, cmdTiles b 0x40 0 0xF6 true 0x20000 0x1000 = .ok l ∧ true = true)) ∧
    (let i : Instr := .memFill qG (hd 0x40) 0x10FF8 0x1008 1
     let b := fetched i qG (hd 0x40) 0x13 st1.blk
     accepted i qG (hd 0x40) 0x13 st1.blk = true ∧
      ∃ l, cmdTiles b 0x40 0 0xF6 true 0x10FF8 0x1008 = .ok l ∧ decide (l.length = 2) = true) ∧
    (let i : Instr := .query qG (hd 0x40) 0 0x10F40
     let b := fetched i qG (hd 0x40) 0x50 st1.blk
     accepted i qG (hd 0x40) 0x50 st1.blk = true ∧
      ∃ l, cmdTiles b 0x40 0 0xF8 true 0x10F40 256 = .ok l ∧ decide (l.length = 2) = true) := by
  and_intros
  · decide +kernel
  · exact ex_ok _ (by decide +kernel)
  · exact ex_ok _ (by decide +kernel)
  · decide +kernel
  · exact ex_ok _ (by decide +kernel)
  · decide +kernel
  · exact ex_ok _ (by decide +kernel)

/-- What a source range of an import holds, by evaluation: its tiles, and the header that stands there. -/
def readsHeader (b : Block) (n : Nat) (p : List Byte → Nat → Bool) : Bool :=
  match cmdTiles b 0x40 0 0xF5 false 0x20000 n with
  | .ok l =>
    match headerBytes b (places l) 0x20000 with
    | .ok bs => p bs l.length
    | .error _ => false
  | .error _ => false

theorem readsHeader_some {b : Block} {n : Nat} {p : List Byte → Nat → Bool} (h : readsHeader b n p = true) :
    ∃ l bs, cmdTiles b 0x40 0 0xF5 false 0x20000 n = .ok l ∧ headerBytes b (places l) 0x20000 = .ok bs ∧ p bs l.length = true := by
  unfold readsHeader at h
  split at h
  · rename_i l hl
    split at h
    · rename_i bs hb
      exact ⟨l, bs, hl, hb, h⟩
    · cases h
  · cases h

theorem witness_MoverWorkStarts_imports :
    (let i : Instr := .memImport qG (hd 0x40) 0x20000 0x10000 72 0x44 0
     let b := fetched i qG (hd 0x40) 0x14 (stImport 0 0).blk
     accepted i qG (hd 0x40) 0x14 (stImport 0 0).blk = true ∧ importPair 4 4 = true ∧ 0 < fmtBytes 4 8 ∧
      readsHeader b 72 (fun bs _ => decide (importHeader bs 4 false 72 = some (8, 8))) = true ∧
      (∃ l, cmdTiles b 0x40 0 0xF6 true 0x10000 8 = .ok l ∧ true = true)) ∧
    (let i : Instr := .memImport qG (hd 0x40) 0x20000 0x10000 72 0x44 0
     let b := fetched i qG (hd 0x40) 0x14 (stImport 0 1).blk
     accepted i qG (hd 0x40) 0x14 (stImport 0 1).blk = true ∧
      readsHeader b 72 (fun bs _ => decide (importHeader bs 4 false 72 = none)) = true) ∧
    (let i : Instr := .memImport qG (hd 0x40) 0x20000 0x10000 88 0x44 1
     let b := fetched i qG (hd 0x40) 0x14 (stImport 1 1).blk
     accepted i qG (hd 0x40) 0x14 (stImport 1 1).blk = true ∧ sessionKey b 1 = some 1 ∧
      readsHeader b 88 (fun bs n => decide (importHeader bs 4 true 88 = some (8, 8)) && decide (n ≤ stagingTiles b 1) &&
        decide (lastNonce b 1 < leAt bs 0x18 12)) = true ∧
      (∃ l, cmdTiles b 0x40 0 0xF6 true 0x10000 8 = .ok l ∧ true = true)) ∧
    (let i : Instr := .memImport qG (hd 0x40) 0x20000 0x10000 88 0x44 1
     let b := fetched i qG (hd 0x40) 0x14 (noKey (stImport 1 1)).blk
     accepted i qG (hd 0x40) 0x14 (noKey (stImport 1 1)).blk = true ∧ sessionKey b 1 = none ∧
      readsHeader b 88 (fun bs _ => decide (importHeader bs 4 true 88 = some (8, 8))) = true) := by
  and_intros
  · decide +kernel
  · decide +kernel
  · decide +kernel
  · decide +kernel
  · exact ex_ok _ (by decide +kernel)
  · decide +kernel
  · decide +kernel
  · decide +kernel
  · decide +kernel
  · decide +kernel
  · exact ex_ok _ (by decide +kernel)
  all_goals decide +kernel

/-- A place of device memory. -/
def devTile (out : Nat) : TilePlace := ⟨0, out, false, true, false, none⟩

/-- A tile of stack 0 with a word that cannot be corrected. -/
def stDamaged : State := b1 st1 (fun b => modMem b (fun m => { m with tiles := [(0x10000, ⟨0, 0, false, 1⟩)] }))

/-- The command of a mover job of VF1. -/
def moverCmd (ops : List MoverOp) : Cmd := cmd 0 qG 0x12 (.mover ⟨ops, [], 0, none, []⟩)

theorem memReadN_nil (a n : Nat) : memReadN [] a n = zeros n := by
  induction n generalizing a with
  | zero => rfl
  | succ n h => exact congrArg _ (h (a + 1))

/-- A tile that nothing has written passes its check. -/
theorem tileOk_empty (b : Block) (pa : Nat) (h : b.mem.bytes = []) (h' : (tileMeta b pa).check = 0)
    (h'' : deliversBad b pa = false) : tileOk b pa = true := by
  simp [tileOk, tileCheck, h', h'', tileBytes, h, memReadN_nil, storedCheck]

/-- A tile with a word that cannot be corrected fails it. -/
theorem tileOk_bad (b : Block) (pa : Nat) (h : deliversBad b pa = true) : tileOk b pa = false := by
  simp only [tileOk, tileCheck, h, if_true, beq_eq_false_iff_ne, ne_eq]
  intro e
  have := congrArg (fun x => x.getLsbD 0) e
  simp at this

theorem witness_MoverSlotsMoveTiles_copies :
    tileOk stDamaged.blk (devTile 0x10000000).out = false ∧ tileOk st1.blk (devTile 0x10000000).out = true ∧
    (devTile 0x10000000).host = false ∧ (devTile 0x10001000).out % 4096 = 0 ∧
    hasRoom false [] (opRes st1.blk (.copy (devTile 0x10000000) (devTile 0x10001000))) = true ∧
    errAt [(0x10000000, .uncorrectable)] (devTile 0x10000000).out = .uncorrectable := by
  refine ⟨tileOk_bad _ _ (by decide +kernel), tileOk_empty _ _ rfl (by decide +kernel) (by decide +kernel), ?_, ?_, ?_, ?_⟩ <;> decide +kernel

/-- A read that one array corrects and another cannot: both are counted, and a damaged tile is counted again (R317). -/
theorem test_errors_are_counted :
    (noteRead st1.blk 0x10000000 (.corrected 2)).mem.ecc = [(0, ⟨2, 0⟩)] ∧
    (noteRead (noteRead st1.blk 0x10000000 .uncorrectable) 0x10000000 .clean).mem.ecc = [(0, ⟨0, 2⟩)] := by decide +kernel

/-- What a slot makes of a job: ended, in error, or with work left. -/
def slotResult (s : State) (ops : List MoverOp) : Nat :=
  match runOps (moverCmd ops) false [] ops ⟨s.blk, ⟨ops, [], 0, none, []⟩, []⟩ with
  | .error _ => 0
  | .ok m => if m.job.ops = [] then 1 else 2

theorem slot_fails (s : State) (pa : Nat) (h : hasRoom false [] (opRes s.blk (.readStaged pa)) = true)
    (h' : tileOk (noteRead s.blk pa .clean) pa = false) : slotResult s [.readStaged pa] = 0 := by
  simp [slotResult, runOps, runOp, noteOp, errAt, h, h']

/-- The block as a slot finds it. -/
def atSlot (b : Block) (i : Nat) : Block := { workTo (7808 * i + 7808) b with tb := { b.tb with tick := 7808 * i + 7807, moverSlots := i + 1 } }

theorem witness_MoverSlotsMoveTiles_slots :
    (let s := withCmds st1 [moverCmd []]
     alive s.blk = true ∧ ticking s.blk = true ∧ s.blk.tb.moverSlots ≤ 0 ∧ 7808 * 0 + 7807 ≤ lastTick s.blk.tb ∧
      s.blk.tb.tick ≤ 7808 * 0 + 7807 ∧ slotOwner (atSlot s.blk 0) 0 = some 1 ∧ (atSlot s.blk 0).dealer.steps = [] ∧
      (atSlot s.blk 0).dealer.cmds = [moverCmd []] ∧ currentCmd (atSlot s.blk 0) 1 = some (moverCmd [])) ∧
    currentCmd (atSlot st1.blk 0) 1 = none ∧ slotOwner (atSlot st1.blk 15) 15 = none ∧ 7808 * 15 + 7807 ≤ lastTick st1.blk.tb ∧
    (atSlot st1.blk 15).dealer.cmds = [] ∧ (atSlot st1.blk 15).lantern.dumping = false ∧
    0 < ({ st1.blk.tb with moverSlots := 1 } : TimeBase).moverSlots ∧
    slotResult stDamaged [.readStaged 0x10000000] = 0 ∧ slotResult st1 [] = 1 ∧
    slotResult st1 (List.replicate 3 (.conv (devTile (farBase 0)) 0 0 4096)) = 2 := by
  refine ⟨?_, ?_, ?_, ?_, ?_, ?_, ?_, ?_, ?_, ?_⟩
  case refine_8 => exact slot_fails _ _ (by decide +kernel) (tileOk_bad _ _ (by decide +kernel))
  all_goals first
    | decide +kernel
    | and_intros <;> decide +kernel

/-! ## Meeting the statements: plans and steps -/

/-- A plan of tricks that end at once: one phase, no slot, every segment the one body of a TRICK_END, 1 nJ each. -/
def planBytes (order tricks : Nat) : List Byte :=
  let per := 4 ^ order
  let body := 128 + 16 * tricks + 16 * per * tricks
  leBytes 4 0x4E414C50 ++ leBytes 2 0x0100 ++ leBytes 2 1 ++ leBytes 4 order ++ leBytes 2 8 ++ leBytes 2 tricks ++ leBytes 4 (tricks * 65536) ++
  zeros 12 ++ zeros 4 ++ leBytes 4 (body + 16) ++ leBytes 4 128 ++ leBytes 4 128 ++ leBytes 8 (tricks * per) ++ zeros 72 ++
  (List.range tricks).flatMap (fun t => leBytes 4 (128 + 16 * tricks + 16 * per * t) ++ leBytes 4 per ++ zeros 8) ++
  (List.replicate (per * tricks) (leBytes 4 body ++ leBytes 4 65536 ++ leBytes 4 1 ++ zeros 4)).flatten ++ zeros 15 ++ [0xF0]

def planImage (order tricks : Nat) : ByteMem := memWriteN [] 0 (planBytes order tricks)

def planLen (order tricks : Nat) : Nat := 144 + 16 * tricks + 16 * 4 ^ order * tricks

/-- A sealed plan of order 0 with two tricks at index 0 of context 0x40, its handle 0x100. -/
def plan1 : Plan := ⟨1, .isSealed, planImage 0 2, planLen 0 2, 0⟩

def stPlan : State := b1 st1 (fun b => modCtx b 0x40 (fun c => { c with plans := [(0, plan1)] }))

/-- The plan dying since the PLAN_UNLOAD that waits. -/
def stDying : State :=
  b1 (withCmds st1 [cmd 0 ⟨1, 0x40, 1⟩ 0x21 (.planUnload 0)])
    (fun b => modCtx b 0x40 (fun c => { c with plans := [(0, { plan1 with state := .dying })] }))

/-- Whether a PLAN_UNLOAD of a plan was fetched before the STEP. -/
def unloadedBefore (s : State) (plan : BitVec 32) : Bool :=
  let b := fetched (.stepCmd qG (hd 0x40) plan 0 0 0) qG (hd 0x40) 0x22 s.blk
  b.dealer.cmds.any (fun x => x.q.tag == qG.tag && x.stage == .planUnload (plan.toNat % 256) && decide (x.id < s.blk.dealer.nextCmd))

theorem witness_PlansLoadStepAndVerify_packets :
    (let i : Instr := .planLoad qG (hd 0x40) 0x10000 176
     let b := fetched i qG (hd 0x40) 0x20 st1.blk
     accepted i qG (hd 0x40) 0x20 st1.blk = true ∧ ∃ l, cmdTiles b 0x40 0 0xF7 false 0x10000 176 = .ok l ∧ decide (l.length = 1) = true) ∧
    (let i : Instr := .planUnload qG (hd 0x40) 0x100
     let b := fetched i qG (hd 0x40) 0x21 stPlan.blk
     accepted i qG (hd 0x40) 0x21 stPlan.blk = true ∧ ∃ c, ctxAt b 0x40 = some c ∧ tabGet c.plans 0 = some plan1) ∧
    (let i : Instr := .stepCmd qG (hd 0x40) 0x100 0 0 0
     let b := fetched i qG (hd 0x40) 0x22 stPlan.blk
     accepted i qG (hd 0x40) 0x22 stPlan.blk = true ∧ (∃ c, ctxAt b 0x40 = some c ∧ planAt c 0x100 = some plan1 ∧ planAt c 0x200 = none) ∧
      phaseOk plan1.image 0 = true ∧ phaseOk plan1.image 1 = false ∧ unloadedBefore stPlan 0x100 = false) ∧
    (let i : Instr := .stepCmd qG (hd 0x40) 0x100 0 0 0
     accepted i qG (hd 0x40) 0x22 stDying.blk = true ∧ unloadedBefore stDying 0x100 = true ∧
      ∃ c, ctxAt (fetched i qG (hd 0x40) 0x22 stDying.blk) 0x40 = some c) := by
  and_intros
  · decide +kernel
  · exact ex_ok _ (by decide +kernel)
  · decide +kernel
  · exact ⟨_, rfl, by decide +kernel⟩
  · decide +kernel
  · exact ⟨_, rfl, by decide +kernel, by decide +kernel⟩
  · decide +kernel
  · decide +kernel
  · decide +kernel
  · decide +kernel
  · decide +kernel
  · exact ⟨_, rfl⟩

/-- A step of VF1 at a stage. -/
def step1 (stage : StepStage) : Step :=
  { id := 0, cmd := 0, fn := 1, tag := 0x40, cid := 7, cq := 0, plan := 0x100, phase := 0, view := 0, bindingVa := 0, cls := 0, stage := stage
    deal := none, slots := [], pins := [], refs := [], stageOps := [], next := 0, unit := none, holdsState := false, spilled := false
    needsFill := false, sems := [], pinnedAt := none, admittedAt := none, lastRan := none, aborted := false, lost := false, rewalk := false }

/-- Two eligible sequences with their adapter slot, and deal lists in use. -/
def stDeal (lists : Nat) : State := b1 stPlan (fun b => modDealer b (fun d => { d with
  seqs := (List.range 2).map (fun i => (i, ⟨1, 0x40, .isOpen, { fields0 with control := 0x20, budget := 1, adapter := 1024 }, none, 0, 0⟩))
  adapters := [(0, ⟨true, false, 1, 0x40, 0x10000, 2, true, true, 0⟩)]
  steps := (List.range lists).map (fun i => { step1 .admitted with id := i + 1, deal := some ⟨i, 0, [], []⟩ }) }))

theorem witness_PlansLoadStepAndVerify_deals :
    dealt st1.blk (step1 .setAside) part1 (planImage 0 2) = [] ∧
    (dealt (stDeal 64).blk (step1 .setAside) part1 (planImage 0 2) ≠ [] ∧ freeList (stDeal 64).blk 1 = none) ∧
    (let m := memWriteLE (planImage 0 2) 0x0C 2 1
     eligibleSeq (stDeal 0).blk (step1 .setAside) part1.desc.pooling m (seqAt (stDeal 0).blk 1) = true ∧
      (1, seqAt (stDeal 0).blk 1) ∉ dealt (stDeal 0).blk (step1 .setAside) part1 m) := by
  and_intros <;> decide +kernel

/-- A PLAN_LOAD of VF1 in its stream. -/
def loadCmd (n : Nat) (image : ByteMem) (st : PlanLoadStage) : Cmd := cmd 0 qG 0x20 (.planLoad 0x10000 n [] image 0 st)

/-- The statement's hypotheses of a round of that stream. -/
def inRound (s : State) (k : Cmd) : Prop :=
  alive s.blk = true ∧ ticking s.blk = true ∧ s.blk.tb.boundaryDone = true ∧ (fnAt s.blk 1).state ≠ .frozen ∧
  (fnAt s.blk 1).lastVerify ≠ some (roundCount s.blk.tb) ∧ streamHead s.blk 1 = some k ∧ partAt s.blk 1 = some part1 ∧
  ctxAt s.blk 0x40 = some ctx1

theorem witness_PlansLoadStepAndVerify_rounds :
    (let k := loadCmd 0x100000 [] .queued
     inRound (withCmds st1 [k]) k ∧ storeFits (withCmds st1 [k]).blk 1 part1 0x100000 = false) ∧
    (let k := loadCmd 0 [] .planChecks
     inRound (withCmds st1 [k]) k ∧ planLevel (withCmds st1 [k]).blk [] 0 = some 1) ∧
    (let k := loadCmd (planLen 0 2) (planImage 0 2) .planChecks
     inRound (withCmds st1 [k]) k ∧ planLevel (withCmds st1 [k]).blk (planImage 0 2) (planLen 0 2) = none ∧
      loadLevel (withCmds st1 [k]).blk part1 ctx1 (planImage 0 2) = none) ∧
    (let k := loadCmd (planLen 0 5) (planImage 0 5) (.segments 0)
     inRound (withCmds st1 [k]) k ∧ imgTricks (planImage 0 5) * 4 ^ imgOrder (planImage 0 5) = 5 ∧
      (∀ t, t < imgTricks (planImage 0 5) → trickLevel (withCmds st1 [k]).blk (planImage 0 5) t = none)) ∧
    (let k := loadCmd (planLen 0 5) (planImage 0 5) (.segments 4)
     inRound (withCmds st1 [k]) k) ∧
    (let k := loadCmd 0 [] (.ending stChecksum 0 false)
     inRound (withCmds st1 [k]) k ∧ (withCmds st1 [k]).blk.tb.tick ≤ 2047) ∧
    (let k := loadCmd (planLen 0 2) (planImage 0 2) (.ending stOk 0 true)
     let s := b1 (withCmds st1 [k]) (fun b => toTick b 2048)
     inRound (withCmds st1 [k]) k ∧ inRound s k ∧ 2047 < s.blk.tb.tick) := by
  unfold inRound
  and_intros <;> decide +kernel

/-! ## Meeting the statements: contexts and partitions -/

theorem witness_QueueCreateAndDestroy :
    (let i : Instr := .queueCreate qA (hd 0x40) 1 7 1 63 12 0x400000
     let b := fetched i qA (hd 0x40) 0x60 stA.blk
     accepted i qA (hd 0x40) 0x60 stA.blk = true ∧ ∃ c, ctxAt b 0x40 = some c ∧ c.fn = qA.fn ∧ c.state = .live ∧ tabGet c.cqs 7 = none) ∧
    (let i : Instr := .queueCreate qA (hd 0x40) 0 1 1 0 4 0x400000
     let b := fetched i qA (hd 0x40) 0x60 stA.blk
     accepted i qA (hd 0x40) 0x60 stA.blk = true ∧ ∃ c, ctxAt b 0x40 = some c ∧ tabGet c.sqs 1 = none ∧ tabGet c.cqs 0 ≠ none) ∧
    (let i : Instr := .queueDestroy qA (hd 0x40) 1 0
     let b := fetched i qA (hd 0x40) 0x61 stA.blk
     accepted i qA (hd 0x40) 0x61 stA.blk = true ∧ ∃ c, ctxAt b 0x40 = some c ∧ hasQueue c 1 0 = true ∧ queueBusy b 0x40 c 1 0 = true) ∧
    (let i : Instr := .queueDestroy qA (hd 0x40) 0 0
     let b := fetched i qA (hd 0x40) 0x61 stA.blk
     accepted i qA (hd 0x40) 0x61 stA.blk = true ∧ ∃ c, ctxAt b 0x40 = some c ∧ hasQueue c 0 0 = true ∧ queueBusy b 0x40 c 0 0 = false) := by
  and_intros
  · decide +kernel
  · exact ⟨_, rfl, by decide +kernel, by decide +kernel, by decide +kernel⟩
  · decide +kernel
  · exact ⟨_, rfl, by decide +kernel, by decide +kernel⟩
  · decide +kernel
  · exact ⟨_, rfl, by decide +kernel, by decide +kernel⟩
  · decide +kernel
  · exact ⟨_, rfl, by decide +kernel, by decide +kernel⟩

theorem witness_ContextsAreMadeAndDestroyed :
    (let i : Instr := .ctxCreate qA (hd 0) 0x301000 65535 0x28000000 16
     let b := fetched i qA (hd 0) 0x70 stA.blk
     accepted i qA (hd 0) 0x70 stA.blk = true ∧ partAt b 1 = some part1 ∧ spillOk b 1 part1 0x28000000 16 = true ∧
      (ctxsOf b 1).length < part1.desc.maxContexts ∧ part1.desc.tagFirst ≤ 0x41 ∧ 0x41 < part1.desc.tagFirst + part1.desc.tagCount ∧
      ctxAt b 0x41 = none ∧ (∀ x, x < 0x41 → part1.desc.tagFirst ≤ x → ctxAt b x ≠ none)) ∧
    (let i : Instr := .ctxDestroy qA (hd 0x40)
     let b := fetched i qA (hd 0x40) 0x71 stA.blk
     accepted i qA (hd 0x40) 0x71 stA.blk = true ∧ ∃ c, ctxAt b 0x40 = some c ∧ c.fn = qA.fn ∧ c.state ≠ .destroying) ∧
    (let i : Instr := .ctxDestroy qA (hd 0x41)
     accepted i qA (hd 0x41) 0x71 stA.blk = true ∧ ctxAt (fetched i qA (hd 0x41) 0x71 stA.blk) 0x41 = none) := by
  and_intros
  · decide +kernel
  · decide +kernel
  · decide +kernel
  · decide +kernel
  · decide +kernel
  · decide +kernel
  · decide +kernel
  · decide +kernel
  · decide +kernel
  · exact ⟨_, rfl, by decide +kernel⟩
  · decide +kernel
  · decide +kernel

/-- Host memory with little-endian fields from an address: offset, bytes, value. -/
def hostFields (base : Nat) (l : List (Nat × Nat × Nat)) : ByteMem := l.foldl (fun m e => memWriteLE m (base + e.1) e.2.1 e.2.2) []

/-- A partition descriptor: a GiB of stack 0 and of far channel 0 beside VF1's, contexts from tag 0x50. -/
def descFields : List (Nat × Nat × Nat) :=
  [(0, 4, 0x54524150), (4, 2, 0x0100), (0x29, 1, 1), (0x2A, 2, 1), (0x2C, 2, 1), (0x35, 1, 1), (0x36, 2, 1), (0x38, 2, 1), (0x40, 1, 5),
   (0x50, 2, 2), (0x52, 2, 0x50), (0x54, 2, 4), (0x56, 2, 8), (0x58, 2, 8), (0x5A, 2, 4), (0x5C, 2, 4), (0x5E, 1, 1), (0x60, 2, 16),
   (0x62, 2, 16), (0x64, 4, 4), (0x70, 1, 2), (0x78, 4, 1088), (0x80, 1, 2), (0x84, 4, 1088), (0x88, 4, 16), (0x90, 1, 2),
   (0x94, 4, 1104), (0x98, 4, 64), (0xA0, 1, 2), (0xA4, 4, 1168), (0xA8, 4, 64), (0xB0, 1, 1), (0xB8, 4, 16)]

/-- Host memory as given. -/
def withHost (s : State) (m : ByteMem) : State := b1 s (fun b => modMem b (fun x => { x with host := m }))

/-- A function put into a state. -/
def withFn (s : State) (fn : Nat) (st : FnState) : State := b1 s (fun b => modFn b fn (fun x => { x with state := st }))

/-- A migration key of a function. -/
def withKey (s : State) (fn : Nat) : State := b1 s (fun b => { b with grotto := { b.grotto with migrationKeys := [(fn, 5)] } })

theorem witness_PartitionsAreMadeAndDestroyed :
    (let s := withHost st1 (hostFields 0x600000 descFields)
     let i : Instr := .partCreate qM (hd 0) 3 0x600000
     let b := fetched i qM (hd 0) 0x80 s.blk
     let raw := hostRead b 0x600000 256
     accepted i qM (hd 0) 0x80 s.blk = true ∧ vfExists b 3 = true ∧ (fnAt b 3).state = .absent ∧ descOk b raw = true ∧
      poolOk b (partDesc raw) = true ∧ meetsLantern b (partDesc raw) = false) ∧
    (let i : Instr := .partDestroy qM (hd 0) 1
     let b := fetched i qM (hd 0) 0x81 st1.blk
     accepted i qM (hd 0) 0x81 st1.blk = true ∧ vfExists b 1 = true ∧ (fnAt b 1).state ≠ .absent ∧ partAt b 1 = some part1) ∧
    (let s := b1 st1 (fun b => modFn (modPart b 1 (fun p => { p with ending := some (.scrub true) })) 0 (fun x =>
       { x with gr := { x.gr with taken := some ⟨0, 64, 0, 1, 0xE1, 64, []⟩ } }))
     let i : Instr := .partDestroy qM (hd 0) 1
     let b := fetched i qM (hd 0) 0x81 s.blk
     accepted i qM (hd 0) 0x81 s.blk = true ∧ vfExists b 1 = true ∧ (fnAt b 1).state ≠ .absent ∧
      (partAt b 1).map (fun p => p.ending) = some (some (.scrub true)) ∧ (fnAt b 0).gr.taken ≠ none) ∧
    (let i : Instr := .partDestroy qM (hd 0) 3
     let b := fetched i qM (hd 0) 0x81 st1.blk
     accepted i qM (hd 0) 0x81 st1.blk = true ∧ vfExists b 4 = false ∧ (fnAt b 3).state = .absent) := by
  and_intros <;> decide +kernel

theorem witness_PartitionsFreezeAndThaw :
    (let i : Instr := .partFreeze qM (hd 0) 1
     let at' := fun (s : State) => (fnAt (fetched i qM (hd 0) 0x82 s.blk) 1).state
     accepted i qM (hd 0) 0x82 st1.blk = true ∧ vfExists (fetched i qM (hd 0) 0x82 st1.blk) 1 = true ∧ at' st1 = .running ∧
      at' (withFn st1 1 .frozen) = .frozen ∧ at' (withFn st1 1 .stopping) = .stopping) ∧
    (let i : Instr := .partThaw qM (hd 0) 1
     accepted i qM (hd 0) 0x85 (withFn st1 1 .frozen).blk = true ∧
      (fnAt (fetched i qM (hd 0) 0x85 (withFn st1 1 .frozen).blk) 1).state = .frozen ∧ accepted i qM (hd 0) 0x85 st1.blk = true ∧
      (fnAt (fetched i qM (hd 0) 0x85 st1.blk) 1).state ≠ .frozen) := by
  and_intros <;> decide +kernel

theorem witness_PartitionsAreSavedAndRestored :
    (let s := withKey (withFn st1 1 .frozen) 1
     let i : Instr := .partSave qM (hd 0) 1 0x600000 0
     let b := fetched i qM (hd 0) 0x83 s.blk
     accepted i qM (hd 0) 0x83 s.blk = true ∧ vfExists b 1 = true ∧ (fnAt b 1).state = .frozen ∧
      tabGet b.grotto.migrationKeys 1 = some 5 ∧ partAt b 1 = some part1) ∧
    (let s := withFn st1 1 .frozen
     let i : Instr := .partSave qM (hd 0) 1 0x600000 0
     let b := fetched i qM (hd 0) 0x83 s.blk
     accepted i qM (hd 0) 0x83 s.blk = true ∧ (fnAt b 1).state = .frozen ∧ tabGet b.grotto.migrationKeys 1 = none) ∧
    (let c := fun (l : List Byte) => cmd 0 qM 0x83 (.saving 1 0x600000 l 1)
     cmdById (withCmds st1 [c []]).blk 0 = some (c []) ∧ cmdById (withCmds st1 [c [7]]).blk 0 = some (c [7]) ∧ hasRoom false [] [1] = true ∧
      hasRoom false [(1, 122)] [1] = false) ∧
    (let head : List (Nat × Nat × Nat) := [(0, 4, 0x45564153), (4, 2, 0x0100), (7, 1, 3), (8, 2, 0x0104), (10, 1, 16), (72, 8, 352)]
     let s := withKey (withHost st1 (hostFields 0x600000 (head ++ descFields.map (fun e => (e.1 + 352, e.2))))) 3
     let i : Instr := .partRestore qM (hd 0) 3 0x600000 624
     let b := fetched i qM (hd 0) 0x84 s.blk
     let img := hostRead b 0x600000 624
     accepted i qM (hd 0) 0x84 s.blk = true ∧ vfExists b 3 = true ∧ (fnAt b 3).state = .absent ∧ imageFits b 3 img = true ∧
      descOk b (imageDesc img) = true ∧ poolOk b (partDesc (imageDesc img)) = true ∧ meetsLantern b (partDesc (imageDesc img)) = false ∧
      tabGet b.grotto.migrationKeys 3 = some 5) := by
  and_intros <;> decide +kernel

theorem witness_CalendarSetStages :
    (let s := withHost st1 (memWriteLE [] (0x600000 + 1998) 2 1)
     let i : Instr := .calendarSet qM (hd 0) 3 1 0x600000
     let b := fetched i qM (hd 0) 0x88 s.blk
     accepted i qM (hd 0) 0x88 s.blk = true ∧ quadHere b 3 = true ∧ hostLE b (0x600000 + 1998) 2 = 1 ∧
      (∀ j, j < 1000 → entryOk b 3 (hostLE b (0x600000 + 2 * j) 2) = true)) ∧
    (let s := withHost st1 (memWriteLE [] (0x600000 + 1998) 2 64)
     let i : Instr := .calendarSet qM (hd 0) 3 1 0x600000
     let b := fetched i qM (hd 0) 0x88 s.blk
     accepted i qM (hd 0) 0x88 s.blk = true ∧ entryOk b 3 (hostLE b (0x600000 + 1998) 2) = false) := by
  and_intros <;> decide +kernel

/-- A READY set of one tile, its id 4; VF1 holds it or not. -/
def stBase (held : Bool) : State := b1 st1 (fun b => modPart (modDealer b (fun d => { d with
  bases := [(0, ⟨1, .ready, 1, 1, 0, [], [(0, 2 ^ 30)], [(0, farBase 0 + 2 ^ 30)]⟩)] })) 1
  (fun p => { p with desc := { p.desc with baseSet := if held then 4 else 0 } }))

theorem witness_BaseSetsAreLoadedAndReleased :
    (let s := withHost st1 (hostFields 0x600000 [(0, 4, 0x45534142), (4, 2, 0x0100), (6, 2, 1), (0x0C, 4, 1)])
     let i : Instr := .baseLoad qM (hd 0) 0x600000
     let b := fetched i qM (hd 0) 0x90 s.blk
     let bs := hostRead b 0x600000 256
     accepted i qM (hd 0) 0x90 s.blk = true ∧ baseDescOk b bs = true ∧ leAt bs 8 4 = 0 ∧ lowestFree b.dealer.bases 0 < 4 ∧
      baseEntriesFit b (leAt bs 6 2) (leAt bs 0x0C 4) = true ∧ freeSlots b ≠ [] ∧
      baseRoom b (leAt bs 6 2) (leAt bs 0x0C 4) = some ([(0, 2 ^ 30)], [(0, farBase 0 + 2 ^ 30)])) ∧
    (let i : Instr := .baseRelease qM (hd 0) 4
     let b := fun held => fetched i qM (hd 0) 0x91 (stBase held).blk
     accepted i qM (hd 0) 0x91 (stBase true).blk = true ∧ accepted i qM (hd 0) 0x91 (stBase false).blk = true ∧
      (tabGet (b true).dealer.bases 0).any (fun x => x.gen.toNat == (4 : BitVec 32).toNat / 4) = true ∧
      (tabGet (b false).dealer.bases 0).any (fun x => x.gen.toNat == (4 : BitVec 32).toNat / 4) = true ∧
      (∃ e ∈ (b true).parts, e.2.desc.baseSet = 4) ∧ (∀ e ∈ (b false).parts, e.2.desc.baseSet ≠ 4)) := by
  and_intros <;> decide +kernel

/-- The cable plugged in and presence granted. -/
def stGrant : State := b1 st1 (fun b => { b with grotto := { b.grotto with cable := true, grant := true } })

/-- A DEBUG_UNLOCK that has zeroed the block, with the cable in or out. -/
def stUnlocking (cable : Bool) : State :=
  b1 (withCmds st1 [cmd 0 qM 0x98 (.unlocking true)]) (fun b => { b with grotto := { b.grotto with cable := cable, unlocking := true } })

theorem witness_DebugUnlockErasesFirst :
    let i : Instr := .debugUnlock qM (hd 0)
    let b := fun (s : State) => fetched i qM (hd 0) 0x98 s.blk
    (accepted i qM (hd 0) 0x98 st1.blk = true ∧ (b st1).grotto.cable = false) ∧
    (let s := b1 stGrant (fun x => { x with grotto := { x.grotto with debugState := 1 } })
     accepted i qM (hd 0) 0x98 s.blk = true ∧ (b s).grotto.cable = true ∧ (b s).grotto.grant = true ∧ (b s).grotto.debugState = 1) ∧
    (let s := b1 stGrant (fun x => { x with parts := [], ctxs := [] })
     accepted i qM (hd 0) 0x98 s.blk = true ∧ (b s).grotto.cable = true ∧ (b s).grotto.grant = true ∧ (b s).grotto.debugState ≠ 1 ∧
      (b s).parts = [] ∧ (∀ c ∈ (b s).dealer.cmds, c.stage ≠ .unlocking false)) ∧
    (accepted i qM (hd 0) 0x98 stGrant.blk = true ∧ (b stGrant).grotto.cable = true ∧ (b stGrant).grotto.grant = true ∧
      (b stGrant).grotto.debugState ≠ 1 ∧ (b stGrant).parts ≠ []) ∧
    (∀ cable : Bool, (stUnlocking cable).blk.dealer.cmds.find? (fun c => c.stage == .unlocking true) = some (cmd 0 qM 0x98 (.unlocking true)) ∧
      (stUnlocking cable).blk.grotto.cable = cable) := by
  and_intros <;> decide +kernel

/-! ## Meeting the statements: functions, doorbells and records -/

/-- VF1's interface in a TDISP state. -/
def withTdisp (s : State) (st : TdispState) : State := b1 s (fun b => { b with grotto := { b.grotto with tdisp := [(1, ⟨st, 0, []⟩)] } })

theorem witness_FunctionsRunByEnable :
    (let b := (withFn st1 1 .ready).blk
     alive b = true ∧ enableIgnored b 1 = false ∧ (fnAt b 1).state = .ready ∧ aqValid (fnAt b 1) = true) ∧
    (let b := modFn (withFn st1 1 .ready).blk 1 (fun x => { x with aqLevel := 0 })
     enableIgnored b 1 = false ∧ (fnAt b 1).state = .ready ∧ aqValid (fnAt b 1) = false) ∧
    (enableIgnored st1.blk 1 = false ∧ (fnAt st1.blk 1).state = .running) ∧ enableIgnored (withTdisp st1 .locked).blk 1 = true ∧
    (let b := (withFn st1 1 .stopping).blk
     (fnAt b 1).state = .stopping ∧ (∀ c ∈ b.dealer.cmds, c.q.fn ≠ 1)) ∧
    (∃ c ∈ (withCmds st1 [cmd 0 qG 1 (.held none)]).blk.dealer.cmds, c.q.fn = 1) := by
  refine ⟨?_, ?_, ?_, ?_, ?_, ⟨_, List.mem_cons_self, rfl⟩⟩ <;> decide +kernel

/-- A doorbell's value. -/
def bell (tag i index : Nat) : BitVec 64 := BitVec.ofNat 64 (tag * 2 ^ 32 + i * 2 ^ 24 + index)

theorem witness_RingDoorbells :
    takesDoorbells st1.blk 1 = true ∧
    (((bell 0x41 0 0).extractLsb' 32 16).toNat ≠ 0 ∧ liveCtx st1.blk 1 ((bell 0x41 0 0).extractLsb' 32 16).toNat = none) ∧
    (liveCtx st1.blk 1 0x40 ≠ none ∧ sqOf st1.blk ⟨1, 0x40, 7⟩ = none ∧ cqOf st1.blk ⟨1, 0x40, 0⟩ 7 = none) ∧
    (sqOf st1.blk qG = some ⟨0x100000, 4, 1, 0, 1⟩ ∧ 2 ^ 4 ≤ ((bell 0x40 0 16).extractLsb' 0 12).toNat ∧
      ((bell 0x40 0 15).extractLsb' 0 12).toNat < 2 ^ 4) ∧
    (cqOf st1.blk qG 0 = some ⟨0x200000, 4, 0, 0, 0, true, true, 0⟩) ∧
    (liveCtx st1.blk 1 0x40 = some ctx1 ∧ ctx1.fenceCount ≤ ((bell 0x40 0 8).extractLsb' 0 16).toNat) ∧
    ((bell 0 0 3).extractLsb' 32 16 = 0 ∧ (bell 0 0 3).extractLsb' 24 3 = 0 ∧ sqOf st1.blk ⟨1, 0, 0⟩ = some ⟨0, 4, 1, 0, 0⟩) ∧
    (tabGet ctx1.sqs 0 = some ⟨0x100000, 4, 1, 0, 1⟩ ∧ cqOf st1.blk ⟨1, 0, 0⟩ 0 = some ⟨0, 4, 0, 0, 0, true, false, 0⟩) := by
  and_intros <;> decide +kernel

theorem witness_CompletionRecordIsWritten :
    let c := cmd 0 qG 1 (.done stOk 0)
    let b := (withCmds st1 [c]).blk
    alive b = true ∧ ticking b = true ∧ cmdRecordTick b 1 c ≤ lastTick b.tb ∧ nextRecord b 1 = some c ∧ recordOf b c = some (stOk, 0) ∧
    cqOf b c.q c.cq = some ⟨0x200000, 4, 0, 0, 0, true, true, 0⟩ ∧ sqOf b c.q = some ⟨0x100000, 4, 1, 0, 1⟩ := by
  and_intros <;> decide +kernel

theorem witness_PerFunctionResetStopsAndEnds :
    (alive st1.blk = true ∧ (fnAt st1.blk 1).state = .running ∧ (fnAt st1.blk 0).state = .running ∧
      (tabGet (withTdisp st1 .run).blk.grotto.tdisp 1).any (fun x => x.state == .run) = true ∧ ctxAt st1.blk 0x40 = some ctx1 ∧ ctx1.fn = 1) ∧
    (let b := { (withFn st1 1 .resetting).blk with ctxs := [] }
     alive b = true ∧ (fnAt b 1).state = .resetting ∧ resetDrained b 1 = true) ∧
    ((fnAt (withFn st1 0 .resetting).blk 0).state = .resetting ∧ resetDrained (withFn st1 0 .resetting).blk 0 = true) ∧
    ((fnAt (withFn st1 1 .resetting).blk 1).state = .resetting ∧ resetDrained (withFn st1 1 .resetting).blk 1 = false) := by
  and_intros <;> decide +kernel

/-! ## Meeting the statements: registers, Lantern, JTAG -/

theorem witness_RegisterWritesOfPf0 :
    alive st1.blk = true ∧ (fnAt st1.blk 0).state ≠ .absent ∧ (fnAt st1.blk 1).state ≠ .absent ∧ (0x2B : BitVec 32).getLsbD 0 = true ∧
    (0x1000 ≤ 0x1007 ∧ 0x1007 < 0x1008 ∧ aligned 0x1007 32 = false ∧ aligned 0x1000 64 = true) ∧
    (aligned 0x0FFF 32 = false ∧ 0x0FFF < 0x1000 ∧ aligned 0x1018 8 = false) ∧ (1 : BitVec 64).getLsbD 0 = true ∧
    (st1.blk.boot.released = true ∧ vfExists st1.blk 1 = true ∧ st1.blk.recov.halted = false ∧ aligned 0x1100 16 = false) := by
  and_intros <;> decide +kernel

theorem witness_JtagActsByItsInstruction :
    st1.blk.jtag.debugOpen = false ∧ debugInst .idcode = false ∧ debugInst (.other 0) = true := by
  and_intros <;> decide +kernel

/-- XL_S2_SELECT and the entry registers. -/
def stXlat (vf : BitVec 6) (i : BitVec 4) (w0 : BitVec 64) : State := b1 st1 (fun b => { b with
  xlat := { b.xlat with selVf := vf, selEntry := i, w0 := w0 } })

theorem witness_StageTwoAccess :
    (alive st1.blk = true ∧ (fnAt st1.blk 0).state ≠ .absent ∧ st1.blk.xlat.busy = false ∧ (2 : BitVec 32).getLsbD 1 = true ∧
      (2 : BitVec 32).getLsbD 0 = false ∧ (1 : BitVec 32).getLsbD 0 = true ∧ (1 : BitVec 32).getLsbD 1 = false ∧
      (3 : BitVec 32).getLsbD 0 = true ∧ (3 : BitVec 32).getLsbD 1 = true) ∧
    partAt (stXlat 2 0 0).blk 2 = none ∧ partAt (stXlat 1 4 0).blk 1 = some part1 ∧ s2Allowed part1 4 ⟨0xC000600000000100, 0⟩ = false ∧
    (s2Allowed part1 5 ⟨0xE000600000000100, 0⟩ = true ∧ s2Valid (s2Entry part1 5) = false) ∧
    (s2Allowed part1 4 ⟨0xE000600000000100, 0⟩ = true ∧ s2Valid (s2Entry part1 4) = true) := by
  and_intros <;> decide +kernel

/-- A buffer of LT_BUF, the trigger and whether Lantern is enabled and records. -/
def withLantern (f : Lantern → Lantern) : State := b1 st1 (fun b => { b with lantern := f { b.lantern with sizeMib := 1 } })

/-- VF1 with a Gallery carve-out that meets the buffer. -/
def stMeets : State := b1 (withLantern id) (fun b => modPart b 1 (fun p => { p with desc := { p.desc with galleryDies := 1, galleryMib := 4 } }))

theorem witness_LanternRecordsAndDumps :
    (let b := (withLantern id).blk
     (1 : BitVec 32).getLsbD 0 = true ∧ (1 : BitVec 32).getLsbD 1 = false ∧ b.lantern.enable = false ∧ b.lantern.dumping = false ∧
      ltPlaced b = true ∧ ltMeetsPart b = false ∧ b.tb.ppsPin = true ∧ (1 : BitVec 32).extractLsb' 2 2 ≠ 1 ∧
      (5 : BitVec 32).extractLsb' 2 2 = 1) ∧
    ltPlaced st1.blk = false ∧ (ltPlaced stMeets.blk = true ∧ ltMeetsPart stMeets.blk = true) ∧
    (let l := (withLantern (fun l => { l with enable := true, active := true })).blk.lantern
     l.active = true ∧ l.triggered = false ∧ l.enable = true ∧ l.trigger = 0 ∧ (3 : BitVec 32).getLsbD 1 = true) ∧
    (let s := withLantern (fun l => { l with enable := true, active := true, trigger := 1 })
     let b := { s.blk with tb := { s.blk.tb with ppsPin := false } }
     alive b = true ∧ b.lantern.trigger = 1 ∧ b.tb.ppsPin = false) ∧
    (let s := withLantern (fun l => { l with enable := true, active := true, trigger := 2 })
     let b := { s.blk with recov := { s.blk.recov with faultTick := some 3 } }
     alive b = true ∧ b.lantern.trigger = 2 ∧ b.recov.faultTick ≠ none) ∧
    (let l := (withLantern (fun l => { l with active := true, left := some 0 })).blk.lantern
     l.active = true ∧ l.left = some 0) ∧ st1.blk.lantern.left ≠ some 0 ∧ st1.blk.lantern.dumping = false := by
  and_intros <;> decide +kernel

/-! ## Meeting the statements: mailboxes, bring-up and the Grotto -/

/-- A message's header in a function's buffer at 0x600000: protocol, request, payload bytes. -/
def message (fn protocol request n : Nat) : ByteMem :=
  hostFields (hostAt fn 0x600000) [(0, 1, protocol), (1, 1, 1), (2, 2, request), (8, 4, n)]

/-- A notice of that buffer in a mailbox. -/
def posted (s : State) (fn : Nat) (m : MboxSel) (host : ByteMem) : State :=
  withHost (b1 s (fun b => modMbox b fn m (fun x => { x with notice := 0x600000, full := true }))) host

/-- What the receiver takes. -/
def takenAt (s : State) (fn : Nat) (m : MboxSel) : Taken := takenOf s.blk fn (mboxAt s.blk fn m).notice

/-- A mailbox's receiver takes a message with a good header or a bad one. -/
def Takes (s : State) (fn : Nat) (m : MboxSel) (good : Bool) : Prop :=
  takes s.blk fn m = true ∧ (mboxAt s.blk fn m).replyLost = none ∧ headerOk m (takenAt s fn m) = good

theorem witness_MailboxesPostAndTake :
    (alive st1.blk = true ∧ mboxPresent st1.blk 1 .dl = true ∧ (mboxAt st1.blk 1 .dl).full = false ∧
      (mboxAt (posted st1 1 .dl []).blk 1 .dl).full = true ∧ mboxPresent (posted st1 1 .dl []).blk 1 .dl = true) ∧
    Takes (posted st1 1 .dl []) 1 .dl false ∧
    (∀ fn, fn < 2 → let s := posted st1 fn .dl (message fn 4 0xF000 48)
      Takes s fn .dl true ∧ 0xF000 ≤ (takenAt s fn .dl).request) ∧
    (let s := posted st1 0 .dl (message 0 4 0xEFFF 0)
     Takes s 0 .dl true ∧ (takenAt s 0 .dl).request = 0xEFFF) ∧
    (let s := posted st1 0 .dl (message 0 4 2 0)
     Takes s 0 .dl true ∧ (takenAt s 0 .dl).request = 2) ∧
    (let s := b1 (posted st1 0 .rcv (message 0 3 8 0)) (fun b => { b with boot := { b.boot with stage := 0xF } })
     Takes s 0 .rcv true ∧ s.blk.boot.stage = 0xF) ∧
    (let s := posted st1 0 .rcv (message 0 3 9 0)
     Takes s 0 .rcv true ∧ 8 < (takenAt s 0 .rcv).request ∧ s.blk.boot.stage = 8) ∧
    (let s := posted st1 0 .rcv (message 0 3 8 0)
     Takes s 0 .rcv true ∧ (takenAt s 0 .rcv).request = 8) ∧
    (let s := posted st1 0 .gr (message 0 1 0 0)
     Takes s 0 .gr true ∧ (takenAt s 0 .gr).protocol ≠ 2) ∧
    (let s := posted st1 0 .gr (message 0 2 0 0)
     Takes s 0 .gr true ∧ (takenAt s 0 .gr).protocol = 2 ∧ itsSession s.blk 0 (takenAt s 0 .gr) = none) := by
  unfold Takes
  and_intros <;> decide +kernel

/-- A message taken from the buffer at 0x600000. -/
def taken1 (protocol request n : Nat) : Taken := ⟨0x600000, 4096, 0, protocol, request, n, []⟩

/-- A secured message of the session of that identity. -/
def taken2 (session : Nat) : Taken := { taken1 2 0 0 with message := zeros 16 ++ leBytes 2 session }

/-- A function's receiver handling a message. -/
def handling (s : State) (fn : Nat) (m : MboxSel) (x : Taken) : State :=
  b1 s (fun b => modMbox b fn m (fun y => { y with notice := 0x600000, full := true, taken := some x }))

theorem witness_MailboxesPostAndTake_answers :
    ((mboxAt (handling st1 1 .dl (taken1 4 1 0)).blk 1 .dl).taken = some (taken1 4 1 0) ∧
      (mboxAt (handling st1 1 .dl (taken1 4 1 0)).blk 1 .dl).replyLost = none ∧ (mbPayload (taken1 4 1 0)).length < 2 ^ 32 ∧
      alive (handling st1 1 .dl (taken1 4 1 0)).blk = true) ∧
    ((mboxAt (handling st1 1 .dl (taken1 4 2 1)).blk 1 .dl).taken = some (taken1 4 2 1) ∧ (taken1 4 2 1).requestBytes ≠ 0) := by
  and_intros <;> decide +kernel

/-- A block in bring-up at a stage, its recovery mailbox handling a request. -/
def inStage (stage : BitVec 4) (code n : Nat) (message : List Byte) : State :=
  handling ⟨{ Block.reset with
    boot := { Boot.reset with released := true, stage := stage, dealerStarted := stage == 8, zeroed := stage == 8 } }, []⟩ 0 .rcv
    { taken1 3 code n with message := message }

/-- A request of code c is asked in stage n. -/
def AskedIn (c n : Nat) : Prop :=
  Asks (inStage (BitVec.ofNat 4 n) c 0 []).blk { taken1 3 c 0 with message := [] } c ∧
  (inStage (BitVec.ofNat 4 n) c 0 []).blk.boot.stage.toNat = n

theorem witness_BringUpKeysAndCertificates :
    (bringUpRow .rootKey = some (1, 0) ∧ AskedIn 1 15 ∧ AskedIn 1 1) ∧ AskedIn 1 0 ∧ AskedIn 2 1 ∧ AskedIn 4 3 ∧ AskedIn 5 4 ∧
    (mbPayload { taken1 3 1 97 with message := zeros 113 }).length = 97 ∧ (mbPayload { taken1 3 1 96 with message := zeros 113 }).length ≠ 97 ∧
    (mbPayload { taken1 3 2 1024 with message := zeros 1040 }).length = 1024 ∧
    (let p := mbPayload { taken1 3 4 16 with message := zeros 32 }
     p.length = 16 ∧ leAt p 8 4 ≤ 65536 ∧ leAt p 12 4 = 0) := by
  unfold AskedIn Asks
  and_intros <;> decide +kernel

theorem witness_BringUpFirmwareAndRecord :
    AskedIn 3 2 ∧ AskedIn 7 6 ∧ AskedIn 6 5 ∧ (mbPayload { taken1 3 6 160 with message := zeros 176 }).length = 160 := by
  unfold AskedIn Asks
  and_intros <;> decide +kernel

theorem witness_StartZeroesAndStartsTheDealer :
    AskedIn 8 7 ∧ mbPayload { taken1 3 8 0 with message := [] } = [] ∧ mbPayload { taken1 3 8 1 with message := zeros 17 } ≠ [] ∧
    alive (inStage 8 8 0 []).blk = true ∧ (inStage 8 8 0 []).blk.boot.zeroed = true ∧ (inStage 8 8 0 []).blk.boot.dealerStarted = true ∧
    (inStage 0 1 0 []).blk.boot.zeroed = false := by
  unfold AskedIn Asks
  and_intros <;> decide +kernel

/-- A session of a function's secure mailbox, and a message of it that the Grotto handles. -/
def inSession1 (s : State) (fn : Nat) (established : Bool) : State :=
  b1 (handling s fn .gr (taken2 1)) (fun b => { b with grotto := { b.grotto with sessions := [(fn, ⟨1, 0, established, 0⟩)] } })

/-- A message of the Grotto's mailbox, its algorithms negotiated. -/
def stChosen : State := b1 (handling st1 0 .gr (taken1 1 0 0)) (fun b => { b with grotto := { b.grotto with negotiated := [(0, true)] } })

theorem witness_GrottoReportsWhatItHolds :
    GrTakes (handling st1 0 .gr (taken1 1 0 0)).blk 0 (taken1 1 0 0) ∧ GrTakes stChosen.blk 0 (taken1 1 0 0) ∧
    tabGetD stChosen.blk.grotto.negotiated 0 false = true ∧
    (∀ i ∈ [Instr.getVersion 0, .getCapabilities 0, .negotiateAlgorithms 0 true],
      algorithmRequest i = none ∧ ∃ r, spdmReply (handling st1 0 .gr (taken1 1 0 0)).blk i = some (0, r)) ∧
    (∀ i ∈ [Instr.getDigests 0, .getCertificate 0 0 16, .challenge 0 0, .getMeasurements 0 0xFE 0],
      algorithmRequest i = some 0 ∧ ∃ r, spdmReply stChosen.blk i = some (0, r)) ∧
    (algorithmRequest (.keyExchange 0 1 0) = some 0 ∧
      tabGetD (handling st1 0 .gr (taken1 1 0 0)).blk.grotto.negotiated 0 false = false) := by
  refine ⟨by unfold GrTakes; decide +kernel, by unfold GrTakes; decide +kernel, rfl, fun i h => ?_, fun i h => ?_, rfl, rfl⟩
  · simp only [List.mem_cons, List.mem_nil_iff, or_false] at h
    rcases h with rfl | rfl | rfl <;> exact ⟨rfl, _, rfl⟩
  · simp only [List.mem_cons, List.mem_nil_iff, or_false] at h
    rcases h with rfl | rfl | rfl | rfl <;> exact ⟨rfl, _, rfl⟩

theorem witness_SessionsAndTheirRequests :
    (GrTakes stChosen.blk 0 (taken1 1 0 0) ∧ tabGetD stChosen.blk.grotto.negotiated 0 false = true) ∧
    (GrTakes (inSession1 st1 1 false).blk 1 (taken2 1) ∧ (taken2 1).protocol = 2 ∧
      tabGet (inSession1 st1 1 false).blk.grotto.sessions 1 = some ⟨1, 0, false, 0⟩ ∧ sessionOf (taken2 1) = 1) ∧
    (GrTakes (inSession1 st1 1 true).blk 1 (taken2 1) ∧
      tabGet (inSession1 st1 1 true).blk.grotto.sessions 1 = some ⟨1, 0, true, 0⟩) ∧
    Secured (inSession1 st1 1 true).blk 1 (taken2 1) ⟨1, 0, true, 0⟩ ∧
    (sessionRequest (.endSession 1) = some 1 ∧ inSession (inSession1 st1 1 false).blk 1 = false) ∧
    sessionRequest (.stopInterfaceRequest 1) = some 0 := by
  unfold Secured GrTakes
  and_intros <;> decide +kernel

theorem witness_MigrationKeysAndDecommission :
    Secured (inSession1 st1 0 true).blk 0 (taken2 1) ⟨1, 0, true, 0⟩ ∧ grPresent (inSession1 st1 0 true).blk 63 = false ∧
    grPresent (inSession1 (withTdisp st1 .run) 0 true).blk 1 = true ∧ Secured (inSession1 st1 1 true).blk 1 (taken2 1) ⟨1, 0, true, 0⟩ ∧
    (Secured (inSession1 stGrant 0 true).blk 0 (taken2 1) ⟨1, 0, true, 0⟩ ∧ (inSession1 stGrant 0 true).blk.grotto.grant = true) ∧
    (inSession1 st1 0 true).blk.grotto.grant = false := by
  unfold Secured GrTakes
  and_intros <;> decide +kernel

theorem witness_DeviceInterfaces :
    (let b := (inSession1 (withTdisp (withFn st1 1 .ready) .unlocked) 0 true).blk
     Secured b 0 (taken2 1) ⟨1, 0, true, 0⟩ ∧ tabGet b.grotto.tdisp 1 = some ⟨.unlocked, 0, []⟩ ∧ partAt b 1 = some part1 ∧
      (fnAt b 1).state = .ready ∧ part1.desc.diagnostic = false ∧ b.grotto.debugState = 0 ∧
      streamOk { b.grotto with streamSecure := 8 } 0 = true ∧ streamOk b.grotto 0 = false ∧ tabGet b.grotto.tdisp 2 = none) ∧
    (let b := (inSession1 (withTdisp st1 .locked) 0 true).blk
     Secured b 0 (taken2 1) ⟨1, 0, true, 0⟩ ∧ tabGet b.grotto.tdisp 1 = some ⟨.locked, 0, []⟩ ∧ part1.ending = none ∧
      grPresent b 1 = true ∧ ctxAt b 0x40 = some ctx1) ∧
    (let b := modPart (inSession1 st1 0 true).blk 1 (fun p => { p with ending := some (.destroy 0 false) })
     Secured b 0 (taken2 1) ⟨1, 0, true, 0⟩ ∧ (partAt b 1).map (fun p => p.ending) = some (some (.destroy 0 false))) ∧
    (partAt st1.blk 63 = none ∧ grPresent (inSession1 st1 0 true).blk 1 = false) := by
  unfold Secured GrTakes
  and_intros <;> decide +kernel

theorem witness_IdeStreamsAndKeys :
    (let b := (inSession1 (withTdisp st1 .run) 0 true).blk
     Secured b 0 (taken2 1) ⟨1, 0, true, 0⟩ ∧ keyAllowed b.grotto 0 2 = true ∧ keyAllowed b.grotto 0 3 = false ∧ (2 : BitVec 2) ≠ 3 ∧
      streamOk { b.grotto with streamIds := 0, streamSecure := 0 } 0 = false ∧ tabGet b.grotto.tdisp 1 = some ⟨.run, 0, []⟩) ∧
    (let b := (withTdisp st1 .run).blk
     alive b = true ∧ tabRising b.grotto.tdisp = true ∧ (fnAt b 1).state = .running) ∧
    (GrTakes (inSession1 st1 1 true).blk 1 (taken2 1) ∧ GrTakes (inSession1 st1 0 false).blk 0 (taken2 1) ∧
      inSession (inSession1 st1 0 false).blk 0 = false) := by
  unfold Secured GrTakes
  and_intros <;> decide +kernel

/-! ## Meeting the statements: reset and time -/

/-- The time base changed. -/
def withTb (s : State) (f : TimeBase → TimeBase) : State := b1 s (fun b => { b with tb := f b.tb })

theorem witness_ResetsOfTheBlock :
    State.reset.blk.boot.released = false ∧ st1.blk.boot.released = true ∧ tabRising st1.blk.cores = true ∧
    (let b := (b1 st1 (fun b => { b with grotto := { b.grotto with debugState := 1 } })).blk
     alive b = true ∧ b.grotto.cable = false ∧ (b.grotto.debugState = 0x01 ∨ b.grotto.unlocking = true)) ∧
    (stGrant.blk.grotto.cable = true ∧ st1.blk.grotto.debugState ≠ 0x01 ∧ st1.blk.grotto.unlocking = false) := by
  and_intros <;> decide +kernel

theorem witness_HaltedStays :
    let s := b1 st1 (fun b => { b with recov := { b.recov with halted := true } })
    s.blk.recov.halted = true ∧ ∃ t, exec (.fatalFault ⟨.dieLinkLost, true⟩) s = .next t := by
  refine ⟨?_, ⟨_, rfl⟩⟩
  decide +kernel

theorem witness_EpochsBeginByTheEdge :
    (let s := withTb st1 (fun x => { x with pps := .stopped })
     alive s.blk = true ∧ s.blk.tb.pps = .stopped ∧ s.blk.tb.started = true ∧ s.blk.tb.ppsPin = true) ∧
    (let s := withTb st1 (fun x => { x with pps := .stopped, started := false, ppsPin := false })
     alive s.blk = true ∧ s.blk.tb.pps = .stopped ∧ s.blk.tb.started = false ∧ s.blk.tb.ppsPin = false) ∧
    (alive st1.blk = true ∧ ticking st1.blk = true ∧ st1.blk.tb.boundaryDone = true ∧ st1.blk.tb.ppsPin = true ∧
      st1.blk.tb.tick ≤ 124999 ∧ st1.blk.tb.round ≠ 9999 ∧ st1.blk.tb.round ≤ 9999) ∧
    (let x := (withTb st1 (fun x => { x with round := 9999 })).blk.tb
     x.tick ≤ 62499 ∧ x.round = 9999 ∧ x.boundaryDone = true ∧ 187500 ≤ trimLen x ∧ x.tick < 62500 ∧ x.earlySeen = false ∧
      x.inWindow = none) := by
  and_intros <;> decide +kernel

theorem witness_ThrottledDiesSkipRounds :
    (let b := (withTb st1 (fun x => { x with throttled := 1 })).blk
     0 % 4 ^ 4 = 0 ∧ b.tb.round ≤ 9998 ∧ (b.tb.round + b.tb.round / 1000) % 2 = 1 ∧ b.tb.throttled.getLsbD 0 = true ∧
      255 ∈ unitCores 0 4 ∧ unitSkipped b 0 4 = true) ∧
    (let b := (withTb st1 (fun x => { x with throttled := 1, round := 1001 })).blk
     (b.tb.round + b.tb.round / 1000) % 2 = 0 ∧ unitSkipped b 0 4 = false) ∧
    alive st1.blk = true ∧ ticking st1.blk = true ∧ st1.blk.tb.round < 9998 := by
  and_intros <;> decide +kernel

theorem witness_RoundsBeginAndAreSampled :
    (alive st1.blk = true ∧ ticking st1.blk = true ∧ st1.blk.tb.round ≠ 9999 ∧ st1.blk.tb.boundaryDone = true ∧
      st1.blk.tb.sampled = false) ∧
    (let x := (withTb st1 (fun x => { x with round := 0, boundaryDone := false })).blk.tb
     x.round ≠ 9999 ∧ (if x.boundaryDone then x.round + 1 else x.round) = 0) ∧
    (let g := (b1 st1 (fun b => { b with grotto := { b.grotto with presence := true, presenceRun := 30000 } })).blk.grotto
     g.presence = true ∧ g.presenceRun = 30000) ∧
    st1.blk.grotto.presenceRun ≠ 30000 ∧ st1.blk.grotto.releasedRun ≤ 100000 ∧
    (let g := (b1 stGrant (fun b => { b with grotto := { b.grotto with releasedRun := 100001 } })).blk.grotto
     g.grant = true ∧ 100000 < g.releasedRun) := by
  and_intros <;> decide +kernel

/-- Tick 100 of the trim round; quad 2 changes its owner from VF1. -/
def stTrim : State := b1 (withTdisp (withTb st1 (fun x => { x with round := 9999 })) .run)
  (fun b => { b with cal := { b.cal with active := [(2, 1)], staged := [] } })

theorem witness_TrimRoundTasks :
    alive stTrim.blk = true ∧ ticking stTrim.blk = true ∧ stTrim.blk.tb.boundaryDone = true ∧ stTrim.blk.tb.round = 9999 ∧
    stTrim.blk.tb.tick ≤ 2048 ∧ stTrim.blk.acct.closedAt ≠ some stTrim.blk.tb.epoch ∧
    ctxAt stTrim.blk 0x40 = some ctx1 ∧ partAt stTrim.blk 1 = some part1 ∧
    (let a := { stTrim.blk.acct with closedAt := some 1 }
     a.closedAt = some stTrim.blk.tb.epoch) ∧
    (1 ∈ switchChanges stTrim.blk ∧ tabGet stTrim.blk.grotto.tdisp 1 = some ⟨.run, 0, []⟩) ∧ stackHere stTrim.blk 0 = true ∧
    stackHere stTrim.blk 1 = false := by
  and_intros <;> decide +kernel

/-! ## Meeting the statements: the Dealer and the cores -/

/-- Round and tick of a doorbell in epoch 1. -/
def belled (round : Nat) (c : Ctx) : Ctx := { c with lastDoorbell := some (mkStamp 1 round 0), wantsSince := some (mkStamp 1 round 0) }

/-- The context of tag 0x40 resident or not, those of 0x41 and 0x42 waiting for its slot, 0x42 the longer. -/
def stSwap (resident : Bool) : State := b1 st1 (fun b => { b with ctxs :=
  [(0x40, belled 1 { ctx1 with resident := resident }), (0x41, belled 3 { ctx1 with resident := false, wantsSwapIn := true }),
   (0x42, belled 2 { ctx1 with resident := false, wantsSwapIn := true })] })

/-- The least of a listed choice, by evaluation. -/
theorem first_of {b : Block} {key : Nat × Ctx → Nat} {p : Nat × Ctx → Bool} {tag : Nat} {c : Ctx}
    (h : (ctxAt b tag == some c && p (tag, c) &&
      b.ctxs.all (fun e => !p e || e.1 == tag || decide (key (tag, c) < key e))) = true) : FirstOf b key p tag c := by
  simp only [Bool.and_eq_true, beq_iff_eq, List.all_eq_true] at h
  refine ⟨h.1.1, h.1.2, fun x y hx hp hn => ?_⟩
  have := h.2 (x, y) (mem_of_tabGet hx)
  simp_all

theorem witness_SwapInsAndTheTrickWindow_swapIn :
    (∀ r : Bool, alive (stSwap r).blk = true ∧ ticking (stSwap r).blk = true ∧ (stSwap r).blk.tb.boundaryDone = true ∧
      (stSwap r).blk.tb.tick ≤ 2047 ∧ partAt (stSwap r).blk 1 = some part1 ∧
      (fnAt (stSwap r).blk 1).lastSwap ≠ some (roundCount (stSwap r).blk.tb) ∧ tabRising (stSwap r).blk.ctxs = true ∧
      FirstOf (stSwap r).blk wantKey (fun e => wantsSlot (stSwap r).blk 1 e.2) 0x42
        (belled 2 { ctx1 with resident := false, wantsSwapIn := true })) ∧
    ((stSwap false).blk.ctxs.filter (fun (e : Nat × Ctx) => e.2.fn == 1 && e.2.resident)).length < part1.desc.residentContexts ∧
    part1.desc.residentContexts ≤ ((stSwap true).blk.ctxs.filter (fun (e : Nat × Ctx) => e.2.fn == 1 && e.2.resident)).length ∧
    FirstOf (stSwap true).blk doorbellKey (givesSlot (stSwap true).blk 1) 0x40 (belled 1 { ctx1 with resident := true }) := by
  refine ⟨fun r => ⟨?_, ?_, ?_, ?_, ?_, ?_, ?_, first_of ?_⟩, ?_, ?_, first_of ?_⟩
  all_goals first
    | decide +kernel
    | revert r; decide +kernel

/-- A segment of those bundles. -/
def segOf (l : List (BitVec 128)) : Segment := ⟨[], l, 0, 0, 0, 0⟩

/-- A step whose trick runs on core 0, whose sequencer stands before its first bundle. -/
def stCore (core : Core) : State := b1 stPlan (fun b => { modDealer b (fun d => { d with
  steps := [{ step1 .admitted with unit := some 0 }], running := [⟨0, 0, 0, 0x40, 0, .trick, List.replicate 16 0, [], []⟩] }) with
  cores := [(0, { core with active := some (segOf [0]), seq := ⟨true, 2048, 0, 0, []⟩ })] })

theorem witness_SwapInsAndTheTrickWindow_window :
    let b := (b1 (stCore Core.reset) (fun b => { b with
      boot := { b.boot with engines := [⟨1, 0, 1, 768, 256, 8, 10, [], []⟩] }
      dealer := { b.dealer with running := b.dealer.running ++ [⟨0, 768, 0, 0x40, 0, .trick, [], [], []⟩] } })).blk
    alive b = true ∧ ticking b = true ∧ b.tb.boundaryDone = true ∧ b.tb.round ≠ 9999 ∧ b.tb.tick ≤ 2048 ∧ b.recov.faultTick = none ∧
    (∃ r ∈ b.dealer.running, r.kind = .trick ∧ 0 ∈ unitCores r.base r.order) ∧ (∃ r ∈ b.dealer.running, 768 ≤ r.base) := by
  and_intros <;> decide +kernel

theorem witness_PlacementKeepsUnitsApart :
    alive (stCore Core.reset).blk = true ∧ ticking (stCore Core.reset).blk = true ∧ (stCore Core.reset).blk.tb.boundaryDone = true ∧
    (stCore Core.reset).blk.recov.faultTick = none ∧ tabRising (stCore Core.reset).blk.parts = true ∧
    HeldApart (stCore Core.reset).blk ∧ UnitsAligned (stCore Core.reset).blk ∧
    (∃ x ∈ (stCore Core.reset).blk.dealer.steps, x.stage = .admitted) := by
  refine ⟨?_, ?_, ?_, ?_, ?_, List.pairwise_singleton _ _, ⟨fun _ h => (List.not_mem_nil h).elim, fun x h u p hu hp => ?_⟩,
    ⟨_, List.mem_cons_self, rfl⟩⟩
  all_goals first
    | decide +kernel
    | skip
  obtain rfl := List.mem_singleton.mp h
  obtain rfl : 0 = u := Option.some.inj hu
  exact Nat.zero_mod _

/-- A walked step of the plan with pins on die 0. -/
def stPins (n : Nat) (ops : List MoverOp) : State := b1 stPlan (fun b => modDealer b (fun d => { d with
  cmds := [cmd 0 qG 0x22 (.step 0)], nextCmd := 1
  steps := [{ step1 .walked with
    stageOps := ops, pins := (List.range n).map (fun i => ⟨0, 0x40, 0x10000 + 4096 * i, 12, 1, 4096 * i, false⟩) }] }))

/-- The partition holding 16 entries of die 0 already. -/
def stPinned : State := b1 (stPins 1 []) (fun b => { b with xlat := { b.xlat with l2 := (List.range 16).map (fun i =>
  ⟨1, ⟨0, 0x40, 0x100000 + 4096 * i, 12, 1, 4096 * i, false⟩, 1⟩) } })

/-- The step of a plan with a slot of the base set, which its partition does not have. -/
def stNoBase : State := b1 (stPins 1 []) (fun b => modCtx b 0x40 (fun c => { c with plans :=
  [(0, { plan1 with image := memWriteN (memWriteLE (planImage 0 2) 0x20 2 1) 128 [4] })] }))

theorem witness_PinsAreInstalledWhole :
    (∀ s ∈ [stPins 2 [], stPins 2 [.read (devTile 0x10000000)], stPinned, stPins 17 []], ∃ st c, stepById s.blk 0 = some st ∧
      partAt s.blk st.fn = some part1 ∧ stepPlan s.blk st = some plan1 ∧ ctxAt s.blk st.tag.toNat = some c ∧ alive s.blk = true ∧
      st.stage = .walked ∧ admits s.blk st.fn part1 = true ∧ swapDone s.blk c = true ∧ imgUsesBase plan1.image = false ∧
      pinsHeldBack s.blk st = false ∧ st.stageOps.length ≤ stagingTiles s.blk st.fn ∧ st.rewalk = false ∧
      (∃ k ∈ s.blk.dealer.cmds, k.id = st.cmd) ∧ ∀ x ∈ s.blk.dealer.steps, x.id ≠ st.id → x.cmd ≠ st.cmd) ∧
    (∃ st, stepById (stPins 2 []).blk 0 = some st ∧ (∀ d, d < 17 → pinsNeeded st d ≤ pinShare part1 d) ∧
      pinsFit (stPins 2 []).blk st part1 = true ∧ st.stageOps = []) ∧
    (∃ st, stepById (stPins 2 [.read (devTile 0x10000000)]).blk 0 = some st ∧ st.stageOps ≠ [] ∧
      pinsFit (stPins 2 [.read (devTile 0x10000000)]).blk st part1 = true) ∧
    (∃ st, stepById stPinned.blk 0 = some st ∧ (∀ d, d < 17 → pinsNeeded st d ≤ pinShare part1 d) ∧
      pinsFit stPinned.blk st part1 = false) ∧
    (∃ st, stepById (stPins 17 []).blk 0 = some st ∧ pinShare part1 0 < pinsNeeded st 0) := by
  refine ⟨fun s h => ?_, ⟨_, rfl, ?_⟩, ⟨_, rfl, ?_⟩, ⟨_, rfl, ?_⟩, ⟨_, rfl, ?_⟩⟩
  · simp only [List.mem_cons, List.mem_nil_iff, or_false] at h
    rcases h with rfl | rfl | rfl | rfl <;>
    · refine ⟨_, _, rfl, ?_, ?_, rfl, ?_, ?_, ?_, ?_, ?_, ?_, ?_, ?_, ⟨_, List.mem_cons_self, rfl⟩, ?_⟩
      all_goals decide +kernel
  all_goals decide +kernel

theorem witness_PinsAreInstalledWhole_base :
    ∃ st pl c, stepById stNoBase.blk 0 = some st ∧ partAt stNoBase.blk st.fn = some part1 ∧ stepPlan stNoBase.blk st = some pl ∧
      ctxAt stNoBase.blk st.tag.toNat = some c ∧ st.stage = .walked ∧ admits stNoBase.blk st.fn part1 = true ∧
      swapDone stNoBase.blk c = true ∧ imgUsesBase pl.image = true ∧ baseWaits stNoBase.blk part1 = false ∧
      baseOk stNoBase.blk part1 pl.image = false ∧ st.rewalk = false ∧ (∃ k ∈ stNoBase.blk.dealer.cmds, k.id = st.cmd) ∧
      ∀ x ∈ stNoBase.blk.dealer.steps, x.id ≠ st.id → x.cmd ≠ st.cmd := by
  refine ⟨_, _, _, rfl, ?_, rfl, rfl, ?_⟩ <;> decide +kernel

/-- A descriptor of one product of bytes from lines 0 and 1, with the formats of W and A. -/
def mma1 (w a : BitVec 4) : MmaDesc := ⟨w, a, false, false, 0, 0, 1, ⟨0, 0, 0⟩, 1, 1, ⟨0, 0, 1⟩, 0, 0⟩

/-- Core 0 with bytes 2 and 3 in lines 0 and 1, and a code in line 1 that no T byte has. -/
def coreBytes (w : Byte) : Core := { Core.reset with spad := [(0, 2), (64, w)] }

theorem witness_CoreOperationsChangeTheirCore_issue :
    Issuing (stCore Core.reset).blk 0 ∧ jobOf (.mma 0 (mma1 4 4) 2 true) = some (0, .mma (mma1 4 4) 2 true) := by
  unfold Issuing
  and_intros <;> decide +kernel

/-- A job of core 0 that has read nothing yet. -/
def stJob (op : CoreOp) (c : Core) : State := stCore { c with jobs := [⟨3, op, [], []⟩] }

/-- Rows from 63 on of buffer 2 at line 16, with a stride of one line. -/
def local1 : LocalDesc := ⟨2, 63, 0, true, 4000, 15, ⟨0, 0, 16⟩, 8⟩

theorem witness_CoreOperationsChangeTheirCore_work :
    let s := stJob (.mma (mma1 4 4) 2 true) (coreBytes 3)
    jobAt (coreAt s.blk 0) 3 = some ⟨3, .mma (mma1 4 4) 2 true, [], []⟩ ∧
    fetchBad (.mma (mma1 4 4) 2 true) 1 1 (memReadN (coreAt s.blk 0).spad 64 64) = false ∧
    0 < (jobLine ⟨3, .accExport local1, [], [(0, [5])]⟩ 0).length := by
  and_intros <;> decide +kernel

theorem witness_MmaAccumulatesProducts :
    mmaMode (mma1 4 4).wFmt.toNat (mma1 4 4).aFmt.toNat = some ⟨1, 2, 0, 32, 160, false⟩ ∧ (mma1 4 4).seatGathered = false ∧
    bufState { coreBytes 3 with bufs := [(2, .integer 0)] } 2 = modeState ⟨1, 2, 0, 32, 160, false⟩ ∧
    bufState (coreBytes 3) 2 ≠ modeState ⟨1, 2, 0, 32, 160, false⟩ ∧ ((mmaMode 6 6).any (fun m => m.fp32) = true) ∧
    (let s := stJob (.mma (mma1 0 2) 2 true) (coreBytes 255)
     jobAt (coreAt s.blk 0) 3 = some ⟨3, .mma (mma1 0 2) 2 true, [], []⟩ ∧
      fetchBad (.mma (mma1 0 2) 2 true) 1 1 (memReadN (coreAt s.blk 0).spad 64 64) = true) := by
  and_intros <;> decide +kernel

theorem witness_CoreOperationsChangeTheirCore_rows :
    (∀ x, (tabGetD (Job.mk 3 (.accExport local1) [] []).latch x (zeros 64)).length = 64) ∧
    bufState { Core.reset with bufs := [(2, .fp32)] } local1.buffer.toNat ≠ .notCleared ∧ local1.firstRow.toNat + 0 ≤ 63 := by
  refine ⟨fun _ => rfl, ?_, ?_⟩ <;> decide

theorem witness_DmaOperationsPutTilesInFlight :
    Issuing (stCore Core.reset).blk 0 ∧ (∃ st, coreStep (atBundle (stCore Core.reset).blk 0) 0 = some st) ∧
    (⟨4, 3, 0, 0, 1, 1, 2, 0, ⟨0, 0, 0⟩, 0⟩ : GatherDesc).kind = 3 := by
  unfold Issuing
  refine ⟨?_, ⟨_, rfl⟩, rfl⟩
  decide +kernel

/-- The count a wait of core 0 sees of semaphore 15 in its bundle. -/
def seen15 (u : UnitRun) : Int := semSeen u.semOps (u.sems.getD 15 0) 15 0 2048

theorem witness_ControlMovesTheSequencer :
    Issuing (stCore Core.reset).blk 0 ∧ (∃ u, runAt (atBundle (stCore Core.reset).blk 0) 0 = some u ∧ (0 : Int) ≤ seen15 u ∧ seen15 u < 1) ∧
    (∃ g, (coreAt (atBundle (stCore Core.reset).blk 0) 0).active = some g ∧ g.bundles[0]? = some 0) ∧
    (let errs : List TickErr := [⟨0, 2048, ⟨1, none⟩⟩]
     let a := toTick (workTo 2048 (tickErrs 2048 errs (stCore Core.reset).blk)) 2048
     (coreAt a 0).seq.emptyLeft = 0 ∧ ∃ g, (coreAt a 0).active = some g ∧ g.bundles[(coreAt a 0).seq.pos]? = some 0) ∧
    (let b := modCore (stCore Core.reset).blk 0 (fun c => { c with seq := { c.seq with emptyLeft := 2 } })
     issueDue b 0 = true ∧ (coreAt (atBundle b 0) 0).seq.emptyLeft ≠ 0) := by
  unfold Issuing
  refine ⟨?_, ⟨_, rfl, ?_⟩, ⟨_, rfl, rfl⟩, ⟨?_, _, rfl, ?_⟩, ?_⟩
  all_goals decide +kernel

/-- A corrected word is counted in a diagnostic partition's rounds alone, and a double-bit error is a block fault (R88, R439). -/
theorem test_core_errors :
    let b := (stCore Core.reset).blk
    let d := { b with cal := { b.cal with active := [(b.tb.round % 1000, 1)] }
                      parts := b.parts.map (fun e => (e.1, { e.2 with desc := { e.2.desc with diagnostic := true } })) }
    (coreAt (bundleIssue 0 ⟨3, none⟩ [] b) 0).eccCount = 0 ∧ (coreAt (bundleIssue 0 ⟨3, none⟩ [] d) 0).eccCount = 3 ∧
    (bundleIssue 0 ⟨0, some [0]⟩ [] b).recov.faultTick = some 2048 ∧ spareSlots ⟨0, some [0, 5]⟩ (BitVec.ofNat 128 (2 ^ 128 - 1)) =
      BitVec.ofNat 128 (2 ^ 100 - 2 ^ 24) := by
  and_intros <;> decide +kernel

/-- A transfer of core 0 in flight, its lookups done, ending at tick 2047. -/
def xfer1 (kind : XferKind) (data : List Byte) (seen : Option Seen) : Xfer :=
  ⟨0, kind, 1, 2040, 2045, 2047, .va 0x10000, 0x40, 0x40, 0, data, true, 0x10000000, none, seen, false, (0, 0, 0)⟩

def stXfer (x : Xfer) : State := stCore { Core.reset with inflight := [x] }

theorem stXfer_holds (x : Xfer) : xferAt (stXfer x).blk 0 x.id = some x := by
  have : (coreAt (stXfer x).blk 0).inflight = [x] := rfl
  simp [xferAt, this]

theorem witness_TransfersMoveTilesAndEnd_work :
    (∀ x : Xfer, xferAt (stXfer x).blk 0 x.id = some x ∧ (coreAt (stXfer x).blk 0).engineRan = false) ∧
    (∀ kind data seen, xferReaches (xfer1 kind data seen) = true ∧ (xfer1 kind data seen).fault = none) ∧
    (∀ ok line, (xfer1 .load [] (some ⟨zeros 4096, ok, line⟩)).seen = some ⟨zeros 4096, ok, line⟩) ∧ (zeros 4096).length = 4096 ∧
    (xfer1 .store (zeros 4096) none).data.length = 4096 ∧ (xfer1 (.atomicTile 3) (zeros 4096) none).kind = .atomicTile 3 ∧
    (xfer1 .cas (zeros 16) none).data.length = 16 ∧ (xfer1 .cas (zeros 16) none).pa % 4096 ≤ 4088 := by
  refine ⟨fun x => ⟨stXfer_holds x, rfl⟩, fun _ _ _ => ⟨rfl, rfl⟩, fun _ _ => rfl, List.length_replicate, List.length_replicate, rfl, ?_, ?_⟩
  all_goals decide +kernel

/-- The hypotheses on a transfer that ends next. -/
def EndsNext (s : State) (x y : Xfer) : Prop :=
  let e := lookupsTo (nextBundle s.blk) s.blk
  let b := toTick (runWork ((2 * x.lastTick + 1) * 1024) (lookupsTo x.lastTick s.blk)) x.lastTick
  alive s.blk = true ∧ ticking s.blk = true ∧ s.blk.tb.boundaryDone = true ∧ nextEnd (coreAt e 0) = some x ∧ endDue e 0 x = true ∧
  x.lastTick ≤ 124999 ∧ xferAt b 0 x.id = some y ∧ y.fault = none

theorem witness_TransfersMoveTilesAndEnd_ends :
    (∀ x ∈ [xfer1 .store [9] none, xfer1 .load [] (some ⟨[7], true, none⟩), xfer1 .load [] (some ⟨[7], false, none⟩)],
      EndsNext (stXfer x) x x ∧ x.dst ≠ .dummy) := by
  unfold EndsNext
  decide +kernel

/-- The plan with live maps: tile 0 and buffer 0 of core 0. -/
def planLive : Plan := { plan1 with image := [(0x0E, 2), (0x12, 2), (0x2C, 0x80), (0x89, 16), (4096, 1), (4128, 1)] }

/-- A step that has run a trick on core 0 and is to be saved or filled. -/
def stepRun (k : RunKind) : Step :=
  { step1 .admitted with next := 1, unit := some 0, holdsState := k == .save, spilled := k == .fill, needsFill := k == .fill }

/-- A run of the step on core 0. -/
def stRun (k : RunKind) : State := b1 st1 (fun b => modDealer (modCtx b 0x40 (fun c => { c with plans := [(0, planLive)] })) (fun d => { d with
  steps := [stepRun k]
  running := [⟨0, 0, 0, 0x40, 0, k, List.replicate 16 0, [], []⟩] }))

/-- The same with STATE_SAVE having moved core 0. -/
def stMoved (k : RunKind) : State := b1 (stRun k) (fun b => modDealer b (fun d => { d with running := d.running.map (fun u => { u with moved := [0] }) }))

/-- A plan of one live tile. -/
def planTile : Plan := { plan1 with image := [(0x0E, 2), (0x12, 2), (0x2C, 0x80), (0x89, 16), (4096, 1)] }

def stFarSpill (share : List Nat) : State := b1 (stRun .save) (fun b => {
  modCtx b 0x40 (fun c => { c with spill := 0x40000000000, plans := [(0, planTile)] }) with
  parts := [(1, { part1 with desc := { desc1 with farShare := share } })] })

/-- Tiles that lie apart, by evaluation. -/
theorem apart_of {b : Block} {vf : Nat} {l : List (Nat × List Byte)}
    (h : (l.map (fun e => ipaPlace b vf e.1)).Pairwise (fun x y =>
      x.all (fun p => y.all (fun q => decide (p + 4096 ≤ q ∨ q + 4096 ≤ p))) = true)) : Apart b vf l := by
  refine h.imp fun {x y} hxy p q hx hy => ?_
  subst hx hy
  simpa using hxy

theorem witness_ScrubsSavesAndFills_scrub :
    alive st1.blk = true ∧ ticking st1.blk = true ∧ st1.blk.tb.boundaryDone = true ∧ coreExists st1.blk 15 = true ∧
    st1.blk.tb.round ≠ 9999 ∧ st1.blk.tb.tick ≤ 1023 ∧ 15 / 4 ∉ st1.blk.cal.scrubbing ∧
    (let b := { st1.blk with cal := { st1.blk.cal with scrubbing := [3] } }
     coreExists b 15 = true ∧ 15 / 4 ∈ b.cal.scrubbing) ∧
    (let b := { st1.blk with
       cal := { st1.blk.cal with scrubbing := [192] }, boot := { st1.blk.boot with engines := [⟨1, 0, 1, 768, 256, 8, 10, [], []⟩] } }
     coreExists b 768 = true ∧ 768 / 4 ∈ b.cal.scrubbing) := by
  and_intros <;> decide +kernel

theorem witness_ScrubsSavesAndFills_charge :
    (∃ c, ctxAt (stRun .save).blk 0x40 = some c) ∧ spillTier (stRun .save).blk (step1 .admitted) ≠ tierFar ∧
    (∃ c, ctxAt (stFarSpill [10]).blk 0x40 = some c) ∧ spillTier (stFarSpill [10]).blk (step1 .admitted) = tierFar := by
  refine ⟨⟨_, rfl⟩, ?_, ⟨_, rfl⟩, ?_⟩ <;> decide +kernel

/-- A fill reads its tiles where nothing of them has been written and none is damaged. -/
theorem fillRead_ok {b b1 : Block} {s : Step} {errs : List (Nat × ReadErr)} {parts : List (Nat × List Nat)}
    (h : spillMoves b s parts = (b1, none)) (he : (fillReads errs (fillPlaces b1 s parts) b1).mem.bytes = [])
    (hp : (fillPlaces b1 s parts).all (fun e => let b2 := fillReads errs (fillPlaces b1 s parts) b1
      (tileMeta b2 e.2).check == 0 && !deliversBad b2 e.2) = true) : ∃ r, fillRead b s errs parts = .ok r := by
  have : fillFails (fillReads errs (fillPlaces b1 s parts) b1) (fillPlaces b1 s parts) = none := by
    simp only [fillFails, List.find?_eq_none]
    intro e hm
    have := List.all_eq_true.mp hp e hm
    simp only [Bool.and_eq_true, beq_iff_eq, Bool.not_eq_true'] at this
    simp [tileOk_empty _ _ he this.1 this.2]
  exact ⟨fillReads errs (fillPlaces b1 s parts) b1, by simp [fillRead, h, this]⟩

/-- A fill whose first tile is delivered as failing is a block fault. -/
theorem fillRead_bad {b b1 : Block} {s : Step} {errs : List (Nat × ReadErr)} {parts : List (Nat × List Nat)} {e : Nat × Nat}
    {l : List (Nat × Nat)} (h : spillMoves b s parts = (b1, none)) (hl : fillPlaces b1 s parts = e :: l)
    (hb : deliversBad (fillReads errs (e :: l) b1) e.2 = true) : ∃ f, fillRead b s errs parts = .error f := by
  simp [fillRead, h, hl, fillFails, tileOk_bad _ _ hb]

/-- A firmware trick's run with its step, plan and context. -/
def RunsOf (s : State) (k : RunKind) : Prop :=
  ∃ u st c, runAt s.blk 0 = some u ∧ u.kind = k ∧ runOf s.blk 0 k = some u ∧ coreStep s.blk 0 = some st ∧ stepById s.blk 0 = some st ∧
    stepPlan s.blk st = some planLive ∧ ctxAt s.blk st.tag.toNat = some c ∧ firmwareActs s.blk = true ∧
    c.spill.toNat % 4096 = 0 ∧ spillTilesOf planLive.image u.trick 0 = [0, 256, 257, 258, 259, 260, 261] ∧
    (k = .save → st.holdsState = true) ∧ (k = .fill → st.needsFill = true)

theorem witness_ScrubsSavesAndFills_runs :
    RunsOf (stRun .save) .save ∧ RunsOf (stRun .fill) .fill ∧ (∃ u, runAt (stRun .save).blk 0 = some u ∧ 0 ∉ u.moved) ∧
    (∃ u, runAt (stMoved .save).blk 0 = some u ∧ 0 ∈ u.moved) ∧
    (∀ g : Nat → List Byte, Apart (stRun .save).blk 1
      ([0, 256, 257, 258, 259, 260, 261].map (fun i => (0x20000000 + spillOff 0 i, g i)))) ∧
    (∀ hd : List Byte, ∀ g : Nat → List Byte, Apart (stRun .save).blk 1
      ((0x20000000, hd) :: [0, 256, 257, 258, 259, 260, 261].map (fun i => (0x20000000 + spillOff 0 i, g i)))) := by
  refine ⟨⟨_, _, _, rfl, rfl, rfl, rfl, rfl, rfl, rfl, rfl, ?_⟩, ⟨_, _, _, rfl, rfl, rfl, rfl, rfl, rfl, rfl, rfl, ?_⟩, ⟨_, rfl, ?_⟩,
    ⟨_, rfl, ?_⟩, fun g => apart_of ?_, fun hd g => apart_of ?_⟩
  case refine_5 | refine_6 => simp only [List.map]; decide +kernel
  all_goals decide +kernel

/-- What STATE_SAVE of core 0 moves, and what its save or fill trick. -/
def parts0 : List (Nat × List Nat) := [(0, [0, 256, 257, 258, 259, 260, 261].map (fun i => 0x20000000 + spillOff 0 i))]
def parts1 : List (Nat × List Nat) := [(0, 0x20000000 :: [0, 256, 257, 258, 259, 260, 261].map (fun i => 0x20000000 + spillOff 0 i))]

/-- A far tile meets a share of nothing. -/
theorem countFar_none {b : Block} {vf pa ch : Nat} {p : Part} (t : Nat) (h : regionOf b pa = some (.far ch)) (hp : partAt b vf = some p)
    (hs : p.desc.farShare.getD ch 0 = 0) : (countFar b vf pa t).2 = false := by
  simp only [countFar, h, hp, hs]
  simp

/-- A save to far memory of a partition without a share of it is refused at its first tile. -/
theorem far_save_fails : (spillMoves (toTick (stFarSpill [0]).blk 2048) (stepRun .save) [(0, [0x40000000000 + spillOff 0 0])]).2 ≠ none := by
  have ht : spillTier (toTick (stFarSpill [0]).blk 2048) (stepRun .save) = tierFar := by decide +kernel
  obtain ⟨t, pa, hf, hr⟩ : ∃ t pa, farIssues (toTick (stFarSpill [0]).blk 2048) 1 [(0, [0x40000000000 + spillOff 0 0])] = [(t, 0, pa)] ∧
      regionOf (nextFree (toTick (stFarSpill [0]).blk 2048)) pa = some (.far 0) := ⟨_, 0x200000001000, rfl, by decide +kernel⟩
  have hc := countFar_none (b := nextFree (toTick (stFarSpill [0]).blk 2048)) (vf := 1) t hr (p := { part1 with desc := { desc1 with farShare := [0] } }) rfl rfl
  have hn : (stepRun .save).fn = 1 := rfl
  simp [spillMoves, ht, hn, hf, countMoves, hc]

theorem witness_ScrubsSavesAndFills_moves :
    (∀ p ∈ [parts0, parts1], (spillMoves (toTick (stRun .save).blk 2048) (stepRun .save) p).2 = none) ∧
    (spillMoves (toTick (stFarSpill [0]).blk 2048) (stepRun .save) [(0, [0x40000000000 + spillOff 0 0])]).2 ≠ none ∧
    (∃ u, runAt (stFarSpill [0]).blk 0 = some u ∧ u.kind = .save ∧ spillTilesOf planTile.image u.trick 0 = [0] ∧
      coreStep (stFarSpill [0]).blk 0 = some (stepRun .save) ∧ stepPlan (stFarSpill [0]).blk (stepRun .save) = some planTile) ∧
    (∃ r, fillRead (toTick (stRun .fill).blk 2048) (stepRun .fill) [] parts0 = .ok r) ∧
    (∃ r, fillRead (toTick (stRun .fill).blk 2048) (stepRun .fill) [] parts1 = .ok r) := by
  refine ⟨?_, far_save_fails, ⟨_, rfl, rfl, ?_, rfl, rfl⟩, fillRead_ok rfl ?_ ?_, fillRead_ok rfl ?_ ?_⟩
  all_goals decide +kernel

theorem witness_ScrubsSavesAndFills_tricks :
    spillParts ⟨0, 0, 0, 0x40, 0, .fill, [], [], []⟩ planLive.image 0x20000000 = parts1 ∧
    ∃ a f, ipaPlace (stRun .fill).blk 1 0x20000000 = some a ∧
      fillRead (toTick (stRun .fill).blk 2048) (stepRun .fill) [(a, .uncorrectable)] parts1 = .error f := by
  refine ⟨?_, _, _, rfl, (fillRead_bad rfl rfl ?_).choose_spec⟩
  all_goals decide +kernel

/-- A serve step whose last trick has ended, with a real seat of sequence 3, and a second seat that is a dummy. -/
def stEnded (phase : Nat) : State :=
  let seat := { dummySeat with sequence := 16387, tag := 0x40, valid := true }
  b1 stPlan (fun b => modDealer b (fun d => { d with
    cmds := [cmd 0 qG 0x22 (.step 0)], nextCmd := 1, seqs := [(3, ⟨1, 0x40, .dealt, fields0, none, 0, 0⟩)]
    steps := [{ step1 .ended with phase := phase, deal := some ⟨0, 0, [seat, dummySeat], []⟩ }] }))

theorem witness_CommitsAndRecovery_commit :
    (∀ ph ∈ [0, 3], let b := (stEnded ph).blk
      alive b = true ∧ ticking b = true ∧ b.tb.boundaryDone = true ∧ b.tb.tick ≤ 2047 ∧ b.recov.faultTick = none ∧
      (seqAt b 3).state = .dealt ∧ (seqAt b 3).gen.toNat = 16387 / 2 ^ 14 ∧ (∃ k ∈ b.dealer.cmds, k.id = 0) ∧
      ∃ st d c, stepById b 0 = some st ∧ st.deal = some d ∧ st.stage = .ended ∧ st.lost = false ∧ st.aborted = false ∧ st.phase = ph ∧
        ctxAt b st.tag.toNat = some c ∧ c.state = .live ∧
        ((d.seats.filter (fun x => x.valid)).map (fun x => x.sequence.toNat % 2 ^ 14)).Nodup ∧
        ∃ x ∈ d.seats, x.valid = true ∧ x.sequence.toNat % 2 ^ 14 = 3) := by
  intro ph h
  simp only [List.mem_cons, List.mem_nil_iff, or_false] at h
  rcases h with rfl | rfl <;>
  · refine ⟨?_, ?_, ?_, ?_, ?_, ?_, ?_, ⟨_, List.mem_cons_self, rfl⟩, _, _, _, rfl, rfl, rfl, rfl, rfl, rfl, rfl, ?_, ?_,
      ⟨_, List.mem_cons_self, ?_⟩⟩
    all_goals decide +kernel

/-- A block recovering, with a lost step of a held command. -/
def stRecovering : State :=
  b1 (stPins 2 []) (fun b => modDealer { b with recov := { b.recov with recovering := true } } (fun d => { d with
    steps := d.steps.map (fun x => { x with stage := .ended, lost := true }) }))

/-- The end of a round, the work before it done. -/
def atDrain (b : Block) : Block := toTick (workTo 125000 b) 124999

theorem witness_CommitsAndRecovery_recovery :
    (let b := stRecovering.blk
     alive b = true ∧ b.recov.recovering = true ∧ b.recov.ended = false ∧ (b.dealer.steps.map (fun x => x.cmd)).Nodup ∧
      b.tb.round ≠ 9999 ∧ b.recov.scrubbed = false ∧
      (∀ x ∈ b.dealer.steps, x.lost = true ∧ x.stage = .ended ∧ ∃ k ∈ b.dealer.cmds, k.id = x.cmd)) ∧
    { stRecovering.blk.recov with scrubbed := true }.scrubbed = true ∧ st1.blk.recov.recovering = false ∧
    (let b := (stXfer (xfer1 .load [] none)).blk
     ticking b = true ∧ b.tb.boundaryDone = true ∧ b.tb.round ≠ 9999 ∧
      ∃ r ∈ (atDrain b).dealer.running, ∃ i ∈ unitCores r.base r.order, (coreAt (atDrain b) i).inflight ≠ []) ∧
    (let b := (stCore Core.reset).blk
     ticking b = true ∧ b.tb.boundaryDone = true ∧ b.tb.round ≠ 9999 ∧
      ∀ r ∈ (atDrain b).dealer.running, ∀ i ∈ unitCores r.base r.order, (coreAt (atDrain b) i).inflight = []) ∧
    (let b := { (stCore Core.reset).blk with recov := { Recovery.reset with faultTick := some 7 } }
     (atDrain b).recov.faultTick ≠ none) := by
  refine ⟨?_, rfl, ?_, ⟨?_, ?_, ?_, _, List.mem_cons_self, 0, ?_, ?_⟩, ?_, ?_⟩
  · refine ⟨?_, ?_, ?_, ?_, ?_, ?_, fun x h => ?_⟩
    iterate 6 decide +kernel
    obtain rfl := List.mem_singleton.mp h
    exact ⟨rfl, rfl, _, List.mem_cons_self, rfl⟩
  all_goals first
    | decide +kernel
    | and_intros <;> decide +kernel

/-! ## Meeting the statements: invalidations and faults -/

/-- An outstanding invalidation of round 4, its touching work ended, with what waits for it. -/
def stInval (src : InvSource) (sc : Scope) (f : Block → Block) : State := b1 st1 (fun b => f { b with
  xlat := { b.xlat with invals := [⟨0, src, sc, mkStamp 1 4 0, false, [], 10004⟩], nextInv := 1 } })

/-- A request of the port: its number, kind, function or VF, pages and base page. -/
def portWord (id kind target pages page : Nat) : BitVec 128 :=
  BitVec.ofNat 128 (id * 2 ^ 112 + kind * 2 ^ 110 + target * 2 ^ 103 + pages * 2 ^ 64 + page * 4096)

theorem witness_ZeroingAndInvalidations_areas :
    (let p := { part1 with objects := [(0, ⟨1, .zeroing, 2, 1, 12, 8192, [⟨0, 0x10000000, 8192⟩], 0, 0x40⟩)] }
     let b := (withCmds (b1 st1 (fun b => { b with parts := [(1, p)] })) [cmd 0 qA 0x15 (.memFree 1 0)]).blk
     alive b = true ∧ partAt b 1 = some p ∧ (∃ o, tabGet p.objects 0 = some o ∧ o.state = .zeroing ∧ o.tier ≠ tierHost) ∧
      ∃ c ∈ b.dealer.cmds, c.stage = .memFree 1 0) ∧
    (∃ o, tabGet part1.objects 0 = some o ∧ o.state ≠ .zeroing) ∧
    (let p := { part1 with zeroing := [⟨0x10000000, 4096⟩] }
     partAt (b1 st1 (fun b => { b with parts := [(1, p)] })).blk 1 = some p ∧
      ∃ r ∈ p.zeroing, r.ipa ≠ (areaRange (areaOf p.desc 3)).ipa) ∧
    Reached part1 ⟨0x10000000, 4096⟩ 0x10000000 := by
  refine ⟨⟨?_, ?_, ⟨_, rfl, ?_, ?_⟩, ⟨_, List.mem_cons_self, ?_⟩⟩, ⟨_, rfl, ?_⟩, ⟨?_, ⟨_, List.mem_cons_self, ?_⟩⟩,
    ⟨0, 0, 0x10000000, ?_⟩⟩
  all_goals decide +kernel

theorem witness_ZeroingAndInvalidations_port :
    (portReady st1.blk = true ∧ portRefuses st1.blk (portReq (portWord 5 2 63 1 0)) = true ∧
      portRefuses st1.blk (portReq (portWord 5 2 1 1 0)) = false ∧ portRefuses st1.blk (portReq (portWord 5 1 1 1 0)) = false ∧
      portRefuses st1.blk (portReq (portWord 5 3 1 1 0)) = true) ∧
    portReady State.reset.blk = false := by
  and_intros <;> decide +kernel

/-- The hypotheses on that invalidation. -/
def DueNow (s : State) : Prop :=
  ∃ v, s.blk.xlat.invals.find? (fun y => y.id == 0) = some v ∧ alive s.blk = true ∧ ticking s.blk = true ∧
    s.blk.tb.boundaryDone = true ∧ invalDue s.blk v = true ∧ portFirst s.blk v = true

theorem witness_ZeroingAndInvalidations_completions :
    DueNow (stInval (.port 5) (.whole 1) id) ∧
    (let s := stInval (.unmap 0) (.va 0x40 0x10000 0x12000) (fun b => modDealer b (fun d => { d with
       cmds := [cmd 0 qG 0x11 (.invalidation 0)], nextCmd := 1 }))
     DueNow s ∧ ∃ c ∈ s.blk.dealer.cmds, c.id = 0 ∧ c.stage = .invalidation 0) ∧
    (let s := stInval .stage2 (.ipa 1 0x500000000000 0x500000001000) (fun b => { b with
       xlat := { b.xlat with busy := true, pendingWrite := some (1, 4, ⟨0, 0⟩) } })
     DueNow s ∧ s.blk.xlat.pendingWrite = some (1, 4, ⟨0, 0⟩) ∧ partAt s.blk 1 = some part1) ∧
    (let p := { part1 with objects := [(0, ⟨1, .unmapping 0, 2, 1, 12, 8192, [⟨0, 0x10000000, 8192⟩], 0, 0x40⟩)] }
     let s := stInval (.objectFree 1 0) (.vas [(0x40, 0x10000, 0x12000)]) (fun b => { b with parts := [(1, p)] })
     DueNow s ∧ partAt s.blk 1 = some p ∧ ∃ o, tabGet p.objects 0 = some o ∧ o.state = .unmapping 0 ∧ o.tier ≠ tierHost) ∧
    (let s := stInval (.ctxDestroy 0x40) (.ctx 0x40) (fun b => modDealer b (fun d => { d with
       cmds := [cmd 0 qA 0x71 (.ctxDestroy 0x40 (some 0))], nextCmd := 1 }))
     DueNow s ∧ ∃ c ∈ s.blk.dealer.cmds, c.stage = .ctxDestroy 0x40 (some 0)) ∧
    (let p := { part1 with ending := some (.destroy 0 true) }
     let s := stInval (.partDestroy 1) (.part 1) (fun b => modDealer { b with parts := [(1, p)], ctxs := [] } (fun d => { d with
       cmds := [cmd 0 qM 0x81 .destroying], nextCmd := 1 }))
     DueNow s ∧ partAt s.blk 1 = some p ∧ p.ending = some (.destroy 0 true) ∧ (∃ c ∈ s.blk.dealer.cmds, c.id = 0) ∧
      ∀ c ∈ s.blk.dealer.cmds, c.id = 0 → c.q.fn ≠ 1 ∧ c.stage = .destroying) := by
  unfold DueNow
  refine ⟨⟨_, rfl, ?_⟩, ⟨⟨_, rfl, ?_⟩, _, List.mem_cons_self, ?_⟩, ⟨⟨_, rfl, ?_⟩, ?_⟩, ⟨⟨_, rfl, ?_⟩, ?_, _, rfl, ?_⟩,
    ⟨⟨_, rfl, ?_⟩, _, List.mem_cons_self, ?_⟩, ⟨⟨_, rfl, ?_⟩, ?_, ?_, ⟨_, List.mem_cons_self, ?_⟩, fun c h _ => ?_⟩⟩
  all_goals first
    | (obtain rfl := List.mem_singleton.mp h; decide +kernel)
    | decide +kernel

theorem witness_FaultsFromOutside_fatal :
    alive st1.blk = true ∧ (fnAt st1.blk 1).state ≠ .absent ∧ st1.blk.boot.stage = 8 ∧
    alive (inStage 0 1 0 []).blk = true ∧ (inStage 0 1 0 []).blk.boot.stage ≠ 8 := by
  and_intros <;> decide +kernel

theorem witness_FaultsFromOutside_engine :
    let b := { st1.blk with boot := { st1.blk.boot with engines := [⟨1, 0, 1, 768, 256, 8, 10, [], []⟩] } }
    alive b = true ∧ b.tb.boundaryDone = true ∧ (engineUnit b 768).isSome = true ∧ engineUnit b 769 = none := by
  and_intros <;> decide +kernel

/-- A PART_SAVE of VF1 with part of its image left to write. -/
def stSaving : State := withCmds st1 [cmd 0 qM 0x83 (.saving 1 0x700000 [1, 2] 8192)]

theorem witness_FaultsFromOutside_hostPort :
    alive st1.blk = true ∧ (ctxAt st1.blk 0x40 = some ctx1 ∧ ctx1.state = .live) ∧
    (withLantern (fun l => { l with dumping := true })).blk.lantern.dumping = true ∧
    (mboxAt (handling st1 0 .dl (taken1 4 1 0)).blk 0 .dl).taken = some (taken1 4 1 0) ∧
    (let r := { st1.blk.acct.ring with enable := true, tail := 1 }
     r.enable = true ∧ r.tail ≠ r.head ∧ r.size.toNat ≤ 16) ∧
    (∃ k ∈ stSaving.blk.dealer.cmds, k.stage = .saving 1 0x700000 [1, 2] 8192 ∧
      ∀ z ∈ stSaving.blk.dealer.cmds, z.id = k.id) ∧
    canFetch st1.blk ⟨0, 0, 0⟩ = true := by
  refine ⟨?_, ⟨?_, rfl⟩, ?_, ?_, ?_, ⟨_, List.mem_cons_self, rfl, fun z h => ?_⟩, ?_⟩
  case refine_6 =>
    obtain rfl := List.mem_singleton.mp h
    rfl
  all_goals decide +kernel

/-! ## Meeting the statements: invariants -/

theorem witness_BootOrderKept : BootOrder blk1.boot ∧ BootOrder State.reset.blk.boot ∧ ∃ t, step { st1 with pending := [.resetAssert] } = .next t := by
  refine ⟨?_, ?_, _, rfl⟩ <;>
  · unfold BootOrder
    decide +kernel

theorem witness_ResetHoldsTheBlock : (State.reset.blk.boot.released = false → HeldInReset State.reset.blk) ∧
    (st1.blk.boot.released = false → HeldInReset st1.blk) ∧
    ∃ t, step { State.reset with pending := [.thermSample 1 0 true] } = .next t ∧ t.blk.boot.released = false := by
  refine ⟨fun _ => ⟨rfl, rfl, rfl, rfl, rfl, rfl, rfl, rfl, rfl, rfl, rfl, rfl, rfl, fun _ h => (List.not_mem_nil h).elim, rfl⟩,
    fun h => absurd h (by decide +kernel), _, rfl, ?_⟩
  decide +kernel

theorem witness_MemoriesStayCanonical : Safety.memoriesWf (stImport 0 0).blk ∧ ¬ Memory.wf [(5, 1), (4, 1)] ∧ ¬ Memory.wf [(4, 0)] ∧
    ∃ t, step { stImport 0 0 with pending := [.memFill qG (hd 0x40) 0x10000 0x1000 1] } = .next t := by
  refine ⟨?_, ?_, ?_, _, rfl⟩
  · unfold Safety.memoriesWf
    decide +kernel
  all_goals decide +kernel

/-! ## Single steps with results that the spec gives -/

/-- Something of the block after a command, where it answers a next state. -/
def after {α : Type} (i : Instr) (s : State) (f : Block → α) : Option α :=
  match exec i s with
  | .next t => some (f t.blk)
  | _ => none

/-- The status of the one command of a block. -/
def statusOf (b : Block) : Option (BitVec 16) :=
  match b.dealer.cmds with
  | [c] => match c.stage with
    | .done st _ => some st
    | _ => none
  | _ => none

/-- Record 7 of the context of tag 0x40 holding a value, as R270's table wants it. -/
def stFence (v : Nat) : State := withHost st1 (memWriteLE [] (hostAt 1 0x300038) 8 v)

def signalled (v n : Nat) : Option (Nat × Option (BitVec 16)) :=
  after (.fenceSignal qG (hd 0x40) 7 (BitVec.ofNat 64 n)) (stFence v) (fun b => (hostLE b (hostAt 1 0x300038) 8, statusOf b))

/-- R270's four rows, and the worked example of the signal of 11 that finds 12. -/
theorem test_fence_record : signalled 0 10 = some (10, some 0) ∧ signalled 10 10 = some (10, some 0) ∧
    signalled 12 11 = some (0x800000000000000C, some 0x0040) ∧
    signalled 0x7FFFFFFFFFFFFFFF 0x7FFFFFFFFFFFFFFF = some (0xFFFFFFFFFFFFFFFF, some 0x0040) := by
  and_intros <;> decide +kernel

/-- R246: a value of 2^63 or more is refused. -/
theorem test_fence_value : (after (.fenceSignal qG (hd 0x40) 7 (2 ^ 63)) st1 statusOf) = some (some 0x0002) := by decide +kernel

/-- R463: the IDCODE of block revision 1.4. -/
theorem test_jtag_idcode : after (.jtagInstruction .idcode) st1 (fun b => b.out) = some [.tdo 0x1A712C4D] := by decide +kernel

/-- R12, R159: a 32-bit read latches bits 63 to 32 of epoch 3, round 4, tick 5. -/
theorem test_now_latch :
    after .tbNowLatch (withTb st1 (fun x => { x with epoch := 3, round := 0x3001, tick := 5 })) (fun b => b.tb.nowLatch) = some 1 := by
  decide +kernel

/-- The table gives no row bits, so no word spells a command. -/
theorem test_no_word_is_a_command : decodeTableWord 32 0 = none ∧ (st1.withFetchWord 32 0).pending = st1.pending := by
  and_intros <;> decide +kernel

/-- R36: every code of F4, times two. -/
theorem test_f4_codes : (List.range 16).map (codeInt 3) = [0, 1, 2, 3, 4, 6, 8, 12, 0, -1, -2, -3, -4, -6, -8, -12] := by decide +kernel

/-- The worked example of the Chert projection: weights 3, -2, 7, -8, 1 in I4 and activations in F8 give 3,968 in mode I4 × F8. -/
def coreChert : Core := { Core.reset with
  spad := [(0, 0x4B), (1, 0xBA), (2, 0x34), (3, 0x40), (4, 0xB0), (64, 0xE3), (65, 0x87), (66, 0x01)] }

theorem test_mma_worked_example :
    after (.mma 0 { mma1 2 5 with k := 5 } 2 true) (stCore coreChert) (fun b => accAt (coreAt (workTo 125000 b) 0) 2 0 0) = some 3968 := by
  decide +kernel

/-- The same accumulator scaled: w_scale 0.375, a_scale 0x3E99999A, bias -1.0 give 0xBE033331, or 0xBE03 in BF16. -/
def coreScaled : Core := { coreChert with
  acc := [(2 * 4096, 3968)], bufs := [(2, .integer 9)], sregChannel := [(0, 0x3EC00000), (1, 0xBF800000)], sregRow := [(0, 0x3E99999A)] }

theorem test_scale_worked_example :
    after (.scale 0 ⟨true, false, false, 0, 0, 2, 0, 0, 1, 0, 0, 1, ⟨0, 0, 8⟩⟩) (stCore coreScaled)
      (fun b => memReadLE (coreAt (workTo 125000 b) 0).spad 512 4) = some 0xBE033331 ∧
    after (.scale 0 ⟨true, false, true, 0, 0, 2, 0, 0, 1, 0, 0, 1, ⟨0, 0, 8⟩⟩) (stCore coreScaled)
      (fun b => memReadLE (coreAt (workTo 125000 b) 0).spad 512 2) = some 0xBE03 := by
  and_intros <;> decide +kernel

/-- R154: with its die throttled, VF5's 5,000 rounds are 2,500, and VF3's 4,990 are 2,495. -/
theorem test_throttled_rounds : ((List.range 5000).filter (fun n => !skipRound n)).length = 2500 := by decide +kernel

theorem test_throttled_rounds_second : ((rangeFrom 5000 4990).filter (fun n => !skipRound n)).length = 2495 := by decide +kernel

/-- R142: LOCKED without any edge ends in HOLDOVER with trim length 187,500; an early edge in SLEWING with 62,500. -/
theorem test_trim_end :
    after .trimRoundEnd (withTb st1 (fun x => { x with round := 9999 })) (fun b => (b.tb.pps, b.tb.lastTrim.toNat, b.tb.epoch)) =
      some (.holdover, 187500, 2) ∧
    after .trimRoundEnd (withTb st1 (fun x => { x with round := 9999, earlySeen := true })) (fun b => (b.tb.pps, b.tb.lastTrim.toNat)) =
      some (.slewing, 62500) := by
  and_intros <;> decide +kernel

/-- R233: a doorbell sets the tail its index gives; R234: one that names an absent SQ is dropped with its reason. -/
theorem test_sq_doorbell :
    after (.sqDoorbell 1 64 (bell 0x40 0 9)) st1 (fun b => (sqOf b qG).map (fun x => x.tail)) = some (some 9) ∧
    after (.sqDoorbell 1 64 (bell 0x40 3 9)) st1 (fun b => (fnAt b 1).dbError.getLsbD 63) = some true := by
  and_intros <;> decide +kernel

/-- R399: ECHO answers its payload. -/
theorem test_echo :
    after (.echo 1) (handling st1 1 .dl { taken1 4 1 3 with message := zeros 16 ++ [7, 8, 9] })
      (fun b => (hostRead b 0x600010 3, hostLE b 0x60000C 4, (mboxAt b 1 .dl).full)) = some ([7, 8, 9], 3, false) := by
  decide +kernel

/-- R183 and R102: SCRUB leaves a core's scratchpad, accumulators and their states zero. -/
theorem test_scrub :
    after (.scrub 0) (b1 st1 (fun b => { b with cores := [(0, coreScaled)], cal := { b.cal with scrubbing := [0] } }))
      (fun b => ((coreAt b 0).spad.length, (coreAt b 0).acc.length, (coreAt b 0).bufs.length, sregRowAt (coreAt b 0) 0)) =
      some (0, 0, 0, 0x3E99999A) := by
  decide +kernel

end Sys2Proof.Tests
end

section
/-!
SUPPORT. What the work of a round leaves alone: the time base but for its tick, and the levels of THERM_ALERT_N. Nothing the cores do,
no block fault and no run that begins or ends writes them; the opening of a round and the samples of its last tick do.
-/

namespace Sys2Proof.Machine
open Sys2Proof

/-- The time base but for the tick it stands in, and the levels of THERM_ALERT_N. -/
def clockOf (b : Block) : TimeBase × BitVec 12 := ({ b.tb with tick := 0 }, b.pins.therm)

/-- Blocks of one clock have one time base but for its tick. -/
theorem tb_of_clock {b c : Block} (h : clockOf c = clockOf b) : c.tb = { b.tb with tick := c.tb.tick } := by
  have ht : ({ c.tb with tick := 0 } : TimeBase) = { b.tb with tick := 0 } := congrArg Prod.fst h
  exact congrArg (fun k : TimeBase => { k with tick := c.tb.tick }) ht

theorem therm_of_clock {b c : Block} (h : clockOf c = clockOf b) : c.pins.therm = b.pins.therm := congrArg Prod.snd h

/-- What each step of a fold keeps, the fold keeps. -/
theorem foldl_keeps {α β : Type} (p : Block → β) {f : Block → α → Block} (h : ∀ c x, p (f c x) = p c) (l : List α) (b : Block) :
    p (l.foldl f b) = p b := by
  induction l generalizing b with
  | nil => rfl
  | cons x xs ih => exact (ih (f b x)).trans (h b x)

@[simp] theorem foldl_clock {α : Type} {f : Block → α → Block} (h : ∀ c x, clockOf (f c x) = clockOf c) (l : List α) (b : Block) :
    clockOf (l.foldl f b) = clockOf b := foldl_keeps clockOf h l b

/-! ### The updates of a state field -/

@[simp] theorem toTick_clock (b : Block) (t : Nat) : clockOf (toTick b t) = clockOf b := rfl
@[simp] theorem setFn_clock (b : Block) (f : Nat) (x : Fn) : clockOf (setFn b f x) = clockOf b := rfl
@[simp] theorem setCtx_clock (b : Block) (t : Nat) (c : Ctx) : clockOf (setCtx b t c) = clockOf b := rfl
@[simp] theorem modCtx_clock (b : Block) (t : Nat) (g : Ctx → Ctx) : clockOf (modCtx b t g) = clockOf b := rfl
@[simp] theorem modPart_clock (b : Block) (v : Nat) (g : Part → Part) : clockOf (modPart b v g) = clockOf b := rfl
@[simp] theorem modCore_clock (b : Block) (i : Nat) (g : Core → Core) : clockOf (modCore b i g) = clockOf b := rfl
@[simp] theorem modDealer_clock (b : Block) (g : Dealer → Dealer) : clockOf (modDealer b g) = clockOf b := rfl
@[simp] theorem modStep_clock (b : Block) (id : Nat) (g : Step → Step) : clockOf (modStep b id g) = clockOf b := rfl
@[simp] theorem setSeq_clock (b : Block) (i : Nat) (q : Seq) : clockOf (setSeq b i q) = clockOf b := rfl
@[simp] theorem finish_clock (b : Block) (id : Nat) (st : BitVec 16) (d : BitVec 32) : clockOf (finish b id st d) = clockOf b := rfl
@[simp] theorem finishAll_clock (b : Block) (p : Cmd → Bool) (st : BitVec 16) (d : BitVec 32) :
    clockOf (finishAll b p st d) = clockOf b := rfl
@[simp] theorem noteLoads_clock (b : Block) (p : Cmd → Bool) : clockOf (noteLoads b p) = clockOf b := rfl
@[simp] theorem eraseKeys_clock (b : Block) : clockOf (eraseKeys b) = clockOf b := rfl
@[simp] theorem modMem_clock (b : Block) (g : Mem → Mem) : clockOf (modMem b g) = clockOf b := rfl
@[simp] theorem modLantern_clock (b : Block) (g : Lantern → Lantern) : clockOf (modLantern b g) = clockOf b := rfl
@[simp] theorem setFaultRing_clock (b : Block) (r : AcRing) : clockOf (setFaultRing b r) = clockOf b := rfl
@[simp] theorem hostWrite_clock (b : Block) (k : Nat) (bs : List Byte) : clockOf (hostWrite b k bs) = clockOf b := rfl
@[simp] theorem offer_clock (b : Block) (m : PortOut) : clockOf (offer b m) = clockOf b := rfl
@[simp] theorem nextFree_clock (b : Block) : clockOf (nextFree b) = clockOf b := rfl

theorem clockOf_acct (b : Block) (x : Acct) : clockOf { b with acct := x } = clockOf b := rfl
theorem clockOf_recov (b : Block) (x : Recovery) : clockOf { b with recov := x } = clockOf b := rfl
theorem clockOf_parts (b : Block) (x : Tab Part) : clockOf { b with parts := x } = clockOf b := rfl
theorem clockOf_cal (b : Block) (x : Calendar) : clockOf { b with cal := x } = clockOf b := rfl

/-! ### Memory and Lantern's records -/

@[simp] theorem cachePut_clock (b : Block) (pa : Nat) (failing : Bool) : clockOf (cachePut b pa failing) = clockOf b := by
  unfold cachePut; split <;> rfl

@[simp] theorem cacheFill_clock (b : Block) (pa : Nat) : clockOf (cacheFill b pa) = clockOf b := by
  unfold cacheFill; split <;> simp

@[simp] theorem writeTile_clock (b : Block) (pa : Nat) (z : Bool) (t : List Byte) : clockOf (writeTile b pa z t) = clockOf b := by
  simp [writeTile, writeTileErr, cacheWrite]

@[simp] theorem writePhys_clock (b : Block) (pa : Nat) (bs : List Byte) : clockOf (writePhys b pa bs) = clockOf b := by
  simp [writePhys, writePart, cacheWrite]

@[simp] theorem ltEvent_clock (t event core : Nat) (tag : BitVec 16) (detail : List Byte) (b : Block) :
    clockOf (ltEvent t event core tag detail b) = clockOf b := by
  unfold ltEvent
  dsimp only
  split
  · rfl
  · split <;> simp [ltWrite]

/-! ### Block faults -/

@[simp] theorem setCause_clock (b : Block) (fn bitNo : Nat) : clockOf (setCause b fn bitNo) = clockOf b := by
  unfold setCause msix
  dsimp only
  split
  · split <;> simp
  · simp

@[simp] theorem putRecent_clock (b : Block) (l : List FaultRec) (first kept : Nat) :
    clockOf (putRecent b l first kept) = clockOf b := by
  unfold putRecent putFault
  exact foldl_clock (fun c e => hostWrite_clock ..) _ _

@[simp] theorem faultRecord_clock (b : Block) (r : FaultRec) : clockOf (faultRecord b r) = clockOf b := by
  unfold faultRecord
  dsimp only
  split
  · simp
  · split <;> simp

@[simp] theorem seatLeave_clock (b : Block) (s : Seat) : clockOf (seatLeave b s) = clockOf b := by
  unfold seatLeave seqFree
  dsimp only
  split
  · split <;> simp
  · rfl

@[simp] theorem dropDeal_clock (b : Block) (d : Deal) : clockOf (dropDeal b d) = clockOf b := by simp [dropDeal]

@[simp] theorem stepGiveBack_clock (b : Block) (s : Step) : clockOf (stepGiveBack b s) = clockOf b := by
  unfold stepGiveBack releaseHeld
  (repeat' split) <;> simp

@[simp] theorem endStep_clock (b : Block) (s : Step) (st : BitVec 16) (d : BitVec 32) : clockOf (endStep b s st d) = clockOf b := by
  unfold endStep
  dsimp only
  split <;> simp

@[simp] theorem loseCtx_clock (b : Block) (tag : Nat) (st : BitVec 16) : clockOf (loseCtx b tag st) = clockOf b := by
  unfold loseCtx dropPendingSteps
  split
  · rfl
  · dsimp only
    split <;> simp

@[simp] theorem abandonWalk_clock (b : Block) (s : Step) : clockOf (abandonWalk b s) = clockOf b := by
  unfold abandonWalk restoreHeld
  dsimp only
  split <;> simp

@[simp] theorem countFault_clock (b : Block) (vf : Nat) : clockOf (countFault b vf) = clockOf b := by
  unfold countFault abandonWalks
  split
  · rfl
  · dsimp only
    split <;> simp

@[simp] theorem blockFault_clock (b : Block) (r : FaultRec) : clockOf (blockFault b r) = clockOf b := by
  unfold blockFault
  dsimp only
  split <;> simp [↓clockOf_recov, ↓clockOf_acct]

@[simp] theorem raise_clock (b : Block) (core kind reason : Nat) (st tag : BitVec 16) (address : Nat) (write : Bool) :
    clockOf (raise b core kind reason st tag address write) = clockOf b := by
  simp [raise, coreFault]

/-! ### What the cores do in a round -/

@[simp] theorem setXfer_clock (b : Block) (core : Nat) (x : Xfer) : clockOf (setXfer b core x) = clockOf b := rfl

@[simp] theorem dropXfer_clock (b : Block) (core : Nat) (x : Xfer) : clockOf (dropXfer b core x) = clockOf b := rfl

@[simp] theorem lookup_clock (b : Block) (core : Nat) (tag : BitVec 16) (va : Nat) :
    clockOf (lookup b core tag va).1 = clockOf b := by
  unfold lookup
  (repeat' split) <;> simp

@[simp] theorem countFar_clock (b : Block) (vf pa t : Nat) : clockOf (countFar b vf pa t).1 = clockOf b := by
  unfold countFar
  split <;> simp

@[simp] theorem placeXfer_clock (b : Block) (core : Nat) (x : Xfer) (pa : Nat) : clockOf (placeXfer b core x pa) = clockOf b := by
  unfold placeXfer failXfer
  dsimp only
  split
  · simp
  · split
    · split <;> simp
    · simp

@[simp] theorem issueXfer_clock (b : Block) (e : Nat × Xfer) : clockOf (issueXfer b e) = clockOf b := by
  unfold issueXfer failXfer
  dsimp only
  split
  · simp
  · split <;> simp
  · split <;> simp

@[simp] theorem lookupsTo_clock (t : Nat) (b : Block) : clockOf (lookupsTo t b) = clockOf b := by simp [lookupsTo]

@[simp] theorem putLines_clock (b : Block) (core line : Nat) (bs : List Byte) : clockOf (putLines b core line bs) = clockOf b := by
  unfold putLines
  dsimp only
  split <;> simp

@[simp] theorem takeLines_clock (b : Block) (core line n : Nat) : clockOf (takeLines b core line n).1 = clockOf b := by
  unfold takeLines
  dsimp only
  split <;> split <;> simp

@[simp] theorem putTarget_clock (b : Block) (x : Xfer) (off : Nat) (bs : List Byte) : clockOf (putTarget b x off bs) = clockOf b := by
  simp [putTarget]

@[simp] theorem takeAct_clock (b : Block) (core id q : Nat) : clockOf (takeAct b core id q) = clockOf b := by
  unfold takeAct
  split
  · rfl
  · dsimp only
    split <;> simp

@[simp] theorem readAct_clock (b : Block) (core id : Nat) : clockOf (readAct b core id) = clockOf b := by
  unfold readAct
  split
  · rfl
  · split <;> simp

@[simp] theorem landAct_clock (b : Block) (core id q : Nat) : clockOf (landAct b core id q) = clockOf b := by
  unfold landAct
  (repeat' split) <;> simp

@[simp] theorem writeAct_clock (b : Block) (core id : Nat) : clockOf (writeAct b core id) = clockOf b := by
  unfold writeAct
  split
  · rfl
  · split <;> simp

@[simp] theorem applyAct_clock (b : Block) (core id q : Nat) : clockOf (applyAct b core id q) = clockOf b := by
  unfold applyAct
  dsimp only
  (repeat' split) <;> simp

@[simp] theorem fetchAct_clock (b : Block) (core id key line mask : Nat) :
    clockOf (fetchAct b core id key line mask) = clockOf b := by
  unfold fetchAct
  dsimp only
  split
  · rfl
  · split <;> simp

@[simp] theorem makeAct_clock (b : Block) (core id part : Nat) : clockOf (makeAct b core id part) = clockOf b := by
  unfold makeAct
  dsimp only
  split
  · rfl
  · split <;> simp

@[simp] theorem doWork_clock (b : Block) (e : Nat × Work) : clockOf (doWork b e) = clockOf b := by
  unfold doWork doAct
  split <;> simp

@[simp] theorem workTo_clock (t : Nat) (b : Block) : clockOf (workTo t b) = clockOf b := by
  unfold workTo runWork
  exact (foldl_clock doWork_clock _ _).trans (lookupsTo_clock t b)

@[simp] theorem coreErr_clock (core : Nat) (err : CoreErr) (b : Block) : clockOf (coreErr core err b) = clockOf b := by
  unfold coreErr
  dsimp only
  split <;> split <;> simp

@[simp] theorem tickErrs_clock (t : Nat) (errs : List TickErr) (b : Block) : clockOf (tickErrs t errs b) = clockOf b := by
  simp [tickErrs]

/-! ### The end and the start of a round -/

@[simp] theorem runEnds_clock (b : Block) (u : UnitRun) : clockOf (runEnds b u) = clockOf b := by
  unfold runEnds
  split
  · rfl
  · split <;> simp

@[simp] theorem setDiags_clock (b : Block) : clockOf (setDiags b) = clockOf b := by
  unfold setDiags
  exact (foldl_clock (fun c _ => foldl_clock (fun d i => modCore_clock d i _) _ c) _ _).trans rfl

@[simp] theorem endRound_clock (b : Block) : clockOf (endRound b) = clockOf b :=
  (foldl_clock runEnds_clock _ _).trans (setDiags_clock b)

@[simp] theorem freezeDone_clock (b : Block) : clockOf (freezeDone b) = clockOf b := rfl

@[simp] theorem scrubQuads_clock (b : Block) (p : Nat → Bool) : clockOf (scrubQuads b p) = clockOf b :=
  (foldl_clock (fun c u => offer_clock c (.engineScrub u)) _ _).trans rfl

@[simp] theorem scrubAll_clock (keep : Bool) (b : Block) : clockOf (scrubAll keep b) = clockOf b :=
  (foldl_clock (fun c u => offer_clock c (.engineScrub u)) _ _).trans rfl

@[simp] theorem clearCalendars_clock (b : Block) : clockOf (clearCalendars b) = clockOf b := by
  unfold clearCalendars
  refine foldl_clock (fun c e => ?_) _ _
  dsimp only
  split <;> simp [↓clockOf_cal]

@[simp] theorem ownerScrub_clock (b : Block) : clockOf (ownerScrub b) = clockOf b := by
  simp [ownerScrub, ↓clockOf_cal]

@[simp] theorem changeoverScrubs_clock (recovered : Bool) (b : Block) : clockOf (changeoverScrubs recovered b) = clockOf b := by
  unfold changeoverScrubs
  split <;> simp

@[simp] theorem addCharge_clock (b : Block) (tag ticks nj : Nat) : clockOf (addCharge b tag ticks nj) = clockOf b := rfl

@[simp] theorem chargeStep_clock (b : Block) (s : Step) (ticks nj : Nat) : clockOf (chargeStep b s ticks nj) = clockOf b := by
  unfold chargeStep
  split
  · rfl
  · exact (addCharge_clock ..).trans (foldl_clock (fun c (t : BitVec 16) => addCharge_clock c t.toNat _ _) _ b)

@[simp] theorem chargeSpill_clock (b : Block) (s : Step) (u : UnitRun) (m : ByteMem) : clockOf (chargeSpill b s u m) = clockOf b := by
  unfold chargeSpill
  rw [addCharge_clock]
  exact List.foldlRecOn (motive := fun a : Block × Nat => clockOf a.1 = clockOf b) _ _ rfl (fun _ ih _ _ => ih)

@[simp] theorem runBegins_clock (b : Block) (u : UnitRun) : clockOf (runBegins b u) = clockOf b := by
  have hcores : ∀ (g : Nat → Core → Core) (c : Block),
      clockOf ((unitCores u.base u.order).foldl (fun d i => modCore d i (g i)) c) = clockOf c :=
    fun g c => foldl_clock (fun d i => modCore_clock d i (g i)) _ c
  unfold runBegins
  split
  · rfl
  · split
    · rfl
    · dsimp only
      split
      · exact (chargeStep_clock ..).trans ((hcores _ _).trans (hcores _ b))
      · exact (chargeSpill_clock ..).trans (hcores _ b)

@[simp] theorem beginRuns_clock (b : Block) : clockOf (beginRuns b) = clockOf b := by simp [beginRuns]

@[simp] theorem samplePresence_clock (b : Block) (presence cable : Bool) : clockOf (samplePresence b presence cable) = clockOf b := rfl

@[simp] theorem finishUnlock_clock (b : Block) : clockOf (finishUnlock b) = clockOf b := by
  unfold finishUnlock
  split
  · rfl
  · split <;> rfl

@[simp] theorem readTemps_clock (b : Block) (temps : List Nat) : clockOf (readTemps b temps) = clockOf b := rfl

end Sys2Proof.Machine
end

section
/-!
PROOF. The skips of throttled dies (R153, R154): which units skip a round, and that no run begins on one of them.
-/

namespace Sys2Proof.Machine
open Sys2Proof

/-! ## The skips of throttled dies (R154) -/

theorem mem_rangeFrom (first n x : Nat) : x ∈ rangeFrom first n ↔ first ≤ x ∧ x < first + n := by
  simp only [rangeFrom, List.mem_map, List.mem_range]
  constructor
  · rintro ⟨i, hi, rfl⟩
    omega
  · intro h
    exact ⟨x - first, by omega, by omega⟩

/-- The cores of an aligned unit lie on its dies, and every die of it holds one of them. -/
theorem mem_unitDies {base order : Nat} (ho : order ≤ 4) (hb : base % 4 ^ order = 0) (d : Nat) :
    d ∈ unitDies base order ↔ ∃ x ∈ unitCores base order, x / 64 = d := by
  have ho : order = 0 ∨ order = 1 ∨ order = 2 ∨ order = 3 ∨ order = 4 := by omega
  have hn : (if order = 4 then 4 else 1) = (4 ^ order + 63) / 64 := by
    rcases ho with rfl | rfl | rfl | rfl | rfl <;> rfl
  simp only [unitDies, unitCores, mem_rangeFrom, hn]
  constructor
  · intro h
    refine ⟨max base (64 * d), ?_⟩
    rcases ho with rfl | rfl | rfl | rfl | rfl <;> omega
  · rintro ⟨x, hx, rfl⟩
    rcases ho with rfl | rfl | rfl | rfl | rfl <;> omega

theorem unitSkipped_iff (b : Block) {base order : Nat} (ho : order ≤ 4) (hb : base % 4 ^ order = 0) :
    unitSkipped b base order = true ↔
      ((b.tb.round + b.tb.round / 1000) % 2 = 1 ∧
        ∃ d, d < 12 ∧ b.tb.throttled.getLsbD d = true ∧ ∃ x ∈ unitCores base order, x / 64 = d) := by
  simp only [unitSkipped, skipRound, Bool.and_eq_true, beq_iff_eq, List.any_eq_true, decide_eq_true_eq, mem_unitDies ho hb]
  constructor
  · rintro ⟨hodd, d, hd, hlt, hth⟩
    exact ⟨hodd, d, hlt, hth, hd⟩
  · rintro ⟨hodd, d, hlt, hth, hd⟩
    exact ⟨hodd, d, hd, hlt, hth⟩

/-- Skips are a matter of the round and of the throttled dies alone. -/
theorem unitSkipped_of_clock {b c : Block} (h : clockOf c = clockOf b) (base order : Nat) :
    unitSkipped c base order = unitSkipped b base order := by
  unfold unitSkipped
  rw [tb_of_clock h]

/-! ## The units that run in a round -/

/-- The units of the running tricks. -/
def unitsRun (b : Block) : List (Nat × Nat) := b.dealer.running.map (fun r => (r.base, r.order))

theorem modCores_dealer (l : List Nat) (g : Nat → Core → Core) (b : Block) :
    (l.foldl (fun c i => modCore c i (g i)) b).dealer = b.dealer :=
  foldl_keeps Block.dealer (fun c i => modCore_dealer c i (g i)) l b

theorem chargeStep_dealer (b : Block) (s : Step) (ticks nj : Nat) : (chargeStep b s ticks nj).dealer = b.dealer := by
  unfold chargeStep
  split
  · rfl
  · exact foldl_keeps Block.dealer (fun c (t : BitVec 16) => modCtx_dealer c t.toNat _) _ b

theorem chargeSpill_dealer (b : Block) (s : Step) (u : UnitRun) (m : ByteMem) : (chargeSpill b s u m).dealer = b.dealer := by
  unfold chargeSpill
  exact List.foldlRecOn (motive := fun a : Block × Nat => a.1.dealer = b.dealer) _ _ rfl (fun _ ih _ _ => ih)

/-- A run that begins takes its step's semaphores; the units that run stay the same. -/
theorem runBegins_unitsRun (b : Block) (u : UnitRun) : unitsRun (runBegins b u) = unitsRun b := by
  have hsems : ∀ (c : Block) (s : Step), unitsRun (runTakesSems c u s) = unitsRun c := by
    intro c s
    simp only [unitsRun, runTakesSems, modDealer_dealer, List.map_map]
    refine List.map_congr_left (fun r _ => ?_)
    simp only [Function.comp_apply]
    split <;> rfl
  have hkeep : ∀ {c d : Block}, d.dealer = c.dealer → unitsRun d = unitsRun c := fun h => by simp only [unitsRun, h]
  unfold runBegins
  split
  · rfl
  · split
    · rfl
    · dsimp only
      split
      · exact (hkeep (chargeStep_dealer ..)).trans ((hsems _ _).trans (hkeep ((modCores_dealer _ _ _).trans (modCores_dealer _ _ b))))
      · exact Eq.trans (b := unitsRun (chargeSpill _ _ _ _)) rfl (hkeep ((chargeSpill_dealer ..).trans (modCores_dealer _ _ b)))

theorem beginRuns_unskipped (b : Block) (e : Nat × Nat) (he : e ∈ unitsRun (beginRuns b)) : unitSkipped b e.1 e.2 = false := by
  unfold beginRuns at he
  rw [foldl_keeps unitsRun runBegins_unitsRun] at he
  simp only [unitsRun, modDealer_dealer, List.mem_map, List.mem_filter] at he
  obtain ⟨r, ⟨-, hr⟩, rfl⟩ := he
  simpa using hr

/-! ## The throttling of a round (R153, R154) -/

theorem unitsRun_parts (b : Block) (x : Tab Part) : unitsRun { b with parts := x } = unitsRun b := rfl
theorem readTemps_unitsRun (b : Block) (temps : List Nat) : unitsRun (readTemps b temps) = unitsRun b := rfl
theorem samplePresence_unitsRun (b : Block) (presence cable : Bool) : unitsRun (samplePresence b presence cable) = unitsRun b := rfl

theorem finishUnlock_unitsRun (b : Block) : unitsRun (finishUnlock b) = unitsRun b := by
  unfold finishUnlock
  split
  · rfl
  · split <;> rfl

theorem beginRound_clock (b : Block) (presence cable : Bool) (temps : List Nat) :
    clockOf (beginRound b presence cable temps) = clockOf (openRound b) := by
  unfold beginRound
  dsimp only
  split <;> simp [↓clockOf_parts]

theorem beginRound_throttled (b : Block) (presence cable : Bool) (temps : List Nat) :
    (beginRound b presence cable temps).tb.throttled = b.tb.nextThrottled := by
  rw [tb_of_clock (beginRound_clock b presence cable temps)]
  rfl

theorem beginRound_unitsRun (b : Block) (presence cable : Bool) (temps : List Nat) :
    ∃ recovered, unitsRun (beginRound b presence cable temps) = unitsRun (beginRuns (changeoverScrubs recovered (openRound b))) := by
  refine ⟨b.tb.round == 0 && b.recov.recovering && b.recov.faultTick.isNone && !b.recov.scrubbed, ?_⟩
  unfold beginRound
  dsimp only
  split <;> simp only [↓unitsRun_parts, readTemps_unitsRun, finishUnlock_unitsRun, samplePresence_unitsRun]

/-- No running trick of a round that begins stands on a unit that skips it. -/
theorem beginRound_unskipped (b : Block) (presence cable : Bool) (temps : List Nat) (r : UnitRun)
    (hr : r ∈ (beginRound b presence cable temps).dealer.running) :
    unitSkipped (beginRound b presence cable temps) r.base r.order = false := by
  obtain ⟨recovered, hu⟩ := beginRound_unitsRun b presence cable temps
  have he : (r.base, r.order) ∈ unitsRun (beginRound b presence cable temps) := List.mem_map.2 ⟨r, hr, rfl⟩
  have hc : clockOf (beginRound b presence cable temps) = clockOf (changeoverScrubs recovered (openRound b)) := by
    rw [beginRound_clock, changeoverScrubs_clock]
  rw [unitSkipped_of_clock hc]
  exact beginRuns_unskipped _ _ (hu ▸ he)

/-- The last tick's sample decides the next round's throttling, taken from the alerts as they stand where nothing told it. -/
theorem lastSample_nextThrottled (b : Block) :
    (lastSample b).tb.nextThrottled = if b.tb.sampled then b.tb.nextThrottled else b.pins.therm &&& dieMask b := by
  unfold lastSample
  split <;> rfl

theorem endRound_nextThrottled (b : Block) : (freezeDone (endRound b)).tb.nextThrottled = b.tb.nextThrottled := by
  rw [tb_of_clock ((freezeDone_clock _).trans (endRound_clock b))]

/-- What is left of a round's work does not touch the sample of its last tick. -/
theorem lastSample_workTo (errs : List TickErr) (t n : Nat) (b : Block) :
    (lastSample (workTo t (tickErrs n errs b))).tb.nextThrottled =
      if b.tb.sampled then b.tb.nextThrottled else b.pins.therm &&& dieMask b := by
  have hc : clockOf (workTo t (tickErrs n errs b)) = clockOf b := by simp
  have hd : dieMask (workTo t (tickErrs n errs b)) = dieMask b := by simp [dieMask, bld]
  rw [lastSample_nextThrottled, tb_of_clock hc, therm_of_clock hc, hd]

/-- A boundary that is not the trim round's end begins a round. -/
theorem roundBoundary_begins (presence cable : Bool) (temps : List Nat) (errs : List TickErr) (b : Block) (ha : alive b = true)
    (ht : ticking b = true) (hr : b.tb.round ≠ trimRound) :
    ∃ c, roundBoundary presence cable temps errs b = settle (beginRound c presence cable temps) ∧
      c.tb.nextThrottled = if b.tb.boundaryDone && !b.tb.sampled then b.pins.therm &&& dieMask b else b.tb.nextThrottled := by
  unfold roundBoundary
  rw [if_pos (by simp [ha, ht])]
  by_cases hd : b.tb.boundaryDone = true
  · rw [if_pos hd, if_neg hr]
    refine ⟨_, rfl, ?_⟩
    dsimp only
    rw [endRound_nextThrottled, lastSample_workTo, hd]
    cases b.tb.sampled <;> rfl
  · rw [if_neg hd]
    exact ⟨_, rfl, by simp [hd, freezeDone]⟩

/-- Settles O42: skips by the round's parity and the cores of throttled dies; what begins a round keeps off the skipped units. -/
theorem throttledDiesSkipRounds : Obligations.ThrottledDiesSkipRounds := by
  unfold Obligations.ThrottledDiesSkipRounds
  refine ⟨fun b base order ho hb _ => unitSkipped_iff b ho hb, ?_⟩
  intro presence cable report s ha ht hr
  obtain ⟨c, hc, hth⟩ := roundBoundary_begins presence cable report.temps report.errs s.blk ha ht (by unfold trimRound; omega)
  refine ⟨{ s with blk := roundBoundary presence cable report.temps report.errs s.blk }, beginRound c presence cable report.temps,
    rfl, hc, ?_, beginRound_unskipped c presence cable report.temps⟩
  rw [beginRound_throttled, hth]

end Sys2Proof.Machine
end

section
/-!
PROOF. The epochs of the time base (R139 to R145): the start of epoch 0, captured edges, and the end of the trim round.
-/

namespace Sys2Proof.Machine
open Sys2Proof Sys2Proof.Certificates

/-! ## What an answer of a mailbox changes -/

/-- The block without what an answer changes: the functions, host memory, what is sent, and the counter of unknown values. -/
def quietOf (b : Block) : Block := { b with fns := [], out := [], freeCtr := 0, mem := { b.mem with host := [] } }

theorem fields_of_quiet {b c : Block} (h : quietOf c = quietOf b) :
    c.tb = b.tb ∧ c.boot = b.boot ∧ c.mem.bytes = b.mem.bytes ∧ c.ctxs = b.ctxs ∧ c.parts = b.parts ∧ c.dealer = b.dealer ∧
    c.cores = b.cores :=
  ⟨(congrArg Block.tb h :), (congrArg Block.boot h :), (congrArg (fun d => d.mem.bytes) h :), (congrArg Block.ctxs h :),
    (congrArg Block.parts h :), (congrArg Block.dealer h :), (congrArg Block.cores h :)⟩

theorem fnAt_of_fns {b c : Block} (h : c.fns = b.fns) (fn : Nat) : fnAt c fn = fnAt b fn := by simp only [fnAt, h]

/-- A cause bit is set in its function, and may be sent. -/
theorem setCause_fnAt (b : Block) (fn bitNo : Nat) : ∃ v, fnAt (setCause b fn bitNo) fn = { fnAt b fn with intCause := v } := by
  refine ⟨(fnAt b fn).intCause ||| BitVec.ofNat 11 (2 ^ bitNo), ?_⟩
  unfold setCause msix
  dsimp only
  (repeat' split) <;> simp [fnAt_of_fns (offer_fns _ _)]

theorem setCause_keeps (b : Block) (fn bitNo : Nat) : quietOf (setCause b fn bitNo) = quietOf b ∧ (setCause b fn bitNo).mem = b.mem := by
  unfold setCause msix
  dsimp only
  (repeat' split) <;> exact ⟨rfl, rfl⟩

theorem mailCause_fnAt (b : Block) (fn bitNo : Nat) :
    ∃ v t, fnAt (mailCause b fn bitNo) fn = { fnAt b fn with intCause := v, mailAt := t } := by
  unfold mailCause
  dsimp only
  split
  · obtain ⟨v, hv⟩ := setCause_fnAt b fn bitNo
    exact ⟨v, _, hv⟩
  · split
    · exact ⟨_, _, fnAt_modFn_self ..⟩
    · obtain ⟨v, hv⟩ := setCause_fnAt (modFn b fn (fun y => { y with mailAt := some (now b) })) fn bitNo
      rw [fnAt_modFn_self] at hv
      exact ⟨v, _, hv⟩

theorem mailCause_keeps (b : Block) (fn bitNo : Nat) :
    quietOf (mailCause b fn bitNo) = quietOf b ∧ (mailCause b fn bitNo).mem = b.mem := by
  unfold mailCause
  dsimp only
  split
  · exact setCause_keeps b fn bitNo
  · split
    · exact ⟨rfl, rfl⟩
    · exact setCause_keeps (modFn b fn _) fn bitNo

theorem clearNotice_keeps (b : Block) (fn : Nat) (m : MboxSel) :
    quietOf (clearNotice b fn m) = quietOf b ∧ (clearNotice b fn m).mem = b.mem :=
  mailCause_keeps (modMbox b fn m _) fn (emptyCause m)

theorem hostWrites_quiet (b : Block) (l : List (Nat × List Byte)) : quietOf (hostWrites b l) = quietOf b :=
  foldl_keeps quietOf (f := fun c (w : Nat × List Byte) => hostWrite c w.1 w.2) (fun _ _ => rfl) l b

theorem hostWrites_fns (b : Block) (l : List (Nat × List Byte)) : (hostWrites b l).fns = b.fns :=
  foldl_keeps Block.fns (f := fun c (w : Nat × List Byte) => hostWrite c w.1 w.2) (fun _ _ => rfl) l b

theorem failWrites_quiet (b : Block) (l : List (Nat × List Byte)) :
    quietOf (l.foldl (fun c w => failWrite w.1 w.2 c) b) = quietOf b :=
  foldl_keeps quietOf (f := fun c (w : Nat × List Byte) => failWrite w.1 w.2 c) (fun _ _ => rfl) l b

theorem failWrites_fns (b : Block) (l : List (Nat × List Byte)) :
    (l.foldl (fun c w => failWrite w.1 w.2 c) b).fns = b.fns :=
  foldl_keeps Block.fns (f := fun c (w : Nat × List Byte) => failWrite w.1 w.2 c) (fun _ _ => rfl) l b

/-- A mailbox emptied keeps its function's state and capability table. -/
theorem clearNotice_fnAt (b : Block) (fn : Nat) (m : MboxSel) :
    (fnAt (clearNotice b fn m) fn).state = (fnAt b fn).state ∧ (fnAt (clearNotice b fn m) fn).cap = (fnAt b fn).cap ∧
    (mboxAt (clearNotice b fn m) fn m).full = false := by
  obtain ⟨v, t, hv⟩ := mailCause_fnAt (modMbox b fn m (fun x =>
    { x with notice := 0, full := false, replyLost := none, taken := none })) fn (emptyCause m)
  unfold mboxAt clearNotice
  rw [hv]
  unfold modMbox
  rw [fnAt_modFn_self]
  cases m <;> exact ⟨rfl, rfl, rfl⟩

theorem accessFails_keeps (b : Block) (fn : Nat) (m : MboxSel) : quietOf (accessFails b fn m) = quietOf b :=
  (clearNotice_keeps (modMbox b fn m _) fn m).1

theorem accessFails_fnAt (b : Block) (fn : Nat) (m : MboxSel) :
    (fnAt (accessFails b fn m) fn).state = (fnAt b fn).state ∧ (fnAt (accessFails b fn m) fn).cap = (fnAt b fn).cap := by
  obtain ⟨hs, hc, -⟩ := clearNotice_fnAt (modMbox b fn m (fun x => { x with accessError := true })) fn m
  unfold accessFails
  rw [hs, hc]
  unfold modMbox
  rw [fnAt_modFn_self]
  cases m <;> exact ⟨rfl, rfl⟩

theorem mbReply_quiet (b : Block) (fn : Nat) (m : MboxSel) (status : Nat) (payload : List Byte) :
    quietOf (mbReply b fn m status payload) = quietOf b := by
  unfold mbReply
  split
  · rfl
  · dsimp only
    split
    · exact (clearNotice_keeps ..).1.trans (hostWrites_quiet ..)
    · exact (accessFails_keeps ..).trans ((failWrites_quiet ..).trans (hostWrites_quiet ..))

theorem mbReply_fnAt (b : Block) (fn : Nat) (m : MboxSel) (status : Nat) (payload : List Byte) :
    (fnAt (mbReply b fn m status payload) fn).state = (fnAt b fn).state ∧
    (fnAt (mbReply b fn m status payload) fn).cap = (fnAt b fn).cap := by
  unfold mbReply
  split
  · exact ⟨rfl, rfl⟩
  · next t _ =>
    dsimp only
    split
    · obtain ⟨hs, hc, -⟩ := clearNotice_fnAt (hostWrites b (replyWrites t status payload)) fn m
      rw [hs, hc, fnAt_of_fns (hostWrites_fns ..)]
      exact ⟨rfl, rfl⟩
    · next k _ =>
      obtain ⟨hs, hc⟩ := accessFails_fnAt ((((replyWrites t status payload).drop k).take 1).foldl (fun c w => failWrite w.1 w.2 c)
        (hostWrites b ((replyWrites t status payload).take k))) fn m
      rw [hs, hc, fnAt_of_fns ((failWrites_fns ..).trans (hostWrites_fns ..))]
      exact ⟨rfl, rfl⟩

/-- An answer that reaches the host empties its mailbox, and its status is the last that is written. -/
theorem mbReply_answers (b : Block) (fn : Nat) (m : MboxSel) (status : Nat) (payload : List Byte) (t : Taken)
    (ht : (mboxAt b fn m).taken = some t) (hl : (mboxAt b fn m).replyLost = none) :
    (mboxAt (mbReply b fn m status payload) fn m).full = false ∧
    hostLE (mbReply b fn m status payload) (t.buffer + 4) 2 = le (leBytes 2 status) := by
  have hr : mbReply b fn m status payload = clearNotice (hostWrites b (replyWrites t status payload)) fn m := by
    unfold mbReply
    rw [ht, hl]
  rw [hr]
  refine ⟨(clearNotice_fnAt ..).2.2, ?_⟩
  unfold hostLE memReadLE
  rw [(clearNotice_keeps ..).2]
  exact congrArg le (memReadN_memWriteN_self _ _ (leBytes 2 status))

/-! ## The start of epoch 0 (R142, R143, R153, R407) -/

theorem setFnState_keeps (b : Block) (fn : Nat) (st : FnState) :
    quietOf (setFnState b fn st) = quietOf b ∧ ∃ v, fnAt (setFnState b fn st) fn = { fnAt b fn with state := st, intCause := v } := by
  unfold setFnState
  split
  · next h => exact ⟨rfl, (fnAt b fn).intCause, by rw [← h]⟩
  · refine ⟨(setCause_keeps ..).1, ?_⟩
    obtain ⟨v, hv⟩ := setCause_fnAt (modFn b fn (fun x => { x with state := st })) fn cStateChange
    exact ⟨v, hv.trans (by rw [fnAt_modFn_self])⟩

/-- The block as its bring-up completes, before START is answered. -/
def broughtUp (b : Block) : Block :=
  setFnState { modFn b 0 (fun x => aqReset { x with cap := capOfBuild b }) with
    boot := { b.boot with starting := false, stage := 8 } } 0 .ready

theorem bringUpDone_starting (b : Block) (h : b.boot.starting = true) :
    bringUpDone b = mbReply (broughtUp b) 0 .rcv mbOk [] := by
  unfold bringUpDone
  rw [if_pos h]
  rfl

theorem bringUpDone_not_starting (b : Block) (h : b.boot.starting = false) : bringUpDone b = b := by
  unfold bringUpDone
  rw [if_neg (by simp [h])]

theorem broughtUp_quiet (b : Block) :
    quietOf (broughtUp b) = quietOf { b with boot := { b.boot with starting := false, stage := 8 } } :=
  (setFnState_keeps ..).1

theorem fnAt_modFn_boot (b : Block) (fn : Nat) (g : Fn → Fn) (x : Boot) :
    fnAt { modFn b fn g with boot := x } fn = g (fnAt b fn) := fnAt_modFn_self b fn g

theorem broughtUp_fnAt (b : Block) :
    ∃ v, fnAt (broughtUp b) 0 = { aqReset { fnAt b 0 with cap := capOfBuild b } with state := .ready, intCause := v } := by
  unfold broughtUp
  obtain ⟨-, v, hv⟩ := setFnState_keeps { modFn b 0 (fun x => aqReset { x with cap := capOfBuild b }) with
    boot := { b.boot with starting := false, stage := 8 } } 0 .ready
  rw [fnAt_modFn_boot] at hv
  exact ⟨v, hv⟩

/-- The time base in the tick before epoch 0. -/
def zeroTb (pps : PpsState) (b : Block) : Block :=
  { sampleTherm b with tb := { (sampleTherm b).tb with
    pps := pps, epoch := 0, round := 0, tick := 0, boundaryDone := false, earlySeen := false, lateSeen := false, inWindow := none } }

theorem startEpochs_zero (pps : PpsState) (b : Block) : EpochZero b (startEpochs pps b) pps b.tb.ppsEdge := by
  have hs : startEpochs pps b = bringUpDone (zeroTb pps b) := rfl
  rw [hs]
  cases hb : b.boot.starting with
  | false =>
    rw [bringUpDone_not_starting (zeroTb pps b) hb]
    exact ⟨rfl, fun h => absurd (hb.symm.trans h) (by decide), fun _ => ⟨rfl, rfl, rfl⟩, rfl, rfl, rfl, rfl, rfl⟩
  | true =>
    rw [bringUpDone_starting (zeroTb pps b) hb]
    have hq := (mbReply_quiet (broughtUp (zeroTb pps b)) 0 .rcv mbOk []).trans (broughtUp_quiet (zeroTb pps b))
    obtain ⟨hst, hcap⟩ := mbReply_fnAt (broughtUp (zeroTb pps b)) 0 .rcv mbOk []
    obtain ⟨v, hv⟩ := broughtUp_fnAt (zeroTb pps b)
    obtain ⟨htb, hboot, hbytes, hctxs, hparts, hdealer, hcores⟩ := fields_of_quiet hq
    refine ⟨htb, fun _ => ⟨hboot, ?_, ?_, fun x hx hl => ?_⟩, fun h => absurd (hb.symm.trans h) (by decide), hbytes, hctxs, hparts,
      hdealer, hcores⟩
    · rw [hst, hv]
    · rw [hcap, hv]
      rfl
    · have hm : mboxAt (broughtUp (zeroTb pps b)) 0 .rcv = mboxAt b 0 .rcv := by
        unfold mboxAt
        rw [hv]
        rfl
      exact mbReply_answers _ 0 .rcv mbOk [] x (hm ▸ hx) (hm ▸ hl)

/-- The edge that starts the epochs is noted beside them. -/
theorem epochZero_setEdge {b u : Block} {pps : PpsState} {old : Stamp} (h : EpochZero b u pps old) (edge : Stamp) :
    EpochZero b (setTb u (fun t => { t with ppsEdge := edge })) pps edge := by
  obtain ⟨htb, hrest⟩ := h
  exact ⟨by rw [setTb_tb, htb], hrest⟩

theorem waitsForEdge_iff (b : Block) : waitsForEdge b = true ↔ alive b = true ∧ b.tb.pps = .stopped ∧ b.tb.started = true := by
  simp [waitsForEdge, and_assoc]

/-! ## Captured edges (R139, R140, R145) -/

theorem ppsEdge_starts (c : Nat) (b : Block) (hw : waitsForEdge b = true) (hp : b.tb.ppsPin = true) :
    ppsEdge c b = setTb (startEpochs .locked b) (fun t => { t with ppsEdge := mkStamp 0 0 0 }) := by
  have ha : alive b = true := ((waitsForEdge_iff b).1 hw).1
  simp [ppsEdge, ha, hp, hw]

theorem ppsEdge_pin_taken (c : Nat) (b : Block) (hp : b.tb.ppsPin = false) : ppsEdge c b = b := by
  simp [ppsEdge, hp]

theorem ppsEdge_not_started (c : Nat) (b : Block) (hs : b.tb.pps = .stopped) (hn : b.tb.started = false) : ppsEdge c b = b := by
  simp [ppsEdge, waitsForEdge, ticking, hs, hn]

section
variable {b : Block} (ha : alive b = true) (ht : ticking b = true) (hd : b.tb.boundaryDone = true) (hp : b.tb.ppsPin = true)
include ha ht hd hp

/-- An edge of a running round is taken by where in the epoch it falls. -/
theorem ppsEdge_running {c : Nat} (hc : b.tb.tick ≤ c) :
    ppsEdge c b =
      if b.tb.round ≠ trimRound then (if c ≤ 124999 then edgeInRound c b else b)
      else if c ≤ 62499 then edgeInRound c b
      else if !b.tb.earlySeen && b.tb.inWindow == none && decide (c ≤ trimLen b.tb) && decide (b.tb.tick < c) then edgeInWindow c b
      else b := by
  have hw : ¬ waitsForEdge b = true := by
    intro h
    simp [ticking, ((waitsForEdge_iff b).1 h).2.1] at ht
  unfold ppsEdge
  rw [if_neg (by simp [ha, hp]), if_neg hw, if_neg (by simp [ht, hd, hc])]

theorem ppsEdge_inRound {c : Nat} (hc : b.tb.tick ≤ c) (ho : b.tb.round ≠ 9999 → c ≤ 124999) (hl : b.tb.round = 9999 → c ≤ 62499) :
    ppsEdge c b = edgeInRound c b := by
  rw [ppsEdge_running ha ht hd hp hc]
  by_cases hr : b.tb.round = 9999
  · rw [if_neg (by simp [trimRound, hr]), if_pos (hl hr)]
  · rw [if_pos (by simpa [trimRound] using hr), if_pos (ho hr)]

theorem ppsEdge_inWindow {c : Nat} (hr : b.tb.round = 9999) (hlo : 62500 ≤ c) (hhi : c ≤ trimLen b.tb) (hc : b.tb.tick < c)
    (he : b.tb.earlySeen = false) (hn : b.tb.inWindow = none) : ppsEdge c b = edgeInWindow c b := by
  rw [ppsEdge_running ha ht hd hp (Nat.le_of_lt hc), if_neg (by simp [trimRound, hr]), if_neg (by omega), if_pos (by simp [he, hn, hhi, hc])]

end

/-- Round 5,000 begins half an epoch after tick 0: what falls before it is late, what falls in it or after is early (R140). -/
theorem edgeInRound_eq {b : Block} {c : Nat} (hc : b.tb.tick ≤ c) (ho : b.tb.round ≠ 9999 → c ≤ 124999) :
    edgeInRound c b = { b with tb := { b.tb with
      tick := c, ppsEdge := stampAt b.tb c, earlySeen := b.tb.earlySeen || decide (5000 ≤ b.tb.round)
      lateSeen := b.tb.lateSeen || decide (b.tb.round < 5000 ∧ (b.tb.round ≠ 0 ∨ c ≠ 0)) } } := by
  have htick : max b.tb.tick c = c := Nat.max_eq_right hc
  have hearly : (decide (b.tb.round = trimRound) || decide (625000000 ≤ b.tb.round * 125000 + c)) = decide (5000 ≤ b.tb.round) := by
    rw [← Bool.decide_or, decide_eq_decide, trimRound]
    omega
  have hlate : (!decide (5000 ≤ b.tb.round) && !(decide (b.tb.round = 0) && decide (c = 0))) =
      decide (b.tb.round < 5000 ∧ (b.tb.round ≠ 0 ∨ c ≠ 0)) := by
    rw [← Bool.decide_and, ← decide_not, ← decide_not, ← Bool.decide_and, decide_eq_decide]
    omega
  unfold edgeInRound
  dsimp only
  rw [hearly, hlate]
  simp only [setTb, toTick, now, htick]
  rfl

theorem edgeInWindow_eq {b : Block} {c : Nat} (hc : b.tb.tick < c) :
    edgeInWindow c b = { b with tb := { b.tb with tick := c - 1, inWindow := some c, ppsEdge := mkStamp (b.tb.epoch + 1) 0 0 } } := by
  have htick : max b.tb.tick (c - 1) = c - 1 := Nat.max_eq_right (by omega)
  simp only [edgeInWindow, setTb, toTick, htick]

/-! ## The end of the trim round (R141, R142, R144) -/

/-- What the end of a round leaves alone beside the clock. -/
def restOf (b : Block) : Tab Ctx × Tab Part × Mem × Boot := (b.ctxs, b.parts, b.mem, b.boot)

theorem modCore_rest (b : Block) (i : Nat) (g : Core → Core) : restOf (modCore b i g) = restOf b := rfl

theorem runEnds_rest (b : Block) (u : UnitRun) : restOf (runEnds b u) = restOf b := by
  unfold runEnds
  split
  · rfl
  · split <;> rfl

theorem setDiags_rest (b : Block) : restOf (setDiags b) = restOf b := by
  unfold setDiags
  exact (foldl_keeps restOf (fun c _ => foldl_keeps restOf (fun d i => modCore_rest d i _) _ c) _ _).trans rfl

theorem endRound_rest (b : Block) : restOf (endRound b) = restOf b :=
  (foldl_keeps restOf runEnds_rest _ _).trans (setDiags_rest b)

theorem lastSample_rest (b : Block) : restOf (lastSample b) = restOf b := by
  unfold lastSample
  split <;> rfl

/-- The last tick's sample leaves alone what the end of the trim round decides by. -/
theorem lastSample_epoch (b : Block) :
    (lastSample b).tb.epoch = b.tb.epoch ∧ trimLen (lastSample b).tb = trimLen b.tb ∧ nextPps (lastSample b).tb = nextPps b.tb := by
  unfold lastSample
  split <;> exact ⟨rfl, rfl, rfl⟩

/-- The block at the end of a round, its last tick sampled. -/
def roundEnded (b : Block) : Block := freezeDone (endRound (lastSample b))

theorem roundEnded_tb (b : Block) :
    (roundEnded b).tb = { (lastSample b).tb with tick := (roundEnded b).tb.tick } :=
  tb_of_clock ((freezeDone_clock _).trans (endRound_clock _))

theorem roundEnded_rest (b : Block) : restOf (roundEnded b) = restOf b :=
  Eq.trans (b := restOf (endRound (lastSample b))) rfl ((endRound_rest _).trans (lastSample_rest b))

theorem roundEnded_running (b : Block) : (roundEnded b).dealer.running = [] := rfl

theorem trimRoundEnd_eq (b : Block) (ha : alive b = true) (ht : ticking b = true) (hd : b.tb.boundaryDone = true)
    (hr : b.tb.round = 9999) : trimRoundEnd b = setTb (showClosed (roundEnded b)) nextEpoch := by
  unfold trimRoundEnd
  rw [if_pos (by simp [ha, ht, hd, hr, trimRound])]
  rfl

theorem trimRoundEnd_ordinary (b : Block) (hr : b.tb.round ≠ 9999) : trimRoundEnd b = b := by
  simp [trimRoundEnd, trimRound, hr]

/-- The epoch that begins takes its PPS state and trim length from what the last one captured (R141, R142). -/
theorem nextEpoch_roundEnded (b : Block) :
    nextEpoch (roundEnded b).tb = { (roundEnded b).tb with
      pps := nextPps b.tb, epoch := b.tb.epoch + 1, round := 0, tick := 0, boundaryDone := false, earlySeen := false
      lateSeen := false, inWindow := none, lastTrim := BitVec.ofNat 18 (trimLen b.tb) } := by
  obtain ⟨he, hl, hp⟩ := lastSample_epoch b
  rw [← he, ← hl, ← hp, roundEnded_tb]
  rfl

/-- Every context shows the figures closed for it (R275). -/
theorem showClosed_ctxAt (b : Block) (g : Nat) (c : Ctx) (h : ctxAt b g = some c) :
    ctxAt (showClosed b) g = some { c with closed := c.closing, closing := none } := by
  unfold ctxAt at *
  unfold showClosed
  rw [tabGet_tabMap, h]
  rfl

/-- STOPPED ends by the first edge after the start of the time base, or by its absence (R142, R143, R145). -/
theorem epochZeroStarts (c : Nat) (s : State) (ha : alive s.blk = true) (hs : s.blk.tb.pps = .stopped) :
    (s.blk.tb.started = true → s.blk.tb.ppsPin = true →
      ∃ t, exec (.ppsEdgeCapture c) s = .next t ∧ t.pending = s.pending ∧ EpochZero s.blk t.blk .locked 0) ∧
    (s.blk.tb.started = true →
      ∃ t, exec .stoppedTimeout s = .next t ∧ t.pending = s.pending ∧ EpochZero s.blk t.blk .holdover s.blk.tb.ppsEdge) ∧
    (s.blk.tb.started = false → exec (.ppsEdgeCapture c) s = .next s ∧ exec .stoppedTimeout s = .next s) ∧
    (s.blk.tb.ppsPin = false → exec (.ppsEdgeCapture c) s = .next s) := by
  have hedge : exec (.ppsEdgeCapture c) s = .next { s with blk := ppsEdge c s.blk } := rfl
  have hlate : exec .stoppedTimeout s = .next { s with blk := stoppedTimeout s.blk } := rfl
  refine ⟨fun hst hp => ⟨_, hedge, rfl, ?_⟩, fun hst => ⟨_, hlate, rfl, ?_⟩, fun hn => ⟨?_, ?_⟩, fun hp => ?_⟩
  · dsimp only
    rw [ppsEdge_starts c s.blk ((waitsForEdge_iff _).2 ⟨ha, hs, hst⟩) hp]
    exact epochZero_setEdge (startEpochs_zero .locked s.blk) 0
  · dsimp only
    unfold stoppedTimeout
    rw [if_pos ((waitsForEdge_iff _).2 ⟨ha, hs, hst⟩)]
    exact startEpochs_zero .holdover s.blk
  · rw [hedge, ppsEdge_not_started c s.blk hs hn]
  · rw [hlate, stoppedTimeout, if_neg (by simp [waitsForEdge, hn])]
  · rw [hedge, ppsEdge_pin_taken c s.blk hp]

/-- What the end of the trim round leaves (R141, R142, R144, R275). -/
theorem trimRoundEnd_begins (b : Block) (ha : alive b = true) (ht : ticking b = true) (hd : b.tb.boundaryDone = true)
    (hr : b.tb.round = 9999) :
    (trimRoundEnd b).tb = { (roundEnded b).tb with
      pps := nextPps b.tb, epoch := b.tb.epoch + 1, round := 0, tick := 0, boundaryDone := false, earlySeen := false
      lateSeen := false, inWindow := none, lastTrim := BitVec.ofNat 18 (trimLen b.tb) } ∧
    (trimRoundEnd b).dealer.running = [] ∧
    (∀ g c, ctxAt b g = some c → ctxAt (trimRoundEnd b) g = some { c with closed := c.closing, closing := none }) ∧
    (trimRoundEnd b).parts = b.parts ∧ (trimRoundEnd b).mem = b.mem ∧ (trimRoundEnd b).boot = b.boot := by
  have hrest := roundEnded_rest b
  have hctxs : (roundEnded b).ctxs = b.ctxs := (congrArg (fun r => r.1) hrest :)
  rw [trimRoundEnd_eq b ha ht hd hr]
  refine ⟨nextEpoch_roundEnded b, roundEnded_running b, fun g c hc => ?_, (congrArg (fun r => r.2.1) hrest :),
    (congrArg (fun r => r.2.2.1) hrest :), (congrArg (fun r => r.2.2.2) hrest :)⟩
  exact showClosed_ctxAt (roundEnded b) g c (by rw [ctxAt, hctxs]; exact hc)

/-- Settles O41: a block in STOPPED starts its epochs by an edge or without one, an edge of a running epoch is noted by where it falls,
and the end of the trim round begins the next epoch by what was captured. -/
theorem epochsBeginByTheEdge : Obligations.EpochsBeginByTheEdge := by
  unfold Obligations.EpochsBeginByTheEdge
  refine ⟨epochZeroStarts, fun c s ha ht hd hp => ⟨fun hc ho hl _ => ?_, fun hr hlo hhi hc he hn => ?_⟩,
    fun s ha ht hd => ⟨fun hr => ?_, fun hr => ?_⟩⟩
  · refine ⟨{ s with blk := ppsEdge c s.blk }, rfl, rfl, ?_⟩
    dsimp only
    rw [ppsEdge_inRound ha ht hd hp hc ho hl, edgeInRound_eq hc ho]
  · refine ⟨{ s with blk := ppsEdge c s.blk }, rfl, rfl, ?_⟩
    dsimp only
    rw [ppsEdge_inWindow ha ht hd hp hr hlo hhi hc he hn, edgeInWindow_eq hc]
  · obtain ⟨htb, hrun, hctx, hparts, hmem, hboot⟩ := trimRoundEnd_begins s.blk ha ht hd hr
    have hx : exec .trimRoundEnd s = .next { s with blk := settle (trimRoundEnd s.blk) } := rfl
    refine ⟨_, trimRoundEnd s.blk, hx, rfl, by dsimp only, ?_⟩
    rw [htb]
    exact ⟨rfl, rfl, rfl, rfl, rfl, rfl, rfl, rfl, rfl, hrun, fun g c hc => ⟨_, hctx g c hc, rfl⟩, hparts, hmem, hboot⟩
  · refine ⟨{ s with blk := settle (trimRoundEnd s.blk) }, rfl, ?_⟩
    dsimp only
    rw [trimRoundEnd_ordinary s.blk hr]

end Sys2Proof.Machine
end

section
/-!
PROOF. Fences (R229, R236, R248, R268 to R272, R356): what the fetch of a packet leaves alone, the words of host memory, and what a
signal, a wait and a fence doorbell do.
-/

namespace Sys2Proof.Machine
open Sys2Proof Sys2Proof.Certificates

/-! ## Words of host memory (R6) -/

theorem leBytes_length (n v : Nat) : (leBytes n v).length = n := by
  induction n generalizing v with
  | zero => rfl
  | succ n ih => simp only [leBytes, List.length_cons, ih]

theorem le_leBytes (n v : Nat) : le (leBytes n v) = v % 256 ^ n := by
  induction n generalizing v with
  | zero => simp only [leBytes, le, Nat.pow_zero, Nat.mod_one]
  | succ n ih => rw [leBytes, le, ih, BitVec.toNat_ofNat, Nat.pow_succ' (m := 256), Nat.mod_mul]

theorem le_lt (bs : List Byte) : le bs < 256 ^ bs.length := by
  induction bs with
  | nil => exact Nat.one_pos
  | cons x xs ih =>
    rw [le, List.length_cons, Nat.pow_succ']
    have hx : x.toNat < 256 := x.isLt
    omega

/-- A field of a memory that was written is read back. -/
theorem memReadLE_memWriteLE_self (m : ByteMem) (a : Nat) {n v : Nat} (hv : v < 256 ^ n) : memReadLE (memWriteLE m a n v) a n = v := by
  have hr := memReadN_memWriteN_self m a (leBytes n v)
  rw [leBytes_length] at hr
  rw [memReadLE, memWriteLE, hr, le_leBytes, Nat.mod_eq_of_lt hv]

theorem hostLE_lt (b : Block) (k n : Nat) : hostLE b k n < 256 ^ n := by
  have h := le_lt (memReadN b.mem.host k n)
  rwa [memReadN_length] at h

theorem hostLE_hostSwap_self (b : Block) (k old : Nat) {new : Nat} (hn : new < 2 ^ 64) : hostLE (hostSwap b k old new) k 8 = new :=
  memReadLE_memWriteLE_self b.mem.host k hn

theorem memRead_hostSwap_other (b : Block) (k old new : Nat) {x : Nat} (h : x < k ∨ k + 8 ≤ x) :
    memRead (hostSwap b k old new).mem.host x = memRead b.mem.host x := by
  refine (memRead_memWriteN b.mem.host k x (leBytes 8 new)).trans (if_neg ?_)
  rw [leBytes_length]
  omega

/-! ## What the fetch of a packet leaves alone (R229, R230) -/

/-- The memories of a block, and the states of its functions. -/
def memAndStates (b : Block) : Mem × (Nat → FnState) := (b.mem, fun f => (fnAt b f).state)

theorem memAndStates_modFn (b : Block) (fn : Nat) {g : Fn → Fn} (hg : ∀ x, (g x).state = x.state) :
    memAndStates (modFn b fn g) = memAndStates b := by
  refine Prod.ext rfl (funext fun f => ?_)
  by_cases h : f = fn
  · subst h
    exact (congrArg Fn.state (fnAt_modFn_self b f g)).trans (hg _)
  · exact congrArg Fn.state (fnAt_modFn_other b g h)

theorem memAndStates_setSqHead (b : Block) (q : QRef) (n : Nat) : memAndStates (setSqHead b q n) = memAndStates b := by
  unfold setSqHead
  split
  · exact memAndStates_modFn b q.fn fun _ => rfl
  · rfl

theorem memAndStates_setCq (b : Block) (q : QRef) (i : Nat) (c : Cq) : memAndStates (setCq b q i c) = memAndStates b := by
  unfold setCq
  split
  · exact memAndStates_modFn b q.fn fun _ => rfl
  · rfl

theorem memAndStates_takeEntry (b : Block) (q : QRef) : memAndStates (takeEntry b q) = memAndStates b := by
  have hfn : memAndStates (modFn (toTick b (fetchTick b q.fn)) q.fn
      (fun x => { x with lastFetch := some (now (toTick b (fetchTick b q.fn))) })) = memAndStates b :=
    memAndStates_modFn (toTick b (fetchTick b q.fn)) q.fn fun _ => rfl
  unfold takeEntry
  dsimp only
  split
  · rw [memAndStates_setSqHead]
    split <;> exact hfn
  · split <;> exact hfn

theorem memAndStates_reserveCq (b : Block) (q : QRef) (i : Nat) : memAndStates (reserveCq b q i) = memAndStates b := by
  unfold reserveCq
  split
  · exact memAndStates_setCq ..
  · rfl

theorem memAndStates_fetched (i : Instr) (q : QRef) (h : Hdr) (op : BitVec 8) (b : Block) :
    memAndStates (fetched i q h op b) = memAndStates b :=
  (memAndStates_reserveCq (takeEntry b q) q _).trans (memAndStates_takeEntry b q)

theorem fetched_mem (i : Instr) (q : QRef) (h : Hdr) (op : BitVec 8) (b : Block) : (fetched i q h op b).mem = b.mem :=
  congrArg Prod.fst (memAndStates_fetched i q h op b)

theorem fetched_fnState (i : Instr) (q : QRef) (h : Hdr) (op : BitVec 8) (b : Block) (f : Nat) :
    (fnAt (fetched i q h op b) f).state = (fnAt b f).state :=
  congrFun (congrArg Prod.snd (memAndStates_fetched i q h op b)) f

theorem fetched_hostLE (i : Instr) (q : QRef) (h : Hdr) (op : BitVec 8) (b : Block) (k n : Nat) :
    hostLE (fetched i q h op b) k n = hostLE b k n := by
  rw [hostLE, fetched_mem, hostLE]

theorem reserveCq_dealer (b : Block) (q : QRef) (i : Nat) : (reserveCq b q i).dealer = b.dealer := by
  unfold reserveCq setCq
  split
  · split <;> rfl
  · rfl

/-- The command a fetched packet becomes has the next number, and waits for nothing before its own work. -/
theorem fetched_newCmd (i : Instr) (q : QRef) (h : Hdr) (op : BitVec 8) (b : Block) :
    ∃ k ∈ (fetched i q h op b).dealer.cmds, k.id = b.dealer.nextCmd ∧ k.q = q ∧ k.stage = .done stOk 0 :=
  ⟨_, List.mem_append_right _ (List.mem_singleton_self _), by rw [reserveCq_dealer, takeEntry_dealer], rfl, rfl⟩

/-! ## The queue a packet is fetched from belongs to a running function (R229) -/

theorem mem_insertFirst {α : Type} {f : α → Nat} {x y : α} {l : List α} (h : y ∈ insertFirst f x l) : y = x ∨ y ∈ l := by
  induction l with
  | nil => exact Or.inl (List.mem_singleton.1 h)
  | cons z zs ih =>
    rw [insertFirst] at h
    split at h
    · exact List.mem_cons.1 h
    · rcases List.mem_cons.1 h with rfl | h
      · exact Or.inr List.mem_cons_self
      · exact (ih h).imp_right (List.mem_cons_of_mem z)

theorem mem_sortBy {α : Type} {f : α → Nat} {y : α} {l : List α} (h : y ∈ sortBy f l) : y ∈ l := by
  induction l with
  | nil => exact h
  | cons x xs ih =>
    rcases mem_insertFirst h with rfl | h
    · exact List.mem_cons_self
    · exact List.mem_cons_of_mem x (ih h)

theorem pickSq_eligible {b : Block} {fn : Nat} {q : QRef} (h : pickSq b fn = some q) : eligible b q = true := by
  unfold pickSq at h
  split at h
  · next he =>
    cases h
    exact he
  · exact (List.mem_filter.1 (mem_sortBy (List.mem_of_head? h))).2

theorem eligible_running {b : Block} {q : QRef} (h : eligible b q = true) : (fnAt b q.fn).state = .running := by
  unfold eligible at h
  split at h
  · cases h
  · simp only [Bool.and_eq_true, beq_iff_eq] at h
    obtain ⟨⟨⟨⟨-, hrun⟩, -⟩, -⟩, -⟩ := h
    exact hrun

theorem accepted_running {i : Instr} {q : QRef} {h : Hdr} {op : BitVec 8} {b : Block} (ha : accepted i q h op b = true) :
    (fnAt b q.fn).state = .running := by
  simp only [accepted, fetchable, canFetch, Bool.and_eq_true, beq_iff_eq] at ha
  obtain ⟨⟨⟨⟨⟨-, hpick⟩, -⟩, -⟩, -⟩, -⟩ := ha
  exact eligible_running (pickSq_eligible hpick)

/-- The function of an accepted packet is not FROZEN in the block as fetched. -/
theorem fetched_not_frozen {i : Instr} {q : QRef} {h : Hdr} {op : BitVec 8} {b : Block} (ha : accepted i q h op b = true) :
    (fnAt (fetched i q h op b) q.fn).state ≠ .frozen := by
  rw [fetched_fnState, accepted_running ha]
  decide

/-! ## Waits on a record (R248, R271, R272, R356) -/

/-- An evaluation of waits changes commands alone. -/
theorem evalWaits_frame (b : Block) (fn a : Nat) :
    evalWaits b fn a = { b with dealer := { b.dealer with cmds := (evalWaits b fn a).dealer.cmds } } := by
  unfold evalWaits
  dsimp only
  split <;> rfl

theorem evalWaits_frozen {b : Block} {fn : Nat} (a : Nat) (hf : (fnAt b fn).state = .frozen) : evalWaits b fn a = b := by
  unfold evalWaits
  dsimp only
  rw [if_pos hf]

/-- A wait of the function on the record that its value satisfies ends with that value. -/
theorem evalWaits_ends {b : Block} {fn a w : Nat} {k : Cmd} (hf : (fnAt b fn).state ≠ .frozen) (hk : k ∈ b.dealer.cmds)
    (hs : k.stage = .fenceWait a w) (hq : k.q.fn = fn) (hw : w ≤ fenceValue b a) :
    { k with stage := .done stOk (BitVec.ofNat 32 (fenceValue b a)) } ∈ (evalWaits b fn a).dealer.cmds := by
  unfold evalWaits
  dsimp only
  rw [if_neg hf]
  refine List.mem_map.2 ⟨k, hk, ?_⟩
  simp only [hs]
  exact if_pos ⟨hq, trivial, hw⟩

/-- Every other command stays, and every one of a FROZEN function. -/
theorem evalWaits_keeps {b : Block} {fn a : Nat} {k : Cmd} (hk : k ∈ b.dealer.cmds)
    (hn : (fnAt b fn).state = .frozen ∨ ∀ w, k.stage = .fenceWait a w → k.q.fn ≠ fn ∨ fenceValue b a < w) :
    k ∈ (evalWaits b fn a).dealer.cmds := by
  by_cases hf : (fnAt b fn).state = .frozen
  · rwa [evalWaits_frozen a hf]
  · have hno := hn.resolve_left hf
    unfold evalWaits
    dsimp only
    rw [if_neg hf]
    refine List.mem_map.2 ⟨k, hk, ?_⟩
    split
    · next a' w hs =>
      refine if_neg fun ⟨hq, ha, hw⟩ => ?_
      subst ha
      rcases hno w hs with h | h
      · exact h hq
      · exact absurd hw (Nat.not_le.2 h)
    · rfl

theorem setCmd_keeps {b : Block} {id : Nat} (st : CmdStage) {k : Cmd} (hk : k ∈ b.dealer.cmds) (hid : k.id ≠ id) :
    k ∈ (setCmd b id st).dealer.cmds := by
  rw [setCmd_dealer_cmds]
  exact List.mem_map.2 ⟨k, hk, if_neg hid⟩

theorem setCmd_sets {b : Block} {id : Nat} (st : CmdStage) {k : Cmd} (hk : k ∈ b.dealer.cmds) (hid : k.id = id) :
    { k with stage := st } ∈ (setCmd b id st).dealer.cmds := by
  rw [setCmd_dealer_cmds]
  exact List.mem_map.2 ⟨k, hk, if_pos hid⟩

/-! ## FENCE_SIGNAL (R270) -/

/-- Whether a signal of n on a record is refused: the record is saturated, or has passed n. -/
def signalRefused (old n : Nat) : Bool := decide (old % 2 ^ 63 = 2 ^ 63 - 1) || decide (n < old % 2 ^ 63)

/-- What a signal of n makes of a record: bit 63 stands once a signal has been refused. -/
def signalledWord (old n : Nat) : Nat := if signalRefused old n then 2 ^ 63 + old % 2 ^ 63 else old / 2 ^ 63 * 2 ^ 63 + n

theorem signalWord_eq (old n : Nat) : signalWord old n = (signalledWord old n, signalRefused old n) := by
  unfold signalWord signalledWord signalRefused fenceMax
  by_cases h : old % 2 ^ 63 = 2 ^ 63 - 1 ∨ n < old % 2 ^ 63
  · rw [← Bool.decide_or, if_pos h, decide_eq_true h, if_pos rfl]
  · rw [← Bool.decide_or, if_neg h, decide_eq_false h, if_neg Bool.false_ne_true]

theorem signalledWord_lt {old n : Nat} (ho : old < 2 ^ 64) (hn : n < 2 ^ 63) : signalledWord old n < 2 ^ 64 := by
  unfold signalledWord
  split <;> omega

theorem fenceParams_iff (c : Ctx) (fence : BitVec 16) (value : BitVec 64) :
    fenceParams c fence value = true ↔ fence.toNat < c.fenceCount ∧ value.toNat < 2 ^ 63 := by
  rw [fenceParams, Bool.and_eq_true, decide_eq_true_eq, decide_eq_true_eq]

/-- The block once a signal has swapped its record and the waits on it are evaluated. -/
def signalled (b : Block) (fn a n : Nat) : Block :=
  evalWaits (hostSwap b a (hostLE b a 8) (signalledWord (hostLE b a 8) n)) fn a

theorem signalAt_eq (b : Block) (fn a n : Nat) : signalAt b fn a n = (signalled b fn a n, signalRefused (hostLE b a 8) n) := by
  simp only [signalAt, signalWord_eq, signalled]

theorem doFenceSignal_eq {q : QRef} {fence : BitVec 16} {value : BitVec 64} {b : Block} {c : Ctx} (id : Nat)
    (hc : ctxAt b q.tag.toNat = some c) (hp : fenceParams c fence value = true) :
    doFenceSignal q fence value id b = finish (signalled b q.fn (fenceAddr c fence.toNat) value.toNat) id
      (if signalRefused (hostLE b (fenceAddr c fence.toNat) 8) value.toNat then stFenceRegress else stOk) 0 := by
  unfold doFenceSignal
  rw [hc]
  dsimp only
  rw [if_pos hp, signalAt_eq]

theorem signalled_mem (b : Block) (fn a n : Nat) :
    (signalled b fn a n).mem = (hostSwap b a (hostLE b a 8) (signalledWord (hostLE b a 8) n)).mem := by
  rw [signalled, evalWaits_frame]

/-- A signal changes its record, commands, and what is sent: the swap of the old value for the new. -/
theorem signalled_frame (b : Block) (fn a n : Nat) :
    signalled b fn a n = { b with
      mem := { b.mem with host := (signalled b fn a n).mem.host }
      dealer := { b.dealer with cmds := (signalled b fn a n).dealer.cmds }
      out := (hostRequest .cas a 16 (leBytes 8 (hostLE b a 8) ++ leBytes 8 (signalledWord (hostLE b a 8) n)) b).out } := by
  rw [signalled, evalWaits_frame]
  rfl

theorem signalled_record {b : Block} (fn a : Nat) {n : Nat} (hn : n < 2 ^ 63) :
    hostLE (signalled b fn a n) a 8 = signalledWord (hostLE b a 8) n := by
  rw [hostLE, signalled_mem]
  exact hostLE_hostSwap_self b a _ (signalledWord_lt (hostLE_lt b a 8) hn)

theorem signalled_ends {b : Block} {fn a n w : Nat} {k : Cmd} (hn : n < 2 ^ 63) (hf : (fnAt b fn).state ≠ .frozen)
    (hk : k ∈ b.dealer.cmds) (hs : k.stage = .fenceWait a w) (hq : k.q.fn = fn) (hw : w ≤ signalledWord (hostLE b a 8) n % 2 ^ 63) :
    { k with stage := .done stOk (BitVec.ofNat 32 (signalledWord (hostLE b a 8) n % 2 ^ 63)) } ∈ (signalled b fn a n).dealer.cmds := by
  have hv : fenceValue (hostSwap b a (hostLE b a 8) (signalledWord (hostLE b a 8) n)) a = signalledWord (hostLE b a 8) n % 2 ^ 63 := by
    rw [fenceValue, hostLE_hostSwap_self b a _ (signalledWord_lt (hostLE_lt b a 8) hn)]
  rw [← hv] at hw ⊢
  exact evalWaits_ends hf hk hs hq hw

theorem signalled_keeps {b : Block} (fn : Nat) {a : Nat} (n : Nat) {k : Cmd} (hk : k ∈ b.dealer.cmds)
    (hs : ∀ w, k.stage ≠ .fenceWait a w) : k ∈ (signalled b fn a n).dealer.cmds :=
  evalWaits_keeps hk (Or.inr fun w hw => absurd hw (hs w))

/-! ## FENCE_WAIT and the fence doorbell (R236, R248) -/

theorem doFenceWait_eq {q : QRef} {fence : BitVec 16} {value : BitVec 64} {b : Block} {c : Ctx} (id : Nat)
    (hc : ctxAt b q.tag.toNat = some c) (hp : fenceParams c fence value = true) :
    doFenceWait q fence value id b = evalWaits (hostAsk (fenceAddr c fence.toNat) 8
      (setCmd b id (.fenceWait (fenceAddr c fence.toNat) value.toNat))) q.fn (fenceAddr c fence.toNat) := by
  unfold doFenceWait
  rw [hc]
  dsimp only
  rw [if_pos hp]

/-- A live context's fence is read by its doorbell. -/
theorem fenceDoorbell_eq {fn : Nat} {v : BitVec 64} {b : Block} {c : Ctx} (ht : takesDoorbells b fn = true)
    (hc : ctxAt b (v.extractLsb' 32 16).toNat = some c) (hfn : c.fn = fn) (hl : c.state = .live)
    (hi : (v.extractLsb' 0 16).toNat < c.fenceCount) :
    fenceDoorbell fn 64 v b = evalWaits (hostAsk (fenceAddr c (v.extractLsb' 0 16).toNat) 8 b) fn
      (fenceAddr c (v.extractLsb' 0 16).toNat) := by
  have hlive : liveCtx b fn (dbTag v).toNat = some c := by
    rw [liveCtx, dbTag, hc]
    exact if_pos ⟨hfn, by rw [hl]; decide⟩
  unfold fenceDoorbell
  rw [if_pos ht, if_neg (not_not_intro rfl), hlive]
  dsimp only
  rw [if_neg (Nat.not_le.2 hi), if_neg (by rw [hl]; decide)]

/-! ## The commands as they run, and the statement -/

theorem exec_fenceSignal (q : QRef) (h : Hdr) (fence : BitVec 16) (value : BitVec 64) (s : State) (c : Ctx)
    (hc : ctxAt (fetched (.fenceSignal q h fence value) q h 0x40 s.blk) q.tag.toNat = some c) (hi : fence.toNat < c.fenceCount)
    (hv : value.toNat < 2 ^ 63) (ha : accepted (.fenceSignal q h fence value) q h 0x40 s.blk = true) :
    exec (.fenceSignal q h fence value) s = .next
      ⟨finish (signalled (fetched (.fenceSignal q h fence value) q h 0x40 s.blk) q.fn (fenceAddr c fence.toNat) value.toNat)
        s.blk.dealer.nextCmd (if signalRefused (hostLE s.blk (fenceAddr c fence.toNat) 8) value.toNat then stFenceRegress else stOk) 0,
        s.pending⟩ := by
  have hx : exec (.fenceSignal q h fence value) s = .next
      ⟨fetchPacket (.fenceSignal q h fence value) q h 0x40 (doFenceSignal q fence value) s.blk, s.pending⟩ := rfl
  rw [hx, fetchPacket_accepted _ _ _ _ _ _ ha, doFenceSignal_eq _ hc ((fenceParams_iff ..).2 ⟨hi, hv⟩), fetched_hostLE]

theorem exec_fenceWait (q : QRef) (h : Hdr) (fence : BitVec 16) (value : BitVec 64) (s : State) (c : Ctx)
    (hc : ctxAt (fetched (.fenceWait q h fence value) q h 0x41 s.blk) q.tag.toNat = some c) (hi : fence.toNat < c.fenceCount)
    (hv : value.toNat < 2 ^ 63) (ha : accepted (.fenceWait q h fence value) q h 0x41 s.blk = true) :
    exec (.fenceWait q h fence value) s = .next
      ⟨evalWaits (hostAsk (fenceAddr c fence.toNat) 8 (setCmd (fetched (.fenceWait q h fence value) q h 0x41 s.blk)
        s.blk.dealer.nextCmd (.fenceWait (fenceAddr c fence.toNat) value.toNat))) q.fn (fenceAddr c fence.toNat), s.pending⟩ := by
  have hx : exec (.fenceWait q h fence value) s = .next
      ⟨fetchPacket (.fenceWait q h fence value) q h 0x41 (doFenceWait q fence value) s.blk, s.pending⟩ := rfl
  rw [hx, fetchPacket_accepted _ _ _ _ _ _ ha, doFenceWait_eq _ hc ((fenceParams_iff ..).2 ⟨hi, hv⟩)]

/-- Settles O8: a signal swaps its record and evaluates the waits on it; a wait and a fence doorbell read the record and evaluate them. -/
theorem fencesSignalAndWait : Obligations.FencesSignalAndWait := by
  unfold Obligations.FencesSignalAndWait
  refine ⟨fun q h fence value s c => ?_, fun q h fence value s c => ?_, fun fn v s c => ?_⟩
  · intro b a old refused new hc hi hv ha
    have hold : hostLE b a 8 = old := fetched_hostLE ..
    have hnew : signalledWord (hostLE b a 8) value.toNat = new := by
      simp only [signalledWord, signalRefused, hold, new, refused]
    have hlive : (fnAt b q.fn).state ≠ .frozen := fetched_not_frozen ha
    refine ⟨_, exec_fenceSignal q h fence value s c hc hi hv ha, rfl, ?_, fun x hx => ?_, fun k hk w hid hs hq hw => ?_,
      fun k hk hid hs => ?_, ?_, ?_⟩
    · exact (signalled_record q.fn a hv).trans hnew
    · dsimp only
      rw [finish_mem, signalled_mem, memRead_hostSwap_other _ _ _ _ hx, fetched_mem]
    · rw [← hnew] at hw ⊢
      exact setCmd_keeps _ (signalled_ends hv hlive hk hs hq hw) hid
    · exact setCmd_keeps _ (signalled_keeps q.fn value.toNat hk hs) hid
    · obtain ⟨k, hk, hid, -, hs⟩ := fetched_newCmd (.fenceSignal q h fence value) q h 0x40 s.blk
      exact finish_ended _ _ _ _ ⟨k, signalled_keeps q.fn value.toNat hk (by simp [hs]), hid⟩
    · dsimp only
      rw [signalled_frame, ← hnew, ← hold]
      rfl
  · intro b a v hc hi hv ha
    have hval : fenceValue (hostAsk a 8 (setCmd b s.blk.dealer.nextCmd (.fenceWait a value.toNat))) a = v :=
      congrArg (· % 2 ^ 63) (fetched_hostLE (.fenceWait q h fence value) q h 0x41 s.blk a 8)
    have hlive : (fnAt b q.fn).state ≠ .frozen := fetched_not_frozen ha
    obtain ⟨k, hk, hid, hq, -⟩ := fetched_newCmd (.fenceWait q h fence value) q h 0x41 s.blk
    have hwait := setCmd_sets (.fenceWait a value.toNat) hk hid
    refine ⟨_, exec_fenceWait q h fence value s c hc hi hv ha, rfl, fun hle => ?_, fun hlt => ?_, ?_⟩
    · rw [← hval] at hle ⊢
      exact ⟨_, evalWaits_ends hlive hwait rfl (congrArg QRef.fn hq) hle, hid, rfl⟩
    · rw [← hval] at hlt
      refine ⟨_, evalWaits_keeps hwait (Or.inr fun w hw => ?_), hid, rfl⟩
      cases hw
      exact Or.inr hlt
    · dsimp only
      rw [evalWaits_frame]
      rfl
  · intro i a x ht hc hfn hl hi
    have hx : exec (.fenceDoorbell fn 64 v) s = .next ⟨fenceDoorbell fn 64 v s.blk, s.pending⟩ := rfl
    rw [hx, fenceDoorbell_eq ht hc hfn hl hi]
    refine ⟨_, rfl, rfl, fun k hk w hf hs hq hw => evalWaits_ends hf hk hs hq hw, fun k hk hn => evalWaits_keeps hk hn,
      evalWaits_frame ..⟩

end Sys2Proof.Machine
end

section
/-!
PROOF. The JTAG port (R387, R463): which instruction its register takes and what that instruction offers at the pins.
-/

namespace Sys2Proof.Machine
open Sys2Proof

theorem exec_jtagInstruction (i : JtagInst) (s : State) (h : s.blk.jtag.debugOpen = false ∨ debugInst i = false) :
    exec (.jtagInstruction i) s = .next { s with blk := jtagInst i s.blk } := by
  have hrun : (s.blk.jtag.debugOpen && debugInst i) = false := Bool.and_eq_false_iff.2 h
  have hx : exec (.jtagInstruction i) s =
      if s.blk.jtag.debugOpen && debugInst i then .refused .debugInstruction else onBlock (jtagInst i) s := rfl
  rw [hx, hrun]
  rfl

/-- The instruction register takes BYPASS in the place of a debug instruction. -/
theorem jtagInst_jtag (i : JtagInst) (b : Block) :
    (jtagInst i b).jtag = { b.jtag with inst := if debugInst i then .bypass else i } := by
  cases i <;> rfl

/-- Only IDCODE selects a data register whose contents the interface gives. -/
theorem jtagInst_out (i : JtagInst) (b : Block) :
    (jtagInst i b).out = b.out ++ (if i = .idcode then [.tdo 0x1A712C4D] else []) := by
  cases i with
  | idcode => rfl
  | bypass | samplePreload | extest | other => exact (List.append_nil _).symm

/-- An instruction at the port touches the port's register and the pins it offers on, nothing else. -/
theorem jtagInst_frame (i : JtagInst) (b : Block) :
    jtagInst i b = { b with jtag := (jtagInst i b).jtag, out := (jtagInst i b).out } := by
  cases i <;> rfl

/-- Settles O27: by what an instruction does to the port's register, to the pins and to the rest of the block. -/
theorem jtagActsByItsInstruction : Obligations.JtagActsByItsInstruction := by
  unfold Obligations.JtagActsByItsInstruction
  intro i s h
  refine ⟨_, exec_jtagInstruction i s h, rfl, ?_, jtagInst_out i s.blk, jtagInst_frame i s.blk⟩
  exact (jtagInst_jtag i s.blk).trans (by cases i <;> rfl)

end Sys2Proof.Machine
end

section
/-!
PROOF. The housekeeping of the trim round (R138): the accounting close (R434, R435), the switch of the calendars (R149, R376), and the
refresh rates of the stacks (R312).
-/

namespace Sys2Proof.Machine
open Sys2Proof

/-- In the trim round a task runs up to its last tick. -/
theorem trimTask_of_due {b : Block} {t : Nat} (ha : alive b = true) (hk : ticking b = true) (hd : b.tb.boundaryDone = true)
    (hr : b.tb.round = 9999) (ht : b.tb.tick ≤ t) : trimTask b t = true := by
  simp [trimTask, trimRound, ha, hk, hd, hr, ht]

theorem toTick_tb_of_le {b : Block} {t : Nat} (h : b.tb.tick ≤ t) : (toTick b t).tb = { b.tb with tick := t } :=
  congrArg (fun n => { b.tb with tick := n }) (Nat.max_eq_right h)

/-! ## The accounting close (R434, R435) -/

theorem setCause_sets (b : Block) (fn : Nat) {n : Nat} (hn : n < 11) :
    (fnAt (setCause b fn n) fn).intCause.getLsbD n = true := by
  unfold setCause msix
  dsimp only
  have hbit : ((fnAt b fn).intCause ||| BitVec.ofNat 11 (2 ^ n)).getLsbD n = true := by
    rw [BitVec.getLsbD_or, BitVec.getLsbD_ofNat, Nat.testBit_two_pow_self, decide_eq_true hn, Bool.true_and, Bool.or_true]
  (repeat' split) <;> simpa [fnAt_of_fns (offer_fns _ _)] using hbit

/-- A record moves the ring and writes host memory, whichever ring stands after it. -/
theorem acctRecord_quiet (r : AcRing) (b : Block) (bs : List Byte) :
    quietOf (setAcctRing (acctRecord b bs) r) = quietOf (setAcctRing b r) := by
  unfold acctRecord
  dsimp only
  split <;> rfl

theorem acctRecords_quiet (b : Block) (l : List (List Byte)) :
    quietOf (l.foldl acctRecord b) = quietOf (setAcctRing b (l.foldl acctRecord b).acct.ring) :=
  foldl_keeps (fun c => quietOf (setAcctRing c (l.foldl acctRecord b).acct.ring)) (acctRecord_quiet _) l b

theorem afterClose_ctxAt (k : Nat) (b : Block) {g : Nat} {c : Ctx} (h : ctxAt b g = some c) :
    ctxAt (afterClose k b) g = some { c with
      counters := Counters.zero, closing := some ⟨b.tb.epoch, c.counters.unitTicks, chargedNj k c.counters.plannedNj⟩ } := by
  rw [ctxAt] at h ⊢
  rw [afterClose, tabGet_tabMap, h, Option.map_some]

theorem afterClose_partAt (k : Nat) (b : Block) {v : Nat} {p : Part} (h : partAt b v = some p) :
    partAt (afterClose k b) v = some { p with totals := Counters.zero, faults := 0 } := by
  rw [partAt] at h ⊢
  rw [afterClose, tabGet_tabMap, h, Option.map_some]

/-- The first close of an epoch: its records change only the ring and what they send, then the figures close by the ratio k and the
cause of PF0 is set. -/
theorem accountingClose_closes {b : Block} (ht : trimTask b 2048 = true) (hc : b.acct.closedAt ≠ some b.tb.epoch) :
    (∃ r, quietOf (accountingClose b) = quietOf (afterClose (ratio b) (setAcctRing (toTick b 2048) r))) ∧
    (fnAt (accountingClose b) 0).intCause.getLsbD 8 = true := by
  unfold accountingClose
  rw [if_pos (by simp [ht, hc])]
  dsimp only
  refine ⟨⟨((closeRecords (toTick b 2048)).foldl acctRecord (toTick b 2048)).acct.ring, ?_⟩, setCause_sets _ 0 (by decide)⟩
  rw [(setCause_keeps _ _ _).1]
  exact congrArg (afterClose (ratio b)) (acctRecords_quiet (toTick b 2048) (closeRecords (toTick b 2048)))

theorem accountingClose_closed {b : Block} (hc : b.acct.closedAt = some b.tb.epoch) : accountingClose b = b := by
  unfold accountingClose
  rw [if_neg (by simp [hc])]

/-! ## The switch of the calendars (R149, R376) -/

theorem setFnState_mem (b : Block) (fn : Nat) (st : FnState) : (setFnState b fn st).mem = b.mem := by
  unfold setFnState
  split
  · rfl
  · exact (setCause_keeps _ _ _).2

theorem stopFn_keeps (b : Block) (fn : Nat) :
    quietOf (stopFn b fn) = quietOf b ∧ (stopFn b fn).mem = b.mem := by
  unfold stopFn
  split
  · exact ⟨(setFnState_keeps (modFn b fn _) fn .stopping).1, setFnState_mem (modFn b fn _) fn .stopping⟩
  · exact ⟨rfl, rfl⟩

theorem stopFn_grotto (b : Block) (fn : Nat) : (stopFn b fn).grotto = b.grotto :=
  (congrArg Block.grotto (stopFn_keeps b fn).1 :)

/-- A device interface after a breaking event (R376). -/
def brokenTdisp (t : Tdisp) : Tdisp := if t.state = .locked ∨ t.state = .run then { t with state := .error } else t

theorem brokenTdisp_eq {t : Tdisp} (h : t.state = .locked ∨ t.state = .run) : brokenTdisp t = { t with state := .error } := if_pos h

@[simp] theorem brokenTdisp_brokenTdisp (t : Tdisp) : brokenTdisp (brokenTdisp t) = brokenTdisp t := by
  unfold brokenTdisp
  split <;> simp [*]

/-- A breaking event acts on its device interface and its function's fetch, nothing else. -/
theorem tdispError_keeps (g : Grotto) (b : Block) (v : Nat) :
    quietOf { tdispError b v with grotto := g } = quietOf { b with grotto := g } ∧ (tdispError b v).mem = b.mem := by
  unfold tdispError
  split
  · next t _ =>
    split
    · obtain ⟨hq, hm⟩ := stopFn_keeps
        { b with grotto := { b.grotto with tdisp := tabSet b.grotto.tdisp v { t with state := .error } } } v
      exact ⟨congrArg (fun c : Block => { c with grotto := g }) hq, hm⟩
    · exact ⟨rfl, rfl⟩
  · exact ⟨rfl, rfl⟩

theorem tdispError_tdisp (b : Block) (v w : Nat) :
    tabGet (tdispError b v).grotto.tdisp w =
      if w = v then (tabGet b.grotto.tdisp w).map brokenTdisp else tabGet b.grotto.tdisp w := by
  unfold tdispError
  split
  · next t ht =>
    split
    · next hs =>
      rw [stopFn_grotto]
      dsimp only
      rw [tabGet_tabSet, ← brokenTdisp_eq hs]
      split
      · next hw => rw [hw, ht]; rfl
      · rfl
    · next hs =>
      split
      · next hw => rw [hw, ht, Option.map_some, brokenTdisp, if_neg hs]
      · rfl
  · next hn =>
    split
    · next hw => rw [hw, hn]; rfl
    · rfl

theorem tdispErrors_tdisp (l : List Nat) (b : Block) (w : Nat) :
    tabGet (l.foldl tdispError b).grotto.tdisp w =
      if w ∈ l then (tabGet b.grotto.tdisp w).map brokenTdisp else tabGet b.grotto.tdisp w := by
  induction l generalizing b with
  | nil => simp
  | cons v vs ih =>
    rw [List.foldl_cons, ih, tdispError_tdisp]
    by_cases hv : w = v <;> by_cases hs : w ∈ vs <;> simp [hv, hs, Function.comp_def]

theorem tdispErrors_keeps (l : List Nat) (g : Grotto) (b : Block) :
    quietOf { l.foldl tdispError b with grotto := g } = quietOf { b with grotto := g } ∧ (l.foldl tdispError b).mem = b.mem :=
  ⟨foldl_keeps (fun c => quietOf { c with grotto := g }) (fun c v => (tdispError_keeps g c v).1) l b,
    foldl_keeps Block.mem (fun c v => (tdispError_keeps g c v).2) l b⟩

/-- The switch: every staged calendar becomes active, and the interfaces whose quads change are broken off. -/
theorem calendarSwitch_eq {b : Block} (ht : trimTask b 50000 = true) :
    calendarSwitch b = { (switchChanges b).foldl tdispError (toTick b 50000) with
      cal := { ((switchChanges b).foldl tdispError (toTick b 50000)).cal with
        active := ((switchChanges b).foldl tdispError (toTick b 50000)).cal.staged } } := if_pos ht

theorem calendarSwitch_tdisp {b : Block} (ht : trimTask b 50000 = true) {v : Nat} (hv : v ∈ switchChanges b) :
    tabGet (calendarSwitch b).grotto.tdisp v = (tabGet b.grotto.tdisp v).map brokenTdisp := by
  rw [calendarSwitch_eq ht]
  exact (tdispErrors_tdisp _ _ v).trans (if_pos hv)

/-- Besides the interfaces the switch changes the clock and the active calendar, and none of the memory, partitions and contexts. -/
theorem calendarSwitch_fields {b : Block} (ht : trimTask b 50000 = true) :
    (calendarSwitch b).tb = (toTick b 50000).tb ∧ (calendarSwitch b).cal = { b.cal with active := b.cal.staged } ∧
    (calendarSwitch b).mem = b.mem ∧ (calendarSwitch b).parts = b.parts ∧ (calendarSwitch b).ctxs = b.ctxs := by
  obtain ⟨hq, hm⟩ := tdispErrors_keeps (switchChanges b) b.grotto (toTick b 50000)
  obtain ⟨htb, -, -, hctxs, hparts, -, -⟩ := fields_of_quiet hq
  have hcal : ((switchChanges b).foldl tdispError (toTick b 50000)).cal = b.cal := (congrArg Block.cal hq :)
  rw [calendarSwitch_eq ht]
  exact ⟨htb, congrArg (fun c : Calendar => { c with active := c.staged }) hcal, hm, hparts, hctxs⟩

/-! ## The refresh rates (R312) -/

/-- The rate of a stack by its highest reading of the epoch. -/
def stackRate (m : Mem) (k : Nat) : Nat := rateOf m.forceX4 (tabGetD m.stackRegs k ⟨false, 0, 0, 0⟩).epochMax

/-- The bits of MS_REFRESH.rate with the rate of each listed stack set. -/
def putRates (m : Mem) (l : List Nat) (r : BitVec 24) : BitVec 24 := l.foldl (fun r k => putRate r k (stackRate m k)) r

theorem rateOf_eq (force : Bool) (t : Nat) :
    BitVec.ofNat 2 (rateOf force t) = if force = true ∨ 90 ≤ t then 2 else if 80 ≤ t then 1 else 0 := by
  unfold rateOf
  simp only [Bool.or_eq_true, decide_eq_true_eq]
  (repeat' split) <;> rfl

theorem stackRate_lt (m : Mem) (k : Nat) : stackRate m k < 4 := by
  unfold stackRate rateOf
  (repeat' split) <;> decide

/-- A two-bit field at bit 2k, bit by bit. -/
theorem testBit_mul_four_pow {v : Nat} (hv : v < 4) (k i : Nat) :
    (v * 4 ^ k).testBit i = (decide (2 * k ≤ i ∧ i < 2 * k + 2) && v.testBit (i - 2 * k)) := by
  rw [show (4 : Nat) ^ k = 2 ^ (2 * k) by rw [Nat.pow_mul], Nat.testBit_mul_two_pow]
  by_cases h : i < 2 * k + 2
  · simp [h]
  · have hz : v.testBit (i - 2 * k) = false :=
      Nat.testBit_lt_two_pow (Nat.lt_of_lt_of_le hv (show 2 ^ 2 ≤ 2 ^ (i - 2 * k) from Nat.pow_le_pow_right (by decide) (by omega)))
    simp [hz]

/-- A stack's rate is put in its own two bits and in no others. -/
theorem putRate_rate {r : BitVec 24} {j k v : Nat} (hj : j < 12) (hk : k < 12) (hv : v < 4) :
    (putRate r j v).extractLsb' (2 * k) 2 = if k = j then BitVec.ofNat 2 v else r.extractLsb' (2 * k) 2 := by
  refine BitVec.eq_of_getLsbD_eq fun i hi => ?_
  have hbit : 2 * k + i < 24 := by omega
  rw [putRate, BitVec.getLsbD_extractLsb', BitVec.getLsbD_or, BitVec.getLsbD_and, BitVec.getLsbD_not, BitVec.getLsbD_ofNat,
    BitVec.getLsbD_ofNat, testBit_mul_four_pow (by decide), testBit_mul_four_pow hv]
  split
  · next h =>
    subst h
    have h3 : Nat.testBit 3 i = true := by
      obtain rfl | rfl : i = 0 ∨ i = 1 := by omega
      · rfl
      · rfl
    have hin : 2 * k ≤ 2 * k + i ∧ 2 * k + i < 2 * k + 2 := by omega
    simp only [Nat.add_sub_cancel_left, BitVec.getLsbD_ofNat, hi, hbit, h3, hin, and_self, decide_true, Bool.true_and, Bool.and_true,
      Bool.not_true, Bool.and_false, Bool.false_or]
  · next h =>
    have hout : ¬ (2 * j ≤ 2 * k + i ∧ 2 * k + i < 2 * j + 2) := by omega
    simp only [BitVec.getLsbD_extractLsb', hi, hbit, hout, decide_true, decide_false, Bool.true_and, Bool.false_and, Bool.and_false,
      Bool.not_false, Bool.and_true, Bool.or_false]

theorem putRates_rate (m : Mem) (l : List Nat) (hl : ∀ j ∈ l, j < 12) (r : BitVec 24) {k : Nat} (hk : k < 12) :
    (putRates m l r).extractLsb' (2 * k) 2 =
      if k ∈ l then BitVec.ofNat 2 (stackRate m k) else r.extractLsb' (2 * k) 2 := by
  induction l generalizing r with
  | nil => rfl
  | cons j js ih =>
    refine (ih (fun x hx => hl x (List.mem_cons_of_mem j hx)) _).trans ?_
    dsimp only
    rw [putRate_rate (hl j List.mem_cons_self) hk (stackRate_lt m j)]
    by_cases hs : k ∈ js
    · simp [hs]
    · by_cases hj : k = j
      · simp [hj]
      · simp [hs, hj]

/-- The memory with the rate of one stack set. -/
def takeRate (m : Mem) (k : Nat) : Mem := { m with rate := putRate m.rate k (stackRate m k) }

theorem takeRates_eq (l : List Nat) (m : Mem) : l.foldl takeRate m = { m with rate := putRates m l m.rate } := by
  induction l generalizing m with
  | nil => rfl
  | cons j js ih => exact ih (takeRate m j)

/-- The stacks of the build take their rates, and nothing else of the memory changes with them. -/
theorem refreshRate_eq {b : Block} (ht : trimTask b 55999 = true) :
    refreshRate b = { toTick b 50001 with
      mem := { b.mem with rate := putRates b.mem ((List.range 12).filter (stackHere b)) b.mem.rate } } := by
  unfold refreshRate
  rw [if_pos ht]
  exact congrArg (fun m => { toTick b 50001 with mem := m }) (takeRates_eq _ b.mem)

/-! ## The statement -/

/-- Settles O44: what the close, the switch of the calendars and the refresh rates each change, and what they leave. -/
theorem trimRoundTasks : Obligations.TrimRoundTasks := by
  unfold Obligations.TrimRoundTasks
  intro s ha hk hd hr
  dsimp only
  refine ⟨fun ht hc => ?_, fun hc => ?_, fun ht => ?_, fun ht => ?_⟩
  · obtain ⟨⟨r, hq⟩, hcause⟩ := accountingClose_closes (trimTask_of_due ha hk hd hr ht) hc
    obtain ⟨htb, -, hbytes, hctxs, hparts, hdealer, -⟩ := fields_of_quiet hq
    have hacct := (congrArg Block.acct hq :)
    refine ⟨{ s with blk := accountingClose s.blk }, rfl, rfl, ?_, fun g c hg => ?_, fun v p hp => ?_, ?_, hcause, hbytes, hdealer,
      (congrArg Block.cal hq :)⟩
    · exact htb.trans (toTick_tb_of_le ht)
    · have hg' := afterClose_ctxAt (ratio s.blk) (setAcctRing (toTick s.blk 2048) r) hg
      exact ⟨_, (congrArg (tabGet · g) hctxs).trans hg', rfl, rfl⟩
    · exact (congrArg (tabGet · v) hparts).trans (afterClose_partAt (ratio s.blk) (setAcctRing (toTick s.blk 2048) r) hp)
    · have hring : (accountingClose s.blk).acct.ring = r := congrArg (fun a : Acct => a.ring) hacct
      rw [hring]
      exact hacct
  · have hx : exec .accountingClose s = .next { s with blk := accountingClose s.blk } := rfl
    rw [hx, accountingClose_closed hc]
  · have hdue := trimTask_of_due ha hk hd hr ht
    obtain ⟨htb, hcal, hmem, hparts, hctxs⟩ := calendarSwitch_fields hdue
    refine ⟨{ s with blk := calendarSwitch s.blk }, rfl, rfl, htb.trans (toTick_tb_of_le ht), hcal, hmem, hparts, hctxs,
      fun v x hv hx hs => ?_⟩
    rw [calendarSwitch_tdisp hdue hv, hx, Option.map_some, brokenTdisp_eq hs]
  · have hx : exec .refreshRateChange s = .next { s with blk := refreshRate s.blk } := rfl
    rw [hx, refreshRate_eq (trimTask_of_due ha hk hd hr ht)]
    refine ⟨_, rfl, rfl, fun k hk => ?_, rfl⟩
    dsimp only
    rw [putRates_rate s.blk.mem _ (fun j hj => List.mem_range.1 (List.mem_filter.1 hj).1) _ hk, stackRate, rateOf_eq]
    simp only [List.mem_filter, List.mem_range, hk, true_and]

end Sys2Proof.Machine
end
